-- ==== Sys2Proof/Word.lean ====
section
/-!
DEFINITION. The word types of the Dalord TY-D1640 (spec/03_ezham_core_model.md R110): 32-bit words, bytes and the
72-bit accumulator.
-/
namespace Sys2Proof

/-- A 32-bit word: a data register, a control register, a register of a block. -/
abbrev Word := BitVec 32

/-- One byte of a memory or of a packet. -/
abbrev Byte := BitVec 8

/-- An accumulator: 72 bits, two's complement (R94). -/
abbrev Acc := BitVec 72

end Sys2Proof
end

