-- ==== Sys2Proof/Machine/Forms.lean ====
section
/-!
DEFINITION. The forms that operands of commands take: levels, addressing modes (spec/03_ezham_core_model.md R115) and transform
variants.
-/
namespace Sys2Proof.Machine

/-- A level of PSW.LVL (R206). -/
inductive Level where
  | user | kernel | machine
  deriving DecidableEq, Repr

/-- An addressing mode of a long load or store (R115, R138); `off` holds OFF8. -/
inductive Mode where
  | ind
  | off (o : BitVec 8)
  | inc | dec | modInc | modDec | brev
  deriving DecidableEq, Repr

/-- An addressing mode of a short load or store (R122, R137). -/
inductive SMode where
  | ind | inc | dec | modInc
  deriving DecidableEq, Repr

/-- The long mode that acts as a short one. -/
def SMode.long : SMode → Mode
  | .ind => .ind
  | .inc => .inc
  | .dec => .dec
  | .modInc => .modInc

end Sys2Proof.Machine
end

