-- ==== Sys2Proof/Config.lean ====
section
/-!
DEFINITION. What the spec leaves open: free values, each an opaque constant without a body, applied to a counter, to a
cabinet number or to the operands it depends on. Nothing in Lean can evaluate one, so what is proved holds for every value.
notes/assumptions names the entry of each.
-/
namespace Sys2Proof

/-- FMADD of an infinity times zero plus a quiet NaN: whether FNV sets (log 14). -/
opaque Config.fmaddInvalidOnNaN : Bool

/-- SINCOS and ATAN2: which of the values within 2^−26 of full scale is delivered (R147); by operation, result number
and operands (log 13). -/
opaque Config.trigChoice (op res : Nat) (a b : Word) : Nat

/-- XFORM: which of the values within 2^−26 of full scale each result takes (R152); by variant, result and inputs (log 13). -/
opaque Config.xformChoice (v res : Nat) (b0 b1 b2 b3 : Word) : Nat

/-- A pulse of 2 ns to 5 ns on Ck_TRIP_N or Ck_EN_N: whether it acts (09 R325, R326); by pin, cabinet and the cabinet's
counter of free values (log 15). -/
opaque Config.pinPulseActs (enable : Bool) (cab ctr : Nat) : Bool

/-- A timestamp's tolerance of ±2 ticks (10 R340, 12 R407): which of the five values an edge takes; by cabinet, input and the
cabinet's counter of free values (log 16). -/
opaque Config.edgeJitter (cab input ctr : Nat) : Nat

/-- A drawer table word nothing has written since power-on, and whether its parity holds (11 R384); by cabinet, drawer,
address and power-on (log 4). -/
opaque Config.drawerWord (cab drawer addr epoch : Nat) : Word
opaque Config.drawerParityOk (cab drawer addr epoch : Nat) : Bool

/-- A byte of data memory or frame scratch that nothing has written since power-on, and whether its parity holds (13 R440,
R441); by cabinet, address and power-on (log 4). -/
opaque Config.ramByte (cab addr epoch : Nat) : Byte
opaque Config.ramParityOk (cab addr epoch : Nat) : Bool

/-- The physical word of a syllable of the program store (bank 0) or of a loop-store bank (1, 2) that nothing has written since
power-on (13 R440); by cabinet, store, address and power-on (log 4). -/
opaque Config.storeWord (cab store addr epoch : Nat) : BitVec 16

/-- The cycle counts of a precise sample outside a run that the spec's rules do not fix without the pipeline's history: LAT, STALL
and DLY (14 R463); by cabinet and the cabinet's counter of free values (log 17). -/
opaque Config.sampleTiming (cab ctr : Nat) : Word

/-- Whether the parity of a microcode entry not wholly written since power-on holds (13 R440); by cabinet, entry and
power-on (log 4). -/
opaque Config.uopParityOk (cab entry epoch : Nat) : Bool

/-- The device identity and the key that slot 0 holds at manufacture (16 SBD_ID, 18 R574); log 31. -/
opaque Config.identity : BitVec 64
opaque Config.deviceKey : Nat → Byte

/-- The device nonces that the random source draws (16 R511), by the number of the draw and the byte (log 31). -/
opaque Config.nonceByte (draw i : Nat) : Byte

/-- Where the ledger looks first for a FREE run (17 R558), by the number of the allocation (log 32). -/
opaque Config.ledgerIndex (n : Nat) : Nat

/-- A byte of the image store that nothing has written (18 R588; log 33). -/
opaque Config.imageByte (addr : Nat) : Byte

/-- The verdict of the two ECDSA checks on a firmware slot (18 R590), and the version in its header (18 R591): by the slot and
the bytes written to it (log 33). -/
opaque Config.firmwareSigned (slot : Nat) (bytes : List (Nat × Byte)) : Bool
opaque Config.firmwareVersion (slot : Nat) (bytes : List (Nat × Byte)) : Nat

/-- The rate of ring time after a SYNC, in ppm above −200 (15 R486; log 34): by the number of the correction. -/
opaque Config.syncRate (n : Nat) : Nat

/-- The RSEQ field of an order notice (16 R507, R531), which no ring numbers (log 35). -/
opaque Config.noticeSeq (n : Nat) : Word

/-- What the trims of a converter's calibration leave of its errors, in LSB and, for gain, in hundredths of a percent (08 R270, R635): by
cabinet, physical converter, the calibration's number and, for linearity, the code (log 94). -/
opaque Config.offsetError (cab conv cal : Nat) : Int
opaque Config.gainError (cab conv cal : Nat) : Int
opaque Config.linearityError (cab conv cal : Nat) (code : Int) : Int

/-- The error of a converter that has not calibrated since power-on, which the spec does not bound: by cabinet, converter and code
(log 94). -/
opaque Config.rawError (cab conv : Nat) (code : Int) : Int

/-- Where a comparator's level stands while it moves (08 R295): by cabinet, side and the cabinet's counter of free values (log 95). -/
opaque Config.dacLevel (cab side ctr : Nat) : Nat

/-- A low pulse of 50 ns to 100 ns on PWRFAIL_N, or of 100 ns to 1 µs on RESET_N: whether it acts (19 R600, R612; log 15). -/
opaque Config.chipPulseActs (reset : Bool) (n : Nat) : Bool

end Sys2Proof
end

