-- ==== Sys2Proof/Machine/Bits.lean ====
section
/-!
DEFINITION. Bit fields, sign extension, saturation, byte order and lists kept sorted by a key: the small helpers every
block of the model uses.
-/
namespace Sys2Proof.Machine

/-- Bit `i` of a bit vector, false beyond its width. -/
def bit {n : Nat} (w : BitVec n) (i : Nat) : Bool := w.getLsbD i

/-- The field of `w` at bits [lo+width-1 : lo], as a number. -/
def fld {n : Nat} (w : BitVec n) (lo width : Nat) : Nat := (w.toNat / 2 ^ lo) % 2 ^ width

/-- A word with ones at bits [lo+width-1 : lo]. -/
def maskW (lo width : Nat) : Word := BitVec.ofNat 32 ((2 ^ width - 1) * 2 ^ lo)

/-- `w` with the field at bits [lo+width-1 : lo] replaced by the low bits of `v`. -/
def setFld (w : Word) (lo width v : Nat) : Word :=
  (w &&& ~~~ (maskW lo width)) ||| BitVec.ofNat 32 ((v % 2 ^ width) * 2 ^ lo)

/-- `w` with bit `i` set to `b`. -/
def setBit (w : Word) (i : Nat) (b : Bool) : Word := setFld w i 1 b.toNat

/-- The word with only bit `i` set. -/
def bitW (i : Nat) : Word := BitVec.ofNat 32 (2 ^ i)

/-- A Boolean as a word shifted to bit `i`. -/
def boolAt (b : Bool) (i : Nat) : Word := if b then bitW i else 0

/-- A number as a word shifted to bit `lo`. -/
def natAt (v lo : Nat) : Word := BitVec.ofNat 32 (v * 2 ^ lo)

/-- The two's-complement value of the low `n` bits of `v`. -/
def sextNat (n v : Nat) : Int :=
  let m := v % 2 ^ n
  if m < 2 ^ (n - 1) then (m : Int) else (m : Int) - 2 ^ n

/-- The value nearest to `x` in the signed `n`-bit range, and whether it differs from `x` (R111). -/
def satS (n : Nat) (x : Int) : Int × Bool :=
  let hi : Int := 2 ^ (n - 1) - 1
  let lo : Int := - 2 ^ (n - 1)
  if x > hi then (hi, true) else if x < lo then (lo, true) else (x, false)

/-- An integer as a word, modulo 2^32. -/
def wordOfInt (x : Int) : Word := BitVec.ofInt 32 x

/-- The bytes of a number, least significant first. -/
def bytesOf : Nat → Nat → List Byte
  | 0, _ => []
  | n + 1, v => BitVec.ofNat 8 v :: bytesOf n (v / 256)

/-- The number whose little-endian bytes are given. -/
def natOfBytes : List Byte → Nat
  | [] => 0
  | b :: bs => b.toNat + 256 * natOfBytes bs

/-- The number whose big-endian bytes are given. -/
def natOfBytesBE (bs : List Byte) : Nat := bs.foldl (fun n b => n * 256 + b.toNat) 0

/-- The bytes of a number, most significant first. -/
def bytesBE (n v : Nat) : List Byte := (bytesOf n v).reverse

/-- The low `n` bits of `v` in reverse order. -/
def bitrev : Nat → Nat → Nat
  | 0, _ => 0
  | n + 1, v => (v % 2) * 2 ^ n + bitrev n (v / 2)

/-- The number of ones among the low `n` bits of `v`. -/
def popcount : Nat → Nat → Nat
  | 0, _ => 0
  | n + 1, v => v % 2 + popcount n (v / 2)

/-- The number of leading zeros of the low `n` bits of `v`. -/
def leadingZeros : Nat → Nat → Nat
  | 0, _ => 0
  | n + 1, v => if v / 2 ^ n % 2 = 1 then 0 else 1 + leadingZeros n v

/-- The largest `r` with `r * r ≤ n`, found bit by bit from bit `k - 1` down, on top of `r`. -/
def isqrtFrom : Nat → Nat → Nat → Nat
  | 0, r, _ => r
  | k + 1, r, n =>
    let t := r + 2 ^ k
    isqrtFrom k (if t * t ≤ n then t else r) n

/-- The integer square root of a number below 4^k. -/
def isqrt (k n : Nat) : Nat := isqrtFrom k 0 n

/-- The entry of key `a` in a list sorted by key. -/
def assocGet {α : Type} (a : Nat) : List (Nat × α) → Option α
  | [] => none
  | (b, x) :: t => if a = b then some x else assocGet a t

/-- The list with the entry of key `a` set, kept sorted by key. -/
def assocPut {α : Type} (a : Nat) (x : α) : List (Nat × α) → List (Nat × α)
  | [] => [(a, x)]
  | (b, y) :: t => if a < b then (a, x) :: (b, y) :: t else if a = b then (a, x) :: t else (b, y) :: assocPut a x t

/-- The list without the entry of key `a`. -/
def assocErase {α : Type} (a : Nat) : List (Nat × α) → List (Nat × α)
  | [] => []
  | (b, y) :: t => if a = b then t else (b, y) :: assocErase a t

/-- The keys of a list are strictly rising. -/
def assocSorted {α : Type} : List (Nat × α) → Bool
  | [] => true
  | [_] => true
  | (a, _) :: (b, y) :: t => decide (a < b) && assocSorted ((b, y) :: t)

/-- Insert a number into a strictly rising list. -/
def setInsert (a : Nat) : List Nat → List Nat
  | [] => [a]
  | b :: t => if a < b then a :: b :: t else if a = b then b :: t else b :: setInsert a t

/-- Inserts an element into a list that rises by `f`. -/
def insertBy {α : Type} (f : α → Nat) (x : α) : List α → List α
  | [] => [x]
  | y :: t => if f x ≤ f y then x :: y :: t else y :: insertBy f x t

/-- The list in rising order of `f`; equal elements keep their order. -/
def sortBy {α : Type} (f : α → Nat) (xs : List α) : List α := xs.foldr (insertBy f) []

/-- The first index `i` below `n` with `p i`, from `i = lo`. -/
def findIdx (p : Nat → Bool) : Nat → Nat → Option Nat
  | 0, _ => none
  | n + 1, lo => if p lo then some lo else findIdx p n (lo + 1)

end Sys2Proof.Machine
end

