-- ==== Sys2Proof/Machine/CoreState.lean ====
section
/-!
DEFINITION. The state of one Ezham core, of the cabinet's memories and of its frame (spec/02_the_frame.md,
spec/03_ezham_core_model.md, spec/05_pipeline_and_timing.md, spec/06_privilege_and_exceptions.md). A value the spec leaves
open at reset (its cards say U) is 0 here: DESIGN CHOICE, log 1.
-/
namespace Sys2Proof.Machine

/-- One register context: the supervisory one, or the frame context of R55. a7 is the level's stack pointer (R93). -/
structure Ctx where
  d : Vector Word 16 := Vector.replicate 16 0
  a : Vector Word 7 := Vector.replicate 7 0
  acc : Vector Acc 2 := Vector.replicate 2 0
  deriving DecidableEq, Repr

/-- The access of a fault, ECAUSE.ACC. -/
inductive AccKind where
  | fetch | load | store | none
  deriving DecidableEq, Repr

/-- An exception raised and not yet entered: its vector, its access, the address under the EADDR card, and for a trap the level of
the instruction that raised it (R208). -/
structure Exc where
  vec : Nat
  acc : AccKind := .none
  addr : Word := 0
  level : Option Level := none
  deriving DecidableEq, Repr

/-- A retired store waiting in the store buffer (R182): its bytes, and the level at which it executed (R654). -/
structure StoreEntry where
  addr : Nat
  size : Nat
  data : Word
  level : Level
  deriving DecidableEq, Repr

/-- A deferred control-register write (R197): `after = some n` takes effect after `n` more instructions (R198),
`none` at the next SYNC.C (R199). -/
structure Deferred where
  reg : Nat
  value : Word
  after : Option Nat
  deriving DecidableEq, Repr

/-- What holds supervisory issue: nothing, WAITF (R65) or WFI (R164). -/
inductive Hold where
  | none | waitf | wfi
  deriving DecidableEq, Repr

/-- A byte of memory as it stood: its address, its contents (none: nothing has written it) and whether its stored parity is wrong. -/
abbrev SavedByte := Nat × Option Byte × Bool

/-- What an exception entry changed, kept until the handler's first instruction retires, to undo a failed entry
(R221): the values before the entry and the bytes under the two pushes, the exception's resume address, whether it was itself a
double fault, and whether it ended a run. -/
structure EntryUndo where
  psw : Word
  epc : Word
  epsw : Word
  msp : Word
  ksp : Word
  mdepth : Nat
  resume : Word
  double : Bool
  ranRun : Bool
  saved : List SavedByte := []
  deriving DecidableEq, Repr

/-- A resource whose availability the run's count follows (R169, R205). -/
inductive Res where
  | d (i : Nat) | a (i : Nat) | acc (i : Nat) | flags | tmp (i : Nat)
  deriving DecidableEq, Repr

/-- What the count needs of one instruction or micro-operation: the stations it takes, its latency, its sources and results,
the stop of a class S or V instruction (`stall`), its memory access (address and size), and the words that a class V instruction
writes (R191). -/
structure Micro where
  alu : Bool := false
  mac : Bool := false
  ls : Bool := false
  flt : Bool := false
  lat : Nat := 1
  src : List Res := []
  dst : List Res := []
  stall : Nat := 0
  vec : Bool := false
  sync : Bool := false
  afterBranch : Bool := false
  /-- Starts only as the oldest instruction (R171). -/
  oldest : Bool := false
  load : Option (Nat × Nat) := none
  store : Option (Nat × Nat) := none
  writes : List Nat := []
  deriving DecidableEq, Repr

/-- An executed instruction of a run as the count takes it: the address of its last syllable, whether it is a custom instruction or a
branch, its micro-operations, and the target of a taken branch with the cycles from its start to the fetch of the target. -/
structure SchedInstr where
  last : Nat
  custom : Bool
  branch : Bool
  ms : List Micro
  jump : Option (Nat × Nat)
  deriving DecidableEq, Repr

/-- A store of the run, for the count: its address and size, and the cycles in which it starts and retires (R182, R183). -/
structure SchedStore where
  addr : Nat
  size : Nat
  start : Nat
  retire : Nat
  deriving DecidableEq, Repr

/-- The cycles that a run's instructions have waited (14 R449): partial overlap (R186), issue stops (R190, R191), class Y (R192), a
reorder-buffer entry and a station entry (R167), a store-buffer entry (R182). -/
structure Waits where
  overlap : Nat := 0
  stop : Nat := 0
  serial : Nat := 0
  rob : Nat := 0
  station : Nat := 0
  buffer : Nat := 0
  deriving DecidableEq, Repr

/-- The cycles I, E, C and T of an instruction, and the STALL code of what held its start in the last waiting cycle (14 R464; none: one
for which R464 names no code). -/
structure Timing where
  issue : Nat := 0
  start : Nat := 0
  complete : Nat := 0
  retire : Nat := 0
  cause : Option Nat := some 0
  deriving DecidableEq, Repr

/-- The count of a run by R205: cycles from cycle 0. The lists hold the most recent first. `retire` and `issue` hold T and I of
each instruction (or micro-operation), `rob` the T of each reorder-buffer entry, the station lists hold starts. -/
structure Sched where
  avail : List (Res × Nat) := []
  retire : List Nat := []
  issue : List Nat := []
  rob : List Nat := []
  alu : List Nat := []
  mac : List Nat := []
  ls : List Nat := []
  flt : List Nat := []
  /-- The cycles in which a load starts an access to frame scratch, and those that the drains take account of (R183). -/
  loads : List Nat := []
  assumed : List Nat := []
  stores : List SchedStore := []
  /-- The words that class V instructions wrote and the cycle from which a load finds them (R191). -/
  vmem : List (Nat × Nat) := []
  waits : Waits := {}
  /-- The timing of the last instruction or micro-operation. -/
  timing : Timing := {}
  /-- No issue before this cycle (class Y), and the last issue stop (R190, R191). -/
  issueFrom : Nat := 0
  stopFrom : Nat := 0
  stopTo : Nat := 0
  /-- One cycle after the latest start of a branch (R177). -/
  branchE : Nat := 0
  /-- The cycle and the group of the fetch stream's first group (R173). -/
  fetchS : Nat := 0
  fetchGroup : Nat := 0x4000
  /-- The instructions counted, most recent first; which of them, from the oldest, is the run's commit. -/
  hist : List SchedInstr := []
  duty : Option Nat := none
  /-- The record is made again from `hist`, on the load starts `assumed` (`Sched.settle`). -/
  again : Bool := false
  deriving DecidableEq, Repr

/-- A line of 16 syllables as the instruction cache and the line buffer hold it (R178): its number and its physical words (R109). -/
structure CacheLine where
  line : Nat
  words : List (BitVec 16)
  deriving DecidableEq, Repr

/-- A line fill of the instruction cache in progress (R179): the line as the program store held it when the fill started, and the
cycles since. -/
structure LineFill where
  line : CacheLine
  age : Nat
  deriving DecidableEq, Repr

/-- One set of the two-way instruction cache (R178): the lines held, most recently used first. -/
abbrev CacheSet := List CacheLine

/-- An aligned group of 8 syllables in the fetch buffer (R173): its number and its physical words. -/
structure FetchGroup where
  group : Nat
  words : List (BitVec 16)
  deriving DecidableEq, Repr

/-- One Ezham core (03, 05, 06). -/
structure Core where
  sup : Ctx := {}
  frm : Ctx := {}
  frmFlags : Word := 0
  s : Vector Word 4 := Vector.replicate 4 0
  pc : Word := 0
  runPc : Word := 0
  psw : Word := 0x00003000
  evb : Word := 0
  epc : Word := 0
  epsw : Word := 0
  ecause : Word := 0x00000300
  eaddr : Word := 0
  prg : Word := 0
  msp : Word := 0x00022000
  ksp : Word := 0
  usp : Word := 0
  brv : Word := 0
  ml : Vector Word 8 := Vector.replicate 8 0
  uplo : Word := 0
  uphi : Word := 0
  udlo : Word := 0
  udhi : Word := 0
  uperm : Word := 0
  deriving DecidableEq, Repr

/-- The core's execution machinery beside its registers (05, 06). -/
structure Pipe where
  stopped : Bool := true
  hold : Hold := .none
  issueStop : Bool := false
  deferred : List Deferred := []
  sbuf : List StoreEntry := []
  fault : Option Exc := none
  trap : Option Exc := none
  runExc : Option Exc := none
  /-- Register-block store violations pending, oldest first (R654). -/
  violation : List (Level × Word) := []
  /-- A trap and violations that R232 holds behind a run's exception. -/
  heldTrap : Option Exc := none
  heldViol : List (Level × Word) := []
  overrun : Bool := false
  mdepth : Nat := 0
  fresh : Option EntryUndo := none
  /-- MDEPTH in a double-fault handler whose first instruction has not retired (R222). -/
  dfDepth : Option Nat := none
  /-- Issue has resumed after a run, WAITF or WFI: a cause that can be selected is taken before the next instruction (R64, R65, R164). -/
  entryFirst : Bool := false
  /-- The elements that a resumable instruction of supervisory code in progress has completed (R157). -/
  walked : Option Nat := none
  sched : Sched := {}
  cache : List (Nat × CacheSet) := []
  lineBuf : Option CacheLine := none
  /-- The fetch buffer: at most two groups (R173). -/
  fetchBuf : List FetchGroup := []
  fill : Option LineFill := none
  deriving DecidableEq, Repr

/-- A memory of bytes: those written since power-on, sorted by address, and the addresses whose stored parity is wrong
(13 R425). A byte that is not listed has no contents the spec gives (13 R440). -/
structure Mem where
  cells : List Host.Cell := []
  bad : List Nat := []
  deriving DecidableEq, Repr

/-- A memory of syllables: the 16-bit physical words written since power-on, sorted by address (R109). -/
abbrev SylMem := List (Nat × BitVec 16)

/-- The cabinet's memories (R101, R104); `epoch` tells apart the contents of different power-ons. -/
structure Mems where
  data : Mem := {}
  prog : SylMem := []
  bankA : SylMem := []
  bankB : SylMem := []
  epoch : Nat := 0
  deriving DecidableEq, Repr

/-- CAB_STATE.STATE. -/
inductive CabMode where
  | empty | loaded | armed | running | tripped | parked | test
  deriving DecidableEq, Repr

/-- Where a duty commit of the run stands between DUTY and the shadow latch (R52, R309). -/
inductive CommitPhase where
  | none
  | port (mask : Nat) (duties : List Word)
  | shadow
  deriving DecidableEq, Repr

/-- The frame of a cabinet (02): CAB_FRAME, CAB_LOOPCFG, CAB_FRAMESTAT, CAB_FRAMECNT, CAB_LASTRUN and the loop path.
`pos` counts cycles from the frame boundary; `half` is the update point of the current sample set. -/
structure Frame where
  flen : Nat := 0xC80
  dual : Bool := false
  deadline : Nat := 112
  fallback : Bool := true
  ovtrip : Bool := true
  stat : Word := 0
  count : Word := 0
  lastDutyN : Nat := 0x7FF
  lastRunN : Nat := 0
  running : Bool := false
  pos : Nat := 0
  hbCount : Nat := 0
  half : Bool := false
  /-- The sample instant of the current set was reached and its set is not complete. -/
  sampling : Bool := false
  /-- An update point has passed and its sample instant is still to come: `some true` for U1. -/
  due : Option Bool := none
  /-- The current set is complete and the guard counts for it (R67, R68). -/
  guarding : Bool := false
  inRun : Bool := false
  committed : Bool := false
  acted : Bool := false
  dutyN : Nat := 0x7FF
  commit : CommitPhase := .none
  /-- The update point (in frames of cycles) and instant of the last set, for the length of a run ended under R66. -/
  lastHalf : Bool := false
  lastInstant : Nat := 0
  deriving DecidableEq, Repr

/-- The loop-store bank select, CAB_BANKSEL (02). -/
structure BankSel where
  active : Bool := false
  req : Bool := false
  validA : Bool := false
  validB : Bool := false
  staging : Bool := false
  swapAtRunEnd : Bool := false
  /-- A swap pending at a wake waits for the first frame boundary (R83). -/
  atBoundary : Bool := false
  deriving DecidableEq, Repr

end Sys2Proof.Machine
end

