-- ==== Sys2Proof/Machine/BlockState.lean ====
section
/-!
DEFINITION. The state of a cabinet's register blocks (spec/07 to spec/14 and the port of spec/16), each field at the reset
value of its card.
-/
namespace Sys2Proof.Machine

/-- The error and event registers a block has (01 R22, 08 R304): BLOCK_BERR, BLOCK_BESC, BLOCK_IRQ, BLOCK_IRQEN. -/
structure BlkErr where
  berr : Word := 0
  besc : Word := 0
  irq : Word := 0
  irqen : Word := 0
  deriving DecidableEq, Repr

/-- The register blocks of a cabinet, in the order of their bases (00 R6). -/
inductive Blk where
  | cab | cnv | pwm | fbk | drw | tmr | icu | par | prf | ord | dec
  deriving DecidableEq, Repr

/-- A block's number: its base is 0x0004_0000 + 0x1000 × number. -/
def Blk.idx : Blk → Fin 11
  | .cab => 0 | .cnv => 1 | .pwm => 2 | .fbk => 3 | .drw => 4 | .tmr => 5 | .icu => 6 | .par => 7 | .prf => 8
  | .ord => 9 | .dec => 10

/-- A request of a sequencer entry (08 R265): none, waiting, or converting on a physical converter. -/
inductive SeqPhase where
  | idle | waiting | converting (conv : Nat)
  deriving DecidableEq, Repr

/-- The spare's state, CNV_ROT.SPST. -/
inductive SpareState where
  | waiting | calibrating | matching | ready
  deriving DecidableEq, Repr

/-- A converter's trims (R270): the calibration whose offset, gain and linearity trims are in force (none: it has not calibrated since
power-on), and the adjustment of the offset trim by matching since (R275). -/
structure Trim where
  cal : Option Nat := none
  adj : Int := 0
  deriving DecidableEq, Repr

/-- Converters, rotation and tracker (08). -/
structure Cnv where
  sel : Word := 0x00003210
  selNext : Option Word := none
  win : Word := 0x00200000
  winNext : Option Word := none
  trk : Word := 0x00000830
  e0 : Nat := 0
  e1 : Nat := 0
  rotcfg : Word := 0x010803FF
  rotcfgNext : Option Word := none
  pos : Vector Nat 4 := #v[0, 1, 2, 3]
  spare : Nat := 4
  nextPos : Nat := 0
  spst : SpareState := .waiting
  /-- The outgoing converter of the last rotation still performs a sequencer conversion (R268). -/
  spareBusy : Bool := false
  rotCount : Nat := 0
  rotSkip : Nat := 0
  calDone : Bool := false
  calFail : Bool := false
  /-- The initial calibration of all five converters is running (R273). -/
  initCal : Bool := false
  mdiff : Int := 0
  matchN : Nat := 0
  matchSum : Int := 0
  /-- The trims of each physical converter (R270, R275). -/
  trim : Vector Trim 5 := Vector.replicate 5 {}
  /-- The differential voltage Vd of each analog input, in units of 125 nV (R256). -/
  vd : Vector Int 8 := Vector.replicate 8 0
  /-- The codes of the set that the converters of positions 0 to 3 hold, and of the hold of a spare that matches beside it (R258, R260,
R275). -/
  held : Vector (BitVec 14) 4 := Vector.replicate 4 0
  heldSpare : Option (BitVec 14) := none
  testres : Word := 0
  seq : Vector Word 8 := Vector.replicate 8 0
  res : Vector Word 8 := Vector.replicate 8 0
  seqMiss : Nat := 0
  seqPhase : Vector SeqPhase 8 := Vector.replicate 8 .idle
  /-- The sample instant of the current set, in cycles after its update point, and whether it is decided: its reserved interval has begun
(R262, R289). -/
  instant : Nat := 0
  decided : Bool := false
  /-- The instant of the next set, where its reserved interval has begun before the update point. -/
  ahead : Option Nat := none
  deriving DecidableEq, Repr

/-- A side's level on its way to a new value (R295): where it has come from, and the cycles until the change is complete. -/
structure LevelMove where
  from' : Int
  left : Nat
  deriving DecidableEq, Repr

/-- Window comparators (08). Bits 0 to 7 are the H sides, bits 8 to 15 the L sides. -/
structure Cmpr where
  cfg : Vector Word 8 := #v[0x238FC010, 0x239FC010, 0x23AFC010, 0x23BFC010, 0x23CFC010, 0x23DFC010, 0x23EFC010, 0x23FFC010]
  pe : Vector Word 8 := Vector.replicate 8 0x00001000
  thr : Vector Word 8 := Vector.replicate 8 0x03FF0000
  stat : Word := 0
  flag : Word := 0
  trip : Word := 0
  /-- Comparators within pulse-end blanking and within trip blanking (R297). -/
  blankPulse : Word := 0
  blankTrip : Word := 0
  /-- The levels that move (R295), by side as in `stat`. -/
  move : Vector (Option LevelMove) 16 := Vector.replicate 16 none
  deriving DecidableEq, Repr

/-- One output of a pair (09 R314, R322). -/
structure Output where
  /-- It asks to be active by MODE and the reference (R313), with the dead time in force when it began (R316). -/
  asks : Bool := false
  wait : Nat := 0
  /-- It has asked, and its partner has been inactive, for that dead time (R314). -/
  ripe : Bool := false
  /-- It is forced to be active (R322), with the dead time in force when that began (R328). -/
  safe : Bool := false
  safeWait : Nat := 0
  active : Bool := false
  deriving DecidableEq, Repr

/-- One output pair (09): its registers, its reference and its two outputs. -/
structure Pair where
  duty : Word := 0
  shd : Nat := 0
  cmp : Nat := 0
  cfg : Word := 0
  cfgNext : Option Word := none
  dtfix : Word := 0x82800280
  dtlim : Word := 0x0C800140
  dtadp : Word := 0x00002010
  ea : Nat := 0x280
  eb : Nat := 0x280
  /-- Whether x < K_p at the last evaluation (R311). -/
  below : Bool := false
  cut : Bool := false
  boost : Bool := false
  a : Output := {}
  b : Output := {}
  deriving DecidableEq, Repr

/-- The PWM block and the force stage (09). -/
structure Pwm where
  triangle : Bool := false
  pair : Vector Pair 4 := Vector.replicate 4 {}
  late : Word := 0
  fbsafe : Bool := false
  rel : Bool := false
  tripsrc : Word := 0
  first : Nat := 0xF
  testres : Word := 0
  safe : Word := 0x01000000
  /-- Levels of Ck_TRIP_N and Ck_EN_N. -/
  tripN : Bool := true
  enN : Bool := false
  deriving DecidableEq, Repr

/-- FBK_TIDX.TSYNC (10 R353). -/
inductive TSync where
  | nosync | pend | sync
  deriving DecidableEq, Repr

/-- The feedback unit (10). -/
structure Fbk where
  cfg : Word := 0x00001000
  tcfg : Word := 0x0818103C
  xcfg : Word := 0
  pos : Word := 0
  hpos : Word := 0
  tidx : Nat := 0
  tsync : TSync := .nosync
  /-- Filtered levels FB2, FB1, FB0, and the samples of each that have differed from it since (R339). -/
  hall : Nat := 0
  hallRun : Vector Nat 3 := Vector.replicate 3 0
  /-- The same of the tooth pin of cross mode. -/
  tooth : Bool := false
  toothRun : Nat := 0
  /-- The state from which the next Hall transition is judged (R343, R344); `none` while it is invalid. -/
  judged : Option Nat := none
  dir : Bool := false
  period : Word := 0xFFFFFFFF
  age : Word := 0
  edgets : BitVec 64 := 0
  edgeHi : Word := 0
  extts : BitVec 64 := 0
  extHi : Word := 0
  stat : Word := 0
  extpos : Word := 0
  extseq : Nat := 0
  snappos : Word := 0
  snapper : Word := 0xFFFFFFFF
  snapage : Word := 0
  snapseq : Nat := 0
  snaphalf : Bool := false
  /-- The timing of the edge before the next counted edge was discarded (R347). -/
  timingLost : Bool := true
  /-- Direction of the previous counted edge (R346), and of the last counted Hall transition (R355): `some true` is reverse. -/
  prevDir : Option Bool := none
  hallDir : Option Bool := none
  /-- Tooth edges since the mode started or the direction changed (R350). -/
  toothN : Nat := 0
  /-- The next tooth edge is not tested (R352). -/
  skipTest : Bool := false
  /-- Counted edges since the reference (R353). -/
  sinceRef : Nat := 0
  /-- FBK_HPOS at the previous reference (R357). -/
  hposAtRef : Word := 0
  toothSinceHall : Nat := 0
  hallSinceTooth : Nat := 0
  deriving DecidableEq, Repr

/-- One drawer (11). -/
structure Drawer where
  run : Bool := false
  safed : Bool := false
  state : Nat := 0
  cfg : Word := 0x1F3F3F00
  pin : Word := 0x80808080
  sto : Word := 0
  outq : List Word := []
  inq : List Word := []
  oqof : Bool := false
  iquf : Bool := false
  evlost : Bool := false
  irqLatch : Bool := false
  frmLatch : Bool := false
  /-- The latch has set in this drawer clock: no step reads it yet (R372). -/
  irqNew : Bool := false
  frmNew : Bool := false
  flag : Nat := 0
  taddr : Nat := 0
  gath : Word := 0
  send : Word := 0
  gcnt : Nat := 0
  scnt : Nat := 0
  posBuf : Option Word := none
  /-- The position buffer was emptied in this drawer clock: a stall on it completes in a later one (R377). -/
  posFreed : Bool := false
  /-- The entry of a stalled step (R377), and whether STALLn has set for it (R378). -/
  stall : Option Word := none
  stallFlagged : Bool := false
  /-- The drawer clocks that the stall has lasted (R378), and those until the next step begins (R368). -/
  stallClk : Nat := 0
  clk : Nat := 0
  /-- Words that the core wrote to the outbound queue, and the drawer took from it, in this drawer clock; the same of the inbound queue,
which the drawer fills and the core reads (R379). -/
  oqIn : Nat := 0
  oqOut : Nat := 0
  iqIn : Nat := 0
  iqOut : Nat := 0
  /-- The remaining steps of a WAIT, the present one among them, and its NEXT (R374). -/
  wait : Option (Nat × Nat) := none
  /-- Table words 0x000 to 0x23F written since power-on: 32 data bits and whether parity fails (R384). -/
  table : List (Nat × (Word × Bool)) := []
  /-- The pins hold their safe levels: from a trip stop until the first step after the next start applies its outputs (R388). -/
  pinsSafe : Bool := false
  /-- OUT and OE of the last applied entry, by drawer pin. -/
  out : Nat := 0
  oe : Nat := 0
  deriving DecidableEq, Repr

/-- The drawer block (11); `gpExt` holds the synchronized levels last seen on the general pins that no drawer drives. -/
structure Drw where
  dr : Vector Drawer 4 := Vector.replicate 4 {}
  gpcfg : Word := 0x00AAAAAA
  gpExt : Nat := 0
  /-- Which general pins the drawers drove, and their levels, at the start of the present drawer clock and of the two before (R371). -/
  driven : Vector (Nat × Nat) 3 := Vector.replicate 3 (0, 0)
  /-- Cycles into the drawer clock: 0 to 3 (R368). -/
  phase : Nat := 0
  deriving DecidableEq, Repr

/-- One compare channel (12 R400..R405). `inflight` is an arming or disarming write whose first evaluation is still to come: the new value
(`none`: a disarm) and the ticks until that evaluation (R401). `done`: it has been evaluated in this tick and fired. -/
structure CmpCh where
  cmp : BitVec 64 := 0
  heldLo : Word := 0
  per : Word := 0
  armed : Bool := false
  inflight : Option (Option (BitVec 64) × Nat) := none
  done : Bool := false
  deriving DecidableEq, Repr

/-- One capture input (12 R407..R410): its queue, oldest first, the entry popped last, the count at the last edge accepted from a pin, and
the entries queued in this tick. -/
structure CapIn where
  cfg : Word := 0
  queue : List (BitVec 64) := []
  ts : BitVec 64 := 0
  lastEdge : Option (BitVec 64) := none
  inTick : Nat := 0
  /-- A capture of the present tick that found the queue full: it is lost at the tick's end where no read of the tick makes room (R409). -/
  excess : Option (BitVec 64) := none
  deriving DecidableEq, Repr

/-- The timer block (12). -/
structure Tmr where
  count : BitVec 64 := 0
  /-- The counts of the tick before and of the one before that, which the evaluations of this tick test (R400). -/
  before : BitVec 64 := 0
  tested : BitVec 64 := 0
  /-- The tick of the present group of 256, and whether the group has had its slew tick (R397). -/
  group : Nat := 0
  slewed : Bool := false
  /-- Ticks since the last delivery, up to 4 ms (R399). -/
  quiet : Nat := 0
  /-- The phase of the tick: 0 or 1 (R394). -/
  phase : Bool := false
  tbHi : Word := 0
  aligned : Bool := false
  /-- The slew remainder in ticks (R397) and the last offset delivered (R396). -/
  rem : Int := 0
  ofs : Int := 0
  /-- Ring time has been delivered since the reset of class P (R398). -/
  delivered : Bool := false
  ch : Vector CmpCh 16 := Vector.replicate 16 {}
  cmpflag : Word := 0
  cap : Vector CapIn 8 := Vector.replicate 8 {}
  ovf : Word := 0
  deriving DecidableEq, Repr

/-- One ICU source (12 R411..R416). `level` is the level of its input. -/
structure Src where
  en : Bool := false
  prio : Nat := 1
  pend : Bool := false
  rep : Nat := 0
  level : Bool := false
  deriving DecidableEq, Repr

/-- The interrupt controller (12): `insvc` holds the source in service at each level 1 to 8. -/
structure Icu where
  src : Vector Src 128 := Vector.replicate 128 {}
  gdis : Bool := false
  insvc : Vector (Option Nat) 8 := Vector.replicate 8 none
  lastsat : Nat := 0
  deriving DecidableEq, Repr

/-- The integrity block (13). -/
structure Par where
  bucket : Nat := 0
  leak : Nat := 0x400
  thresh : Nat := 8
  ccnt : Nat := 0
  clog : Word := 0
  ucnt : Nat := 0
  uloga : Word := 0
  ulogs : Word := 0
  inj : Bool := false
  mcen : Bool := true
  inject : Word := 0
  rpt : Word := 0
  /-- Frames counted towards the next leak (R430). -/
  leakCount : Nat := 0
  deriving DecidableEq, Repr

/-- A dump record in progress (14 R455..R460): its words, and where it goes: `some byte address` or a report ring. -/
structure DumpRec where
  words : List Word
  dest : Option Nat
  ring : Nat
  deriving DecidableEq, Repr

/-- The performance block (14). -/
structure Prf where
  cnt : Vector (BitVec 48) 64 := Vector.replicate 64 0
  heldLo : Vector Word 64 := Vector.replicate 64 0
  readHi : Vector (BitVec 16) 64 := Vector.replicate 64 0
  sel : Vector Nat 64 := Vector.replicate 64 0
  ctrl : Word := 0
  ovfl : Word := 0
  ovfh : Word := 0
  flt : Vector Word 4 := Vector.replicate 4 0x0003FFFF
  fltLo : Vector Word 4 := Vector.replicate 4 0
  fltHi : Vector Word 4 := Vector.replicate 4 0xFFFFFFFF
  dumpcfg : Word := 0x000003FF
  dumpbase : Word := 0
  dumplen : Nat := 0x100
  maskL : Word := 0
  maskH : Word := 0
  dumpseq : Nat := 0
  dumpmiss : Nat := 0
  dumpptr : Word := 0
  /-- PRF_DUMPBASE or PRF_DUMPLEN was written while the record was in progress (R460). -/
  dumpMoved : Bool := false
  dump : Option DumpRec := none
  smpcfg : Word := 0x00100FFF
  widx : Nat := 0
  smpcnt : Nat := 0
  /-- Filtered retirements since the last sample (R462), samples taken, and the sample waiting to be written. -/
  smpN : Nat := 0
  smpseq : Nat := 0
  smpWait : Option (List Word) := none
  buf : Vector Word 256 := Vector.replicate 256 0
  deriving DecidableEq, Repr

/-- One decode-table slot (07 R242). -/
structure Slot where
  start : Nat := 0
  lenm1 : Nat := 0
  fs : Bool := false
  valid : Bool := false
  deriving DecidableEq, Repr

/-- The decode table and the microcode store (07). `uopSet` lists the register words (2 × entry, plus 1 for the high word)
written since power-on: the parity of the others is undefined (13 R440). `uopBad` lists those whose stored parity does not match. -/
structure Dec where
  slot : Vector Slot 16 := Vector.replicate 16 {}
  check : Word := 0
  fault : Word := 0
  uop : Vector (BitVec 48) 256 := Vector.replicate 256 0
  uopSet : List Nat := []
  uopBad : List Nat := []
  deriving DecidableEq, Repr

/-- An order at the cabinet's port (16 R529, R537). -/
structure PortOrder where
  ring : Nat
  tag : Word
  mask : Nat
  words : List Word
  deriving DecidableEq, Repr

/-- A report of a report ring (16 R507, R533): its sequence, kind, CAB_FRAMECNT at the push and body words. -/
structure Report where
  rseq : Word
  kind : Nat
  frame : Word
  body : List Word
  deriving DecidableEq, Repr

/-- A configured report ring (16 R527, R533): its descriptor is kept in MRAM, its reports are not. -/
structure RepRing where
  depth : Nat
  hold : Bool
  dest : Nat
  session : Nat
  nextSeq : Word := 0
  reports : List Report := []
  /-- The ring has refused a push as full and has released no report since (R536). -/
  refusedFull : Bool := false
  deriving DecidableEq, Repr

/-- The order and report port (16). -/
structure Ord where
  info : Word := 0
  otag : Word := 0
  /-- Orders delivered and waiting for the frame boundary (R529). -/
  delivered : List PortOrder := []
  avail : List PortOrder := []
  /-- Orders popped and not confirmed: ring and tag (R538). -/
  openTags : List (Nat × Word) := []
  aven : Vector Word 4 := Vector.replicate 4 0
  acc : Bool := false
  refused : Bool := false
  oword : List Word := []
  rword : Vector Word 256 := Vector.replicate 256 0
  deriving DecidableEq, Repr

end Sys2Proof.Machine
end

