-- ==== Sys2Proof/Machine/CabState.lean ====
section
/-!
DEFINITION. One cabinet (spec/01_cabinets_and_sideboard.md): its state machine, its core, memories, frame and blocks, and the
messages it passes to the sideboard within a step.
-/
namespace Sys2Proof.Machine

/-- A lifecycle transition that waits for a frame boundary (01 R32, R35), with the sideboard's ticket of its command. -/
inductive LifeCmd where
  | arm | run | park | rearm
  deriving DecidableEq, Repr

/-- A pending transition and the ticket of the command that waits for its answer. -/
structure Pending where
  cmd : LifeCmd
  ticket : Option Nat
  deriving DecidableEq, Repr

/-- The heartbeat's content (01 R30), and a CAB_STATE word as the sideboard's copy of the state. -/
structure Heartbeat where
  state : Word := 0
  err : Word := 0
  framecnt : Word := 0
  framestat : Word := 0
  tripsrc : Word := 0x00000F00
  banksel : Word := 0
  ordOpen : Nat := 0
  ordDelivered : Nat := 0
  deriving DecidableEq, Repr

/-- What a cabinet passes to the sideboard during one step: it is taken over by the sideboard at the end of that step. -/
inductive Note where
  /-- A heartbeat is due (01 R30). -/
  | heartbeat
  /-- A waiting command is answered with a status and reply bytes (16 R521). -/
  | answer (ticket status : Nat) (data : List Byte)
  /-- A health event of this cabinet (19 R621, R623), by its code. -/
  | health (event : Nat)
  /-- An order's confirmation (16 R538). -/
  | confirm (tag : Word)
  /-- The port refused an order of this ring in this state (16 R529, R530). -/
  | refuse (tag : Word) (state : Nat)
  /-- The orders of these tags left the port unpopped (16 R541; 17). -/
  | dropped (tags : List Word)
  deriving DecidableEq, Repr

/-- The stages of parking and waking (19 R613, R615). -/
inductive ParkPhase where
  | none | entering | stopped | waking | restored
  deriving DecidableEq, Repr

/-- An image load in progress (16 R523): the source, the image bytes received (each with its readback result), and the
length and CRC announced. -/
structure Load where
  source : Nat
  length : Nat
  crc : Nat
  bytes : List Byte := []
  deriving DecidableEq, Repr

/-- A bank stage in progress (16 R525): length in syllables, CRC, syllables received. -/
structure Stage where
  length : Nat
  crc : Nat
  syls : List (BitVec 16) := []
  deriving DecidableEq, Repr

/-- One cabinet. -/
structure Cabinet where
  id : Fin 16 := 0
  mode : CabMode := .empty
  prev : CabMode := .empty
  hold : Bool := false
  freeRun : Bool := false
  /-- A clock switch waits for the next frame boundary (R43, R45): `some true` to the internal oscillator. -/
  clockSwitch : Option Bool := none
  deftest : Bool := false
  latch : Bool := false
  err : Word := 0
  pend : List Pending := []
  /-- A CAB_ARM answered DEFERRED waits for calibration (R32). -/
  armWait : Bool := false
  /-- The ticket of the CAB_TEST in progress, and whether TEST was entered from PARKED. -/
  testTicket : Option Nat := none
  testParked : Bool := false
  /-- The tickets of a CAB_BANK_SWAP, a CAB_PARK and a CAB_WAKE in progress. -/
  swapTickets : List Nat := []
  parkTicket : Option Nat := none
  wakeTicket : Option Nat := none
  park : ParkPhase := .none
  /-- The state the cabinet parked from was LOADED; the last heartbeat before parking stands in the sideboard's copy. -/
  parkLoaded : Bool := false
  core : Core := {}
  /-- DCTL.WEN (03 card c7): the decode table may be written. -/
  wen : Bool := false
  pipe : Pipe := {}
  mems : Mems := {}
  frame : Frame := {}
  bank : BankSel := {}
  cnv : Cnv := {}
  cmpr : Cmpr := {}
  pwm : Pwm := {}
  fbk : Fbk := {}
  drw : Drw := {}
  tmr : Tmr := {}
  icu : Icu := {}
  par : Par := {}
  prf : Prf := {}
  dec : Dec := {}
  ord : Ord := {}
  /-- BERR, BESC, IRQ and IRQEN of each block, by number. -/
  errs : Vector BlkErr 11 := (Vector.replicate 11 {}).set 2 { besc := 0xF }
  ordRings : List (Nat × Nat) := []
  repRings : List (Nat × RepRing) := []
  /-- Report rings of SEND mode in push order (16 R534). -/
  sendQ : List Nat := []
  load : Option Load := none
  stage : Option Stage := none
  /-- Confirmed protected writes that wait for the frame boundary (18 R581): register address, value, and the settled
  commit's number. -/
  protWait : List (Nat × Word) := []
  /-- Writes of PERF_CONFIG that wait for the frame boundary (16 R544): tickets and (PRF_ offset, value) pairs. -/
  perfWait : List (Nat × List (Nat × Word)) := []
  /-- VDDIO_Ck is above its threshold (19 R598). -/
  ioOk : Bool := true
  /-- The chip safe state stands (01 R40): the CHIP source of the trip latch is active. -/
  chipSafe : Bool := false
  /-- Counts the free values the cabinet has taken: the model's own field (log 3). -/
  free : Nat := 0
  /-- The word the last register or memory read of a command delivered: the model's own record of a read's value. -/
  rdata : Word := 0
  notes : List Note := []
  deriving DecidableEq, Repr

end Sys2Proof.Machine
end

