-- ==== Sys2Proof/Machine/SideState.lean ====
section
/-!
DEFINITION. The state of the sideboard (spec/15_jetik_ring_and_hinge.md, spec/16_command_packets.md,
spec/17_ledger_and_delivery.md, spec/18_protection_and_updates.md, spec/19_power_reset_boot.md,
spec/20_electrical_and_package.md).
-/
namespace Sys2Proof.Machine

/-! ## Packets and sessions (16) -/

/-- The two Jetik rings. -/
inductive RingId where
  | a | b
  deriving DecidableEq, Repr

/-- The other ring. -/
def RingId.other : RingId → RingId
  | .a => .b
  | .b => .a

/-- A ring's number in the health counters' qualifiers. -/
def RingId.num : RingId → Nat
  | .a => 0
  | .b => 1

/-- The port that delivered a command: a ring, from a node, or the bench port. -/
inductive Port where
  | ring (r : RingId) (node : Nat)
  | bench
  deriving DecidableEq, Repr

/-- A command packet (R504) as a command of the model carries it. -/
structure Packet where
  port : Port
  opc : Nat := 0
  session : Nat := 0
  seq : Word := 0
  cab : Nat := 0
  ring : Nat := 0
  tag : Word := 0
  unauth : Bool := false
  payload : List Byte := []
  deriving DecidableEq, Repr

/-- One session context (R510). `busy`: a command at d = 0 is in process; `again` holds its resends until it is answered; `from`
is the port of its last command. -/
structure Session where
  isOpen : Bool := false
  slot : Nat := 0
  prin : Nat := 0
  ks : Option (List Byte) := none
  nh : List Byte := []
  nd : List Byte := []
  e : Word := 0
  lrs : Word := 0
  openReply : List Byte := []
  window : List Packet := []
  busy : Bool := false
  again : List Packet := []
  lastPort : Option Port := none
  deriving DecidableEq, Repr

/-- A command that waits for an answer from a cabinet, by its ticket. -/
structure Waiting where
  ticket : Nat
  packet : Packet
  deriving DecidableEq, Repr

/-! ## Ring frames (15) -/

/-- A frame (R473); `bad`: its last CRC code group is K30.7 (R478). -/
structure JFrame where
  dst : Nat
  src : Nat
  kind : Nat
  wrap : Bool := false
  payload : List Byte := []
  bad : Bool := false
  deriving DecidableEq, Repr

/-- Joining a ring (R491). -/
inductive JoinPhase where
  | out | listening | inserted | announced (tries : Nat) | joined
  deriving DecidableEq, Repr

/-- One ring of the device: joining and the hinge, the hop on its input (faults, wrap, hop delays), the frames of its own that
wait for its output, and the frames put on that output: the model's own record of the line. -/
structure RingEnd where
  phase : JoinPhase := .out
  /-- The node number that the device uses on this ring since it began to listen (R475). -/
  node : Nat := 0xFE
  /-- SYNC frames that count for the present step of joining (R491). -/
  heardSync : Nat := 0
  /-- Cycles of CCLK: since the last SYNC frame on this ring (to 1.5 ms), without a frame of the device's own number since listening
  began (R491), before a failed join is tried again (R491), left of the join window (R488), and in which the hop has been sound (R484). -/
  syncAge : Nat := 960000
  unheard : Nat := 0
  rest : Nat := 0
  window : Nat := 0
  steady : Nat := 0
  keepAlive : Bool := false
  leaving : Option Nat := none
  inFault : Bool := false
  outFault : Bool := false
  notOk : Nat := 0
  lastRxOk : Bool := false
  nbrWrapped : Bool := false
  wrapped : Bool := false
  delays : List Nat := []
  asked : Option Nat := none
  hopq : List JFrame := []
  joinq : List JFrame := []
  replyq : List JFrame := []
  noticeq : List JFrame := []
  line : List JFrame := []
  deriving DecidableEq, Repr

/-- The bench port (R499..R503). -/
structure Bench where
  /-- The replies that are ready, oldest first: a command released from the receive window has its own (R515). -/
  replies : List (List Byte) := []
  busy : Bool := false
  crcErr : Bool := false
  lenErr : Bool := false
  ovr : Bool := false
  /-- A WRITE accepted before the recovery scan has ended (19 R610). -/
  held : Option (List Byte) := none
  /-- What the last transaction returned on BP_MISO: the model's own record. -/
  miso : List Byte := []
  deriving DecidableEq, Repr

/-! ## The ledger (17) -/

/-- Entry states (R546). -/
inductive LState where
  | free | accepted | dispatched | executed | held | indeterminate | cancelled | retired
  deriving DecidableEq, Repr

/-- A head entry with its continuations and its index record (R545..R548); `order` holds an order's bytes. `place` is the order of
acceptance (R555) and `gone` the order of retirement (R558): the model's own numbers (log 32). -/
structure Entry where
  chip : Bool := false
  mask : Nat := 0
  opc : Nat := 0
  ring : Nat := 0
  cab : Nat := 0
  seql : Nat := 0
  state : LState := .free
  session : Nat := 0
  param : List Byte := []
  order : List Byte := []
  tag : Word := 0
  gen : Nat := 0
  run : Nat := 0
  hrsn : Nat := 0
  rstat : Nat := 0
  rdata : List Byte := []
  place : Nat := 0
  gone : Nat := 0
  deriving DecidableEq, Repr

/-- What a commit writes (R551). -/
inductive LWrite where
  /-- An entry, and the indexes of the reused entries that it replaces. -/
  | put (i : Nat) (e : Entry) (taken : List Nat)
  /-- A session's E, and its last retired sequence. -/
  | sessE (n : Nat) (e : Word)
  | sessLrs (n : Nat) (lrs : Word)
  deriving DecidableEq, Repr

/-- What may follow once a commit is complete (R554). -/
inductive Release where
  /-- A reply leaves. -/
  | reply (p : Port) (bytes : List Byte)
  /-- The session's command is no longer in process. -/
  | done (session : Nat)
  /-- An order goes to a cabinet's port (16 R529). -/
  | deliver (cab : Fin 16) (o : PortOrder)
  /-- An order notice is sent for an entry (16 R531) that found the cabinet in a state. -/
  | notice (index : Nat) (cabState : Nat)
  /-- The device leaves the rings and is reset (16 R522); `fw`: to start a committed image. -/
  | reset (fw bench : Bool)
  deriving DecidableEq, Repr

/-- Where a commit stands (R551). -/
inductive CommitStage where
  | waiting | intent | marked
  deriving DecidableEq, Repr

/-- The phases of a commit (R551). -/
inductive LedgerPhase where
  | intent | mark | values
  deriving DecidableEq, Repr

/-- A commit; `confirms` names the cabinet whose order it marks EXECUTED (16 R538). -/
structure Commit where
  stage : CommitStage := .waiting
  writes : List LWrite
  releases : List Release := []
  confirms : Option Nat := none
  deriving DecidableEq, Repr

/-- The ledger in MRAM with the commits that wait: heads by index in rising order, the generation each used index had last, the
indexes withdrawn (R566). -/
structure Ledger where
  entries : List (Nat × Entry) := []
  gens : List (Nat × Nat) := []
  withdrawn : List Nat := []
  commits : List Commit := []
  placed : Nat := 0
  retired : Nat := 0
  allocs : Nat := 0
  quota : Nat := 0x10000
  dmg : Nat := 0
  dmgIdx : Nat := 0
  scan : Bool := true
  cause : Nat := 0
  clean : Bool := false
  deriving DecidableEq, Repr

/-! ## Protection and the image store (18) -/

/-- A key slot (R572). -/
structure KeySlot where
  key : List Byte := []
  prin : Nat := 0
  full : Bool := false
  deriving DecidableEq, Repr

/-- One item of a proposal (R576). -/
structure Item where
  code : Nat
  cab : Nat
  idx : Nat
  value : Word
  deriving DecidableEq, Repr

/-- What a proposal would change: settings, or a key slot (R586). -/
inductive Change where
  | items (xs : List Item)
  | key (slot prin : Nat) (erase : Bool) (wrapped : List Byte) (wrapKey : List Byte)
  deriving DecidableEq, Repr

/-- An open proposal (R577): `fallen`: KEY_N has fallen since it was recorded (R585). -/
structure Proposal where
  number : Nat
  prin : Nat
  keyOk : Bool
  digest : List Byte
  change : Change
  win : Nat
  fallen : Bool := false
  deriving DecidableEq, Repr

/-- A PROTECT_CONFIRM whose cabinet items wait for frame boundaries (R581): its ticket and the cabinets still to change. -/
structure ConfirmWait where
  packet : Packet
  cabs : List Nat
  deriving DecidableEq, Repr

/-- Protection set-up: key slots, permissions, lists, proposals. -/
structure Prot where
  slots : Vector KeySlot 32 :=
    (Vector.replicate 32 {}).set 0 { key := (List.range 16).map Config.deviceKey, prin := 0, full := true }
  perm : Vector Word 32 := (Vector.replicate 32 0).set 0 0x000FFFFF
  plist : Word := 0x00000001
  pcfg : Word := 0x00000501
  prop : Nat := 0
  out : Nat := 0
  next : Nat := 1
  proposals : List Proposal := []
  /-- The numbers of the proposals that closed as expired (R579). -/
  expired : List Nat := []
  waits : List ConfirmWait := []
  deriving DecidableEq, Repr

/-- An open FW_STAGE (R589). -/
structure FwStage where
  slot : Nat
  length : Nat
  crc : Nat
  bytes : List Byte := []
  deriving DecidableEq, Repr

/-- The image store (R588..R591): written bytes by address, verified slots with the length of their image, the boot slot. -/
structure Store where
  bytes : List (Nat × Byte) := []
  verified : Vector (Option Nat) 4 := Vector.replicate 4 none
  boot : Nat := 0
  active : Nat := 0
  fallback : Bool := false
  stage : Option FwStage := none
  deriving DecidableEq, Repr

/-! ## Power, stewards, health, test access (19, 20) -/

/-- A reset of class P (19 R600). -/
inductive ResetSrc where
  | powerOn | resetN | watchdog | chipReset | firmware
  deriving DecidableEq, Repr

/-- A cause of the chip safe state (01 R39; SBD_RSTSRC.SAFE). -/
inductive SafeCause where
  | temperature | supply (mask : Nat) | pwrfail | ledger | watchdog | stewards
  deriving DecidableEq, Repr

/-- A steward core (19 R617). -/
structure Steward where
  running : Bool := false
  awake : Bool := false
  deriving DecidableEq, Repr

/-- The steward cores and the sideboard interrupt controller (19 R617..R620): sources pending, deliveries made and not known to be
claimed, the core last delivered to, the clock stopped. -/
structure SideIcu where
  cores : Vector Steward 4 := Vector.replicate 4 {}
  pend : List Nat := []
  deliv : List (Nat × Nat) := []
  last : Nat := 3
  stopped : Bool := false
  deriving DecidableEq, Repr

/-- SBD_HSELn at manufacture (19 R624). -/
def hselMade : List Word :=
  [0x00000001, 0x00000101, 0x0000FF05, 0x0000FF10, 0x0000FF1A, 0x0000FF28] ++
  (List.range 16).map (fun k => BitVec.ofNat 32 (0x20 + 0x100 * k)) ++
  [0x0000FF21, 0x0000FF30, 0x0000FF32, 0x0000FF34, 0x0000FF2B, 0x0000FF03, 0x0000FF18, 0x0000FF2A, 0x0000FF31, 0x0000FF33]

/-- The health counters (19 R621): selections, values, and the values in MRAM. -/
structure Health where
  sel : Vector Word 32 := Vector.ofFn (fun n => hselMade.getD n.val 0)
  count : Vector Nat 32 := Vector.replicate 32 0
  saved : Vector Nat 32 := Vector.replicate 32 0
  deriving DecidableEq, Repr

/-- The test access port (20 R643..R645): IMGACC's data register, the boundary-scan values under EXTEST. -/
structure Tap where
  data : Word := 0
  done : Bool := false
  denied : Bool := false
  /-- EXTEST is the instruction: the values of the Ck_PWM cells, by cabinet and output. -/
  extest : Option (List (Nat × Nat)) := none
  deriving DecidableEq, Repr

/-! ## The sideboard -/

/-- The sideboard. -/
structure Side where
  /-- The last heartbeat received of each cabinet (01 R30), those sent and not yet received, the heartbeat losses (01 R31). -/
  copies : Vector Heartbeat 16 := Vector.replicate 16 {}
  sent : Vector (List Heartbeat) 16 := Vector.replicate 16 []
  lost : Vector Bool 16 := Vector.replicate 16 false
  sessions : List (Nat × Session) := []
  waiting : List Waiting := []
  ticket : Nat := 0
  ledger : Ledger := {}
  prot : Prot := {}
  store : Store := {}
  /-- Rings A and B, and which ring last delivered a command from a node (15 R480). -/
  ringA : RingEnd := {}
  ringB : RingEnd := {}
  nodeRing : List (Nat × RingId) := []
  node : Nat := 0xFE
  conflict : Bool := false
  syncOk : Bool := false
  /-- Ring time in units of 2^−16 tick / 10^6 (15 R486), and its rate above nominal in ppm. -/
  time : Nat := 0
  rate : Int := 0
  syncs : Nat := 0
  /-- Cycles of CCLK since the last SYNC that the device used, to 1.5 ms (R486). -/
  usedAge : Nat := 960000
  bench : Bench := {}
  /-- Report weights, and the place in the round of 01 R38: the cabinet, the reports it has sent, the weights of the round. -/
  weight : Vector Nat 16 := Vector.replicate 16 1
  wrrCab : Nat := 0
  wrrSent : Nat := 0
  wrrWeight : Vector Nat 16 := Vector.replicate 16 1
  notices : Nat := 0
  draws : Nat := 0
  /-- The chip safe state and its cause (01 R39..R41), and whether its final commit is complete. -/
  safe : Option SafeCause := none
  finalDone : Bool := false
  /-- A reset of class P in progress (19 R599..R601), a reset to follow a reply (16 R522). -/
  reset : Option ResetSrc := none
  resetAfter : Option Bool := none
  /-- The reply of that command waits on the bench port to be read. -/
  resetBench : Bool := false
  /-- What the last reset of class P found: SBD_RSTSRC's fields, and whether a commit was in progress. -/
  rstSrc : ResetSrc := .powerOn
  rstSafe : Option SafeCause := none
  rstMid : Bool := false
  rstFinal : Bool := false
  /-- The boot sequence is held since PWRFAIL_N was low at the end of a power-on reset or RESET_N (19 R599). -/
  bootHold : Bool := false
  /-- Firmware runs (UP). -/
  booted : Bool := false
  pulses : Nat := 0
  pwrfailN : Bool := true
  keyN : Bool := true
  temp : BitVec 12 := 0
  tempWarn : Bool := false
  icu : SideIcu := {}
  health : Health := {}
  tap : Tap := {}
  deriving DecidableEq, Repr

end Sys2Proof.Machine
end

