-- ==== Sys2Proof/Syntax.lean ====
section
/-!
DEFINITION. The commands of the block: one constructor for each row of spec/opcode_table.json, in its order. A command of one
cabinet names the cabinet `k` first (00 R1). The instructions of a cabinet's core carry the operands of their encodings (04); an
access to a register by software carries the level it is made at (06 R206) and the word; an event carries what the outside world
decides of it: levels and widths of pins, voltages of inputs (in units of 125 nV), the time of a frame, whether an MRAM access fails. The rows of
command packets carry the packet (16 R504), whose MAC is right; COMMAND and WRITE carry bytes (log 2).
-/
namespace Sys2Proof

/-- The commands. -/
inductive Instr where
  | add (k rd rs : Fin 16)
  | sub (k rd rs : Fin 16)
  | and (k rd rs : Fin 16)
  | or (k rd rs : Fin 16)
  | xor (k rd rs : Fin 16)
  | cmp (k rd rs : Fin 16)
  | addc (k rd rs : Fin 16)
  | subc (k rd rs : Fin 16)
  | shl (k rd rs : Fin 16)
  | shr (k rd rs : Fin 16)
  | sar (k rd rs : Fin 16)
  | ror (k rd rs : Fin 16)
  | min (k rd rs : Fin 16)
  | max (k rd rs : Fin 16)
  | abs (k rd rs : Fin 16)
  | neg (k rd rs : Fin 16)
  | addi (k rd : Fin 16) (imm : BitVec 14)
  | andi (k rd : Fin 16) (imm : BitVec 14)
  | ori (k rd : Fin 16) (imm : BitVec 14)
  | cmpi (k rd : Fin 16) (imm : BitVec 14)
  | shli (k rd : Fin 16) (n : BitVec 5)
  | shri (k rd : Fin 16) (n : BitVec 5)
  | sari (k rd : Fin 16) (n : BitVec 5)
  | rori (k rd : Fin 16) (n : BitVec 5)
  | extb (k rd rs : Fin 16)
  | extbu (k rd rs : Fin 16)
  | exth (k rd rs : Fin 16)
  | exthu (k rd rs : Fin 16)
  | clz (k rd rs : Fin 16)
  | cls (k rd rs : Fin 16)
  | macQ (k : Fin 16) (x : Fin 2) (ra rb : Fin 16)
  | msuQ (k : Fin 16) (x : Fin 2) (ra rb : Fin 16)
  | mulqS (k rd rs : Fin 16)
  | addqS (k rd rs : Fin 16)
  | subqS (k rd rs : Fin 16)
  | rdt (k rd : Fin 16) (x : Fin 2)
  | rdr (k rd : Fin 16) (x : Fin 2)
  | rdl (k rd : Fin 16) (x : Fin 2)
  | rdi (k rd : Fin 16) (x : Fin 2)
  | rdg (k rd : Fin 16) (x : Fin 2)
  | wrq (k : Fin 16) (x : Fin 2) (rd : Fin 16)
  | wri (k : Fin 16) (x : Fin 2) (rd : Fin 16)
  | clr (k : Fin 16) (x : Fin 2) (dst : Fin 16)
  | macI (k : Fin 16) (x : Fin 2) (ra rb : Fin 16)
  | msuI (k : Fin 16) (x : Fin 2) (ra rb : Fin 16)
  | mac2Q (k : Fin 16) (x : Fin 2) (ra rb : Fin 16)
  | msu2Q (k : Fin 16) (x : Fin 2) (ra rb : Fin 16)
  | macuI (k : Fin 16) (x : Fin 2) (ra rb : Fin 16)
  | add2S (k rd rs : Fin 16)
  | sub2S (k rd rs : Fin 16)
  | mul2q (k rd rs : Fin 16)
  | absqS (k rd rs : Fin 16)
  | negqS (k rd rs : Fin 16)
  | shlqS (k rd rs : Fin 16) (n : BitVec 5)
  | add2 (k rd rs : Fin 16)
  | sub2 (k rd rs : Fin 16)
  | mov (k rd rs : Fin 16)
  | mova (k ad rs : Fin 16)
  | movd (k rd sa : Fin 16)
  | movaa (k ad sa : Fin 16)
  | movi (k rd : Fin 16) (imm : BitVec 6)
  | adda (k : Fin 16) (ad : Fin 8) (imm : BitVec 16)
  | movh (k rd : Fin 16) (imm : BitVec 16)
  | moviL (k rd : Fin 16) (imm : BitVec 16)
  | ld (k rd : Fin 16) (an : Fin 8) (m : Machine.SMode)
  | st (k rd : Fin 16) (an : Fin 8) (m : Machine.SMode)
  | ldW (k rd : Fin 16) (an : Fin 8) (m : Machine.Mode)
  | ldH (k rd : Fin 16) (an : Fin 8) (m : Machine.Mode)
  | ldHu (k rd : Fin 16) (an : Fin 8) (m : Machine.Mode)
  | ldB (k rd : Fin 16) (an : Fin 8) (m : Machine.Mode)
  | ldBu (k rd : Fin 16) (an : Fin 8) (m : Machine.Mode)
  | stW (k rd : Fin 16) (an : Fin 8) (m : Machine.Mode)
  | stH (k rd : Fin 16) (an : Fin 8) (m : Machine.Mode)
  | stB (k rd : Fin 16) (an : Fin 8) (m : Machine.Mode)
  | bcc (k cond : Fin 16) (off : BitVec 6)
  | bccL (k : Fin 16) (cond : Fin 15) (off : BitVec 16)
  | call (k : Fin 16) (off : BitVec 16)
  | callr (k : Fin 16) (an : Fin 8)
  | ret (k : Fin 16)
  | jmp (k : Fin 16) (an : Fin 8)
  | fadd (k rd rs : Fin 16)
  | fsub (k rd rs : Fin 16)
  | fmul (k rd rs : Fin 16)
  | fneg (k rd : Fin 16)
  | fabs (k rd : Fin 16)
  | fcvtWs (k rd : Fin 16)
  | fcvtSw (k rd : Fin 16)
  | fcvtQs (k rd : Fin 16)
  | fcvtSq (k rd : Fin 16)
  | fcmp (k rd rs : Fin 16)
  | fmin (k rd rs : Fin 16)
  | fmax (k rd rs : Fin 16)
  | fmadd (k rd rs rt : Fin 16)
  | div (k rd rs : Fin 16)
  | divu (k rd rs : Fin 16)
  | sincos (k rd rs : Fin 16)
  | atan2 (k rd rs : Fin 16)
  | sqrt (k rd rs : Fin 16)
  | divq (k rd rs : Fin 16)
  | fdiv (k rd rs : Fin 16)
  | fsqrt (k rd rs : Fin 16)
  | rem (k rd rs : Fin 16)
  | remu (k rd rs : Fin 16)
  | smprd (k rd : Fin 16) (n : Fin 4)
  | duty (k : Fin 16) (g : Fin 4) (mask : Fin 16)
  | waitf (k : Fin 16)
  | xformClarke3 (k : Fin 16) (g : Fin 4)
  | xformClarke2 (k : Fin 16) (g : Fin 4)
  | xformPark (k : Fin 16) (g : Fin 4)
  | xformIpark (k : Fin 16) (g : Fin 4)
  | xformParksc (k : Fin 16) (g : Fin 4)
  | xformIparksc (k : Fin 16) (g : Fin 4)
  | xformSvt (k : Fin 16) (g : Fin 4)
  | vmac (k : Fin 16) (x : Fin 2) (ax ay : Fin 8) (rn : Fin 16) (ended : Option Nat)
  | interp (k : Fin 16) (sa ad ta : Fin 8) (rn : Fin 16) (ended : Option Nat)
  | bmove (k : Fin 16) (sa ad : Fin 8) (rn : Fin 16) (ended : Option Nat)
  | cx (k slot : Fin 16) (rd rs : Fin 8)
  | cxL (k slot rd rs rt imm4 : Fin 16)
  | nop (k : Fin 16)
  | sys (k : Fin 16)
  | brk (k : Fin 16)
  | rete (k : Fin 16)
  | syncI (k : Fin 16)
  | syncC (k : Fin 16)
  | wfi (k : Fin 16)
  | mtc (k : Fin 16) (n : Fin 32) (rd : Fin 16)
  | mfc (k rd : Fin 16) (n : Fin 32)
  | pwrite (k : Fin 16) (an : Fin 8) (rd : Fin 16)
  | storeDrain (k : Fin 16)
  | exceptionEntry (k : Fin 16)
  | lineFillComplete (k : Fin 16)
  | fetchRedirect (k : Fin 16)
  | cacheParityRefetch (k : Fin 16) (second l8 l6 leak : Bool)
  | parBucketLeak (k : Fin 16)
  | frameBoundary (k : Fin 16)
  | dumpRecordComplete (k : Fin 16)
  | heartbeatPeriod (k : Fin 16)
  | statusHeartbeat (k : Fin 16)
  | heartbeatLoss (k : Fin 16)
  | updatePointU1 (k : Fin 16)
  | sampleInstant (k : Fin 16) (vd : Vector Int 8)
  | supervisoryDiscard (k : Fin 16)
  | sampleSetComplete (k : Fin 16)
  | frameGuard (k : Fin 16)
  | dutyPortCommit (k : Fin 16)
  | shadowLatch (k : Fin 16)
  | trackerUpdate (k : Fin 16) (half : Bool) (samples : List Int)
  | spareMatchBlock (k : Fin 16)
  | calibrationComplete (k : Fin 16) (refFail calFail : BitVec 5)
  | seqTriggerOffset (k : Fin 16) (n : Fin 8)
  | seqConversionStart (k : Fin 16) (n : Fin 8)
  | seqResult (k : Fin 16) (n : Fin 8) (vd : Int)
  | cnvSeqswWrite (k : Fin 16) (l : Machine.Level) (go : BitVec 8)
  | cnvResRead (k : Fin 16) (n : Fin 8)
  | cnvCalStart (k : Fin 16) (l : Machine.Level)
  | cnvTrkWrite (k : Fin 16) (l : Machine.Level) (w : Word)
  | comparatorAssert (k : Fin 16) (n : Fin 8) (low : Bool) (vd : Int)
  | comparatorDeassert (k : Fin 16) (n : Fin 8) (low : Bool) (vd : Int)
  | blankingEnd (k : Fin 16) (n : Fin 8) (trip : Bool)
  | ckTripNLow (k : Fin 16) (width : Option Nat)
  | ckEnNHigh (k : Fin 16) (width : Option Nat)
  | dtAdaptMeasure (k : Fin 16) (p : Fin 4) (sideB : Bool) (m : Option Nat)
  | pwmDtfixWrite (k : Fin 16) (l : Machine.Level) (p : Fin 4) (w : Word)
  | pwmDtlimWrite (k : Fin 16) (l : Machine.Level) (p : Fin 4) (w : Word)
  | hallTransition (k : Fin 16) (xs : List (Fin 8))
  | toothEdge (k : Fin 16) (xs : List Bool)
  | fbkExtposWrite (k : Fin 16) (l : Machine.Level) (w : Word)
  | fbkPosWrite (k : Fin 16) (l : Machine.Level) (w : Word)
  | fbkCfgWrite (k : Fin 16) (l : Machine.Level) (w : Word)
  | fbkTcfgWrite (k : Fin 16) (l : Machine.Level) (w : Word)
  | fbkEdgetslRead (k : Fin 16)
  | positionBufferWrite (k : Fin 16) (n : Fin 4) (lost : Bool)
  | drawerStep (k : Fin 16) (n : Fin 4) (levels : BitVec 12)
  | bit (k : Fin 16) (n : Fin 4) (arg : BitVec 8) (oe out : Fin 16) (next : Fin 64)
  | deposit (k : Fin 16) (n : Fin 4) (arg : BitVec 8) (oe out : Fin 16) (next : Fin 64)
  | fetch (k : Fin 16) (n : Fin 4) (oe out : Fin 16) (next : Fin 64)
  | flag (k : Fin 16) (n : Fin 4) (arg : BitVec 8) (oe out : Fin 16) (next : Fin 64)
  | raise (k : Fin 16) (n : Fin 4) (arg : BitVec 8) (oe out : Fin 16) (next : Fin 64)
  | wait (k : Fin 16) (n : Fin 4) (arg : BitVec 8) (oe out : Fin 16) (next : Fin 64)
  | waitEnd (k : Fin 16) (n : Fin 4)
  | stop (k : Fin 16) (n : Fin 4) (oe out : Fin 16) (next : Fin 64)
  | stallComplete (k : Fin 16) (n : Fin 4)
  | stallLimit (k : Fin 16) (n : Fin 4)
  | drwRunStart (k : Fin 16) (l : Machine.Level) (n : Fin 4) (state : Fin 64)
  | drwRunStop (k : Fin 16) (l : Machine.Level) (n : Fin 4)
  | drwFlush (k : Fin 16) (l : Machine.Level) (n : Fin 4)
  | drwOutqWrite (k : Fin 16) (l : Machine.Level) (n : Fin 4) (w : Word)
  | drwInqRead (k : Fin 16) (n : Fin 4)
  | drwTdataWrite (k : Fin 16) (l : Machine.Level) (n : Fin 4) (w : Word)
  | drwTdataRead (k : Fin 16) (n : Fin 4)
  | timeOffsetDelivery (k : Fin 16)
  | slewTick (k : Fin 16)
  | alignmentTimeout (k : Fin 16)
  | tmrTblRead (k : Fin 16)
  | compareFire (k n : Fin 16)
  | tmrCmplWrite (k : Fin 16) (l : Machine.Level) (n : Fin 16) (w : Word)
  | tmrCmphWrite (k : Fin 16) (l : Machine.Level) (n : Fin 16) (w : Word)
  | tmrCmpDisarm (k : Fin 16) (l : Machine.Level) (n : Fin 16)
  | capture (k : Fin 16) (i : Fin 8) (rising : Bool)
  | tmrCapRead (k : Fin 16) (i : Fin 8)
  | tmrCapFlush (k : Fin 16) (l : Machine.Level) (i : Fin 8) (cfg : BitVec 7)
  | icuClaimRead (k : Fin 16)
  | icuCompleteWrite (k : Fin 16) (l : Machine.Level) (n : Fin 128)
  | icuSwsetWrite (k : Fin 16) (l : Machine.Level) (set : BitVec 8)
  | parTestWrite (k : Fin 16) (l : Machine.Level) (inj mcen : Bool)
  | parBucketWrite (k : Fin 16) (l : Machine.Level) (count : BitVec 16)
  | prfCntlRead (k : Fin 16) (n : Fin 64)
  | prfCntlWrite (k : Fin 16) (l : Machine.Level) (n : Fin 64) (w : Word)
  | prfCnthWrite (k : Fin 16) (l : Machine.Level) (n : Fin 64) (w : Word)
  | prfDumpAreaWrite (k : Fin 16) (l : Machine.Level) (len : Bool) (w : Word)
  | prfSmpstatClr (k : Fin 16) (l : Machine.Level)
  | preciseSample (k : Fin 16)
  | decSlotValidate (k : Fin 16) (l : Machine.Level) (n : Fin 16) (start : BitVec 8) (lenm1 : Fin 16) (fs : Bool)
  | decSlotInvalidate (k : Fin 16) (l : Machine.Level) (n : Fin 16) (start : BitVec 8) (lenm1 : Fin 16) (fs : Bool)
  | cabBankselReqWrite (k : Fin 16) (l : Machine.Level) (req : Bool)
  | registerWrite (k : Fin 16) (l : Machine.Level) (a : Nat) (w : Word)
  | selfTestComplete (k : Fin 16) (cnv pwm : Word) (refFail calFail : BitVec 5)
  | referenceClockLoss (k : Fin 16)
  | freeRunSwitch (k : Fin 16)
  | relock (k : Fin 16)
  | ioBankLoss (k : Fin 16)
  | command (r : Machine.RingId) (src : Fin 256) (bytes : List Byte)
  | reply (r : Machine.RingId) (src : Fin 256) (len : Nat)
  | report (r : Machine.RingId) (src : Fin 256) (len : Nat)
  | sync (r : Machine.RingId) (src : Fin 256) (wrap : Bool) (mtime corr : BitVec 64) (residence : Nat)
  | delayReq (r : Machine.RingId) (t1 : BitVec 64)
  | delayResp (r : Machine.RingId) (t1 turn : BitVec 64)
  | hop (r : Machine.RingId) (rxok wrapped : Bool)
  | join (r : Machine.RingId) (src : Fin 256) (wrap : Bool) (identity : BitVec 64)
  | leave (r : Machine.RingId) (src : Fin 256) (wrap : Bool) (reason : BitVec 8)
  | frameForward (r : Machine.RingId) (f : Machine.JFrame) (crcFail : Bool)
  | ownFrameTransmit (r : Machine.RingId)
  | hopTimer
  | inputHopFault (r : Machine.RingId)
  | wrap (r : Machine.RingId)
  | unwrap (r : Machine.RingId)
  | delayMeasure (r : Machine.RingId)
  | syncTimeout
  | freeRunOffsetTimer
  | joinInsert (r : Machine.RingId)
  | joinAnnounce (r : Machine.RingId)
  | joinRetry (r : Machine.RingId)
  | leaveRing (r : Machine.RingId)
  | status (n : Nat)
  | write (bytes : List Byte)
  | read (n : Nat)
  | nopCommand (p : Machine.Packet)
  | sessionOpen (p : Machine.Packet)
  | sessionClose (p : Machine.Packet)
  | ack (p : Machine.Packet)
  | timeQuery (p : Machine.Packet)
  | cabLoadBegin (p : Machine.Packet)
  | cabLoadData (p : Machine.Packet)
  | cabLoadEnd (p : Machine.Packet)
  | cabArm (p : Machine.Packet)
  | cabRun (p : Machine.Packet)
  | cabPark (p : Machine.Packet)
  | parkComplete (k : Fin 16)
  | cabWake (p : Machine.Packet)
  | wakeRestore (k : Fin 16)
  | wakeComplete (k : Fin 16)
  | cabReset (p : Machine.Packet)
  | cabBankStageOpen (p : Machine.Packet)
  | cabBankStageData (p : Machine.Packet)
  | cabBankStageClose (p : Machine.Packet)
  | cabBankStageAbort (p : Machine.Packet)
  | cabBankSwap (p : Machine.Packet)
  | cabTripClear (p : Machine.Packet)
  | cabTest (p : Machine.Packet)
  | cabStatus (p : Machine.Packet)
  | orderPut (p : Machine.Packet)
  | orderPutLong (p : Machine.Packet)
  | orderCancel (p : Machine.Packet)
  | orderResume (p : Machine.Packet)
  | ringConfig (p : Machine.Packet)
  | reportPull (p : Machine.Packet)
  | regRead (p : Machine.Packet)
  | regWrite (p : Machine.Packet)
  | protectPropose (p : Machine.Packet)
  | protectConfirm (p : Machine.Packet)
  | protectAbort (p : Machine.Packet)
  | keyInstall (p : Machine.Packet)
  | perfConfig (p : Machine.Packet)
  | healthRead (p : Machine.Packet)
  | ledgerQuery (p : Machine.Packet)
  | chipReset (p : Machine.Packet)
  | fwStageOpen (p : Machine.Packet)
  | fwStageData (p : Machine.Packet)
  | fwStageClose (p : Machine.Packet)
  | fwStageAbort (p : Machine.Packet)
  | fwCommit (p : Machine.Packet)
  | orderDispatch (k : Fin 16) (ring : Fin 128)
  | ordPopRead (k : Fin 16) (ring : Fin 128)
  | ordDoneWrite (k : Fin 16) (l : Machine.Level) (tag : Word)
  | ordPushWrite (k : Fin 16) (l : Machine.Level) (ring : Fin 128) (len : BitVec 9) (kind : BitVec 8)
  | reportTransmit
  | ledgerCommit (ph : Machine.LedgerPhase) (retries : Nat) (bad : Bool)
  | recoveryScan (bad : List Nat)
  | confirmationWindowExpiry (n : Nat)
  | keyNFall
  | keyNConfirm
  | powerOnReset
  | resetN (ns : Nat)
  | resetEnd
  | boot
  | sideboardWatchdog
  | pwrfailN (ns : Nat) (back : Bool)
  | supplyExcursion (mask : Fin 8)
  | temperatureSample (t : BitVec 12)
  | stewardCoreFault (mask : Fin 16) (lost : Option Nat)
  | sideboardIcuDeliver (src : Nat)
  | sideboardIcuWithdraw (core : Fin 4) (claimed : Bool)
  | sideboardIcuSleep
  | sideboardIcuRestart (src : Nat)
  | healthCounterSave
  | sbdHselWrite (n : Fin 32) (v : Word)
  | imgacc (op : Fin 4) (addr : BitVec 20) (data : Word)
  | carrierCrossing (k : Fin 16) (p : Fin 4) (below : Bool)
  | deadTimeElapsed (k : Fin 16) (p : Fin 4) (sideB safe : Bool)
  | counterWrap (k : Fin 16) (n : Fin 64)
  | ioBankReturn (k : Fin 16)
  | discardedFrame (r : Machine.RingId)
  | extest (vals : Option (List (Nat × Nat)))
  deriving DecidableEq, Repr

end Sys2Proof
end

