-- ==== Sys2Proof/Machine/Flags.lean ====
section
/-!
DEFINITION. The results and flags of the integer operations (spec/04_ezham_instruction_set.md R129..R135, R146..R149): one
function per operation, shared by the native instructions and by the micro-operations of custom instructions (R238).
-/
namespace Sys2Proof.Machine

/-- What an operation does to the arithmetic flags: `none` leaves a flag unchanged (R130); `sticky` is ORed in (R170). -/
structure FlagUpd where
  z : Option Bool := none
  n : Option Bool := none
  c : Option Bool := none
  v : Option Bool := none
  sticky : Word := 0
  deriving DecidableEq, Repr

/-- PSW bit positions of the flags. -/
abbrev pswZ : Nat := 0
abbrev pswN : Nat := 1
abbrev pswC : Nat := 2
abbrev pswV : Nat := 3
/-- PSW.SAT as a mask. -/
abbrev satFlag : Word := 0x00000010
/-- The sticky floating-point flags as masks. -/
abbrev fnv : Word := 0x00010000
abbrev fdz : Word := 0x00020000
abbrev fof : Word := 0x00040000
abbrev fuf : Word := 0x00080000
abbrev fnx : Word := 0x00100000
/-- The arithmetic flags of PSW: Z N C V SAT and the five floating-point flags. -/
abbrev arithMask : Word := 0x001F001F

/-- A flag set where the operation names it. -/
def putFlag (w : Word) (i : Nat) : Option Bool → Word
  | none => w
  | some b => setBit w i b

/-- The flags after an operation. -/
def FlagUpd.apply (u : FlagUpd) (w : Word) : Word :=
  putFlag (putFlag (putFlag (putFlag w pswZ u.z) pswN u.n) pswC u.c) pswV u.v ||| u.sticky

/-- The flag update without Z, N, C and V (a micro-operation with WF = 0, R241). -/
def FlagUpd.stickyOnly (u : FlagUpd) : FlagUpd := { sticky := u.sticky }

/-- The integer operations (R129, R131, R132, R135, R136 MOV). -/
inductive AluOp where
  | add | sub | and | or | xor | cmp | addc | subc
  | shl | shr | sar | ror | min | max | abs | neg
  | extb | extbu | exth | exthu | clz | cls
  | addqs | subqs | add2s | sub2s | absqs | negqs | shlqs | add2 | sub2 | mov
  deriving DecidableEq, Repr

/-- An operation's result: the value, the flags, and whether it is a signed overflow that traps under OVE. -/
structure AluRes where
  val : Word
  upd : FlagUpd := {}
  ovf : Bool := false
  deriving DecidableEq, Repr

/-- Z and N of a result. -/
def znOf (r : Word) : FlagUpd := { z := some (r == 0), n := some r.msb }

/-- Addition with a carry in: Z N C V (R130). -/
def addRes (a b : Word) (cin : Nat) : AluRes :=
  let r : Word := BitVec.ofNat 32 (a.toNat + b.toNat + cin)
  let x := a.toInt + b.toInt + cin
  let v := x != r.toInt
  { val := r, ovf := v, upd := { znOf r with c := some (decide (a.toNat + b.toNat + cin ≥ 2 ^ 32)), v := some v } }

/-- Subtraction with a borrow in: C is set on no borrow (PSW.C). -/
def subRes (a b : Word) (bin : Nat) : AluRes :=
  let r : Word := wordOfInt ((a.toNat : Int) - b.toNat - bin)
  let x := a.toInt - b.toInt - bin
  let v := x != r.toInt
  { val := r, ovf := v, upd := { znOf r with c := some (decide (a.toNat ≥ b.toNat + bin)), v := some v } }

/-- A bitwise result: Z N, V := 0. -/
def logicRes (r : Word) : AluRes := { val := r, upd := { znOf r with v := some false } }

/-- A shift by `n`: C holds the last bit shifted out, a shift of 0 leaves C; V is cleared (R130). -/
def shiftRes (n : Nat) (r : Word) (out : Bool) : AluRes :=
  { val := r, upd := { znOf r with c := if n = 0 then none else some out, v := some false } }

/-- Saturating 32-bit result of an exact integer: SAT when it saturates (R111). -/
def satRes (x : Int) : AluRes :=
  let p := satS 32 x
  { val := wordOfInt p.1, upd := { sticky := if p.2 then satFlag else 0 } }

/-- Element `e` of a packed pair, signed. -/
def pairElem (w : Word) (e : Nat) : Int := sextNat 16 (fld w (16 * e) 16)

/-- A pair from two element values, modulo 2^16 each. -/
def mkPair (e0 e1 : Int) : Word := BitVec.ofNat 32 ((BitVec.ofInt 16 e0).toNat + (BitVec.ofInt 16 e1).toNat * 2 ^ 16)

/-- A saturating pair operation (R135). -/
def pairSat (f : Int → Int → Int) (a b : Word) : AluRes :=
  let p0 := satS 16 (f (pairElem a 0) (pairElem b 0))
  let p1 := satS 16 (f (pairElem a 1) (pairElem b 1))
  { val := mkPair p0.1 p1.1, upd := { sticky := if p0.2 || p1.2 then satFlag else 0 } }

/-- A wrapping pair operation (R135). -/
def pairWrap (f : Int → Int → Int) (a b : Word) : AluRes :=
  { val := mkPair (f (pairElem a 0) (pairElem b 0)) (f (pairElem a 1) (pairElem b 1)) }

/-- The number of bits below bit 31 that equal bit 31 before the first that differs (R131 CLS). -/
def countLeadingSigns (w : Word) : Nat :=
  leadingZeros 31 (if w.msb then (~~~ w).toNat % 2 ^ 31 else w.toNat % 2 ^ 31)

/-- The result of an integer operation on the native d[Rd] input `a` and d[Rs] input `b`, with carry flag `cin`.
Shift amounts are b[4:0]. -/
def aluOp (op : AluOp) (a b : Word) (cin : Bool) : AluRes :=
  let n := b.toNat % 32
  match op with
  | .add => addRes a b 0
  | .sub => subRes a b 0
  | .and => logicRes (a &&& b)
  | .or => logicRes (a ||| b)
  | .xor => logicRes (a ^^^ b)
  | .cmp => { subRes a b 0 with val := a, ovf := false }
  | .addc => addRes a b cin.toNat
  | .subc => subRes a b (1 - cin.toNat)
  | .shl => shiftRes n (a <<< n) (bit a (32 - n))
  | .shr => shiftRes n (a >>> n) (bit a (n - 1))
  | .sar => shiftRes n (a.sshiftRight n) (bit a (n - 1))
  | .ror => shiftRes n (a.rotateRight n) (bit a (n - 1))
  | .min => let r := if a.toInt ≤ b.toInt then a else b; { val := r, upd := znOf r }
  | .max => let r := if a.toInt ≥ b.toInt then a else b; { val := r, upd := znOf r }
  | .abs =>
    let r := wordOfInt b.toInt.natAbs
    let v := b == 0x80000000
    { val := r, ovf := v, upd := { znOf r with v := some v } }
  | .neg => subRes 0 b 0
  | .extb => let r := (b.setWidth 8).signExtend 32; { val := r, upd := znOf r }
  | .extbu => let r := b &&& 0xFF; { val := r, upd := znOf r }
  | .exth => let r := (b.setWidth 16).signExtend 32; { val := r, upd := znOf r }
  | .exthu => let r := b &&& 0xFFFF; { val := r, upd := znOf r }
  | .clz => let r : Word := BitVec.ofNat 32 (leadingZeros 32 b.toNat); { val := r, upd := { z := some (r == 0) } }
  | .cls => let r : Word := BitVec.ofNat 32 (countLeadingSigns b); { val := r, upd := { z := some (r == 0) } }
  | .addqs => satRes (a.toInt + b.toInt)
  | .subqs => satRes (a.toInt - b.toInt)
  | .add2s => pairSat (· + ·) a b
  | .sub2s => pairSat (· - ·) a b
  | .absqs => satRes b.toInt.natAbs
  | .negqs => satRes (- b.toInt)
  | .shlqs => satRes (a.toInt * 2 ^ n)
  | .add2 => pairWrap (· + ·) a b
  | .sub2 => pairWrap (· - ·) a b
  | .mov => { val := a }

/-- Whether the operation's overflow traps under PSW.OVE (R129: vector 6). -/
def AluOp.traps : AluOp → Bool
  | .add | .sub | .addc | .subc | .abs | .neg => true
  | _ => false

/-- Whether the operation writes its destination (CMP writes none). -/
def AluOp.writes (op : AluOp) : Bool := op != .cmp

/-- The saturating rounded Q1.31 product (R132 MULQ.S). -/
def mulqs (a b : Word) : AluRes := satRes ((a.toInt * b.toInt + 2 ^ 30) / 2 ^ 31)

/-- The saturating rounded product of Q15 pairs (R135 MUL2Q). -/
def mul2q (a b : Word) : AluRes := pairSat (fun x y => (x * y + 2 ^ 14) / 2 ^ 15) a b

/-- A multiply into an accumulator (R112, R132, R134). -/
inductive MacOp where
  | macQ | msuQ | macI | msuI | mac2Q | msu2Q | macuI
  deriving DecidableEq, Repr

/-- The accumulator after a multiply-accumulate, modulo 2^72 (R94, R112). -/
def macOp (op : MacOp) (acc : Acc) (a b : Word) : Acc :=
  let q15 := pairElem a 0 * pairElem b 0 + pairElem a 1 * pairElem b 1
  match op with
  | .macQ => BitVec.ofInt 72 (acc.toInt + 2 * (a.toInt * b.toInt))
  | .msuQ => BitVec.ofInt 72 (acc.toInt - 2 * (a.toInt * b.toInt))
  | .macI => BitVec.ofInt 72 (acc.toInt + a.toInt * b.toInt)
  | .msuI => BitVec.ofInt 72 (acc.toInt - a.toInt * b.toInt)
  | .mac2Q => BitVec.ofInt 72 (acc.toInt + q15 * 2 ^ 33)
  | .msu2Q => BitVec.ofInt 72 (acc.toInt - q15 * 2 ^ 33)
  | .macuI => BitVec.ofInt 72 (acc.toInt + (a.toNat : Int) * b.toNat)

/-- A read of an accumulator (R133). -/
inductive AccRead where
  | rdt | rdr | rdl | rdi | rdg
  deriving DecidableEq, Repr

/-- The value a read of an accumulator delivers (R113, R133). RDR adds 2^31 exactly and saturates: R133 does not say whether the sum wraps
at 72 bits (DESIGN CHOICE, log 103). -/
def accRead (op : AccRead) (acc : Acc) : AluRes :=
  match op with
  | .rdt => satRes (acc.toInt / 2 ^ 32)
  | .rdr => satRes ((acc.toInt + 2 ^ 31) / 2 ^ 32)
  | .rdl => { val := acc.setWidth 32 }
  | .rdi => satRes acc.toInt
  | .rdg => { val := ((acc >>> 64).setWidth 8).signExtend 32 }

/-- WRQ: sext(d) << 32 (R133). -/
def wrq (d : Word) : Acc := (d.signExtend 72) <<< 32
/-- WRI: sext(d) (R133). -/
def wri (d : Word) : Acc := d.signExtend 72

/-- The dividing operations of R146. -/
inductive DivOp where
  | div | divu | rem | remu
  deriving DecidableEq, Repr

/-- A division's result, its trap vector conditions and its flags (R146, R148): `ovf` marks 0x8000_0000 ÷ −1,
and V is set by a division by zero too. -/
def divOp (op : DivOp) (a b : Word) : AluRes :=
  let isOvf := a == 0x80000000 && b == 0xFFFFFFFF
  let r : Word :=
    if b == 0 then
      match op with
      | .div => if a.msb then 0x80000000 else 0x7FFFFFFF
      | .divu => 0xFFFFFFFF
      | .rem => a
      | .remu => a
    else
      match op with
      | .div => if isOvf then 0x80000000 else wordOfInt (a.toInt.tdiv b.toInt)
      | .divu => BitVec.ofNat 32 (a.toNat / b.toNat)
      | .rem => wordOfInt (a.toInt.tmod b.toInt)
      | .remu => BitVec.ofNat 32 (a.toNat % b.toNat)
  let v := b == 0 || (op == .div && isOvf)
  { val := r, ovf := op == .div && isOvf, upd := { znOf r with v := some v } }

/-- DIVQ: saturating Q1.31 division rounded towards zero; a zero divisor saturates by the sign of the dividend (R148). -/
def divq (a b : Word) : AluRes :=
  if b == 0 then { val := if a.msb then 0x80000000 else 0x7FFFFFFF, upd := { sticky := satFlag } }
  else satRes ((a.toInt * 2 ^ 31).tdiv b.toInt)

/-- SQRT in Q1.31, rounded down; a negative operand delivers 0 with SAT (R149). -/
def sqrtq (b : Word) : AluRes :=
  if b.msb then { val := 0, upd := { sticky := satFlag } }
  else { val := BitVec.ofNat 32 (isqrt 31 (b.toNat * 2 ^ 31)) }

/-- The condition of a branch's COND field on the flags (R140). COND 0xF is no condition. -/
def condTaken (cond : Nat) (psw : Word) : Bool :=
  let z := bit psw pswZ; let n := bit psw pswN; let c := bit psw pswC; let v := bit psw pswV
  match cond with
  | 0 => true
  | 1 => z
  | 2 => !z
  | 3 => c
  | 4 => !c
  | 5 => n
  | 6 => !n
  | 7 => v
  | 8 => !v
  | 9 => c && !z
  | 10 => !c || z
  | 11 => n == v
  | 12 => n != v
  | 13 => !z && n == v
  | 14 => z || n != v
  | _ => false

/-- Bits of an odd-parity check: the stored bit that makes the number of ones odd (R109, R425). -/
def oddParity (n v : Nat) : Nat := (popcount n v + 1) % 2

/-- The 16-bit physical word of a syllable with both parity bits (R109). -/
def physSyl (syl : BitVec 14) : BitVec 16 :=
  let v := syl.toNat
  let lo := v % 256
  let hi := v / 256
  BitVec.ofNat 16 (lo + oddParity 8 lo * 2 ^ 8 + hi * 2 ^ 9 + oddParity 6 hi * 2 ^ 15)

/-- Parity of the 8-bit lane holds (R109). -/
def lane8Ok (w : BitVec 16) : Bool := popcount 9 (w.toNat % 512) % 2 == 1
/-- Parity of the 6-bit lane holds (R109). -/
def lane6Ok (w : BitVec 16) : Bool := popcount 7 (w.toNat / 512) % 2 == 1

/-- The syllable in a physical word. -/
def sylOf (w : BitVec 16) : BitVec 14 := BitVec.ofNat 14 (w.toNat % 256 + (w.toNat / 512 % 64) * 256)

end Sys2Proof.Machine
end

