-- ==== Sys2Proof/Machine/Float.lean ====
section
/-!
DEFINITION. binary32 operations (spec/03_ezham_core_model.md R114; spec/04_ezham_instruction_set.md R143..R145): exact
arithmetic on significands, one rounding to nearest even, subnormal inputs and results taken as zero, the canonical NaN
0x7FC0_0000, sticky flags as masks of PSW.
-/
namespace Sys2Proof.Machine

/-- A binary32 operand with subnormals taken as zero (R114): the finite value is (−1)^neg × man × 2^exp. -/
inductive FVal where
  | nan (signalling : Bool)
  | inf (neg : Bool)
  | fin (neg : Bool) (man : Nat) (exp : Int)
  deriving DecidableEq, Repr

/-- The one NaN result (R114). -/
abbrev canonicalNaN : Word := 0x7FC00000

/-- Reads a word as a binary32 operand. -/
def unpackF (w : Word) : FVal :=
  let e := fld w 23 8
  let f := fld w 0 23
  if e = 255 then (if f = 0 then .inf w.msb else .nan (f < 2 ^ 22))
  else if e = 0 then .fin w.msb 0 0
  else .fin w.msb (2 ^ 23 + f) ((e : Int) - 150)

/-- The sign bit as a word. -/
def signW (neg : Bool) : Word := if neg then 0x80000000 else 0
/-- A signed infinity. -/
def infW (neg : Bool) : Word := signW neg ||| 0x7F800000

/-- A value with its sticky flags. -/
def fres (w : Word) (flags : Word) : AluRes := { val := w, upd := { sticky := flags } }

/-- The canonical NaN with the invalid flag. -/
def invalidF : AluRes := fres canonicalNaN fnv

/-- A NaN result from NaN operands: FNV when one of them is signalling (IEEE 754; log 14). -/
def nanF (sig : Bool) : AluRes := fres canonicalNaN (if sig then fnv else 0)

/-- `m / 2^k` rounded to nearest even, where a nonzero `rest` stands for something below the last bit of `m`;
the second part says whether it was inexact. -/
def roundShift (m k : Nat) (rest : Bool) : Nat × Bool :=
  if k = 0 then (m, rest)
  else
    let q := m / 2 ^ k
    let r := m % 2 ^ k
    let half := 2 ^ (k - 1)
    let up := r > half || (r == half && (rest || q % 2 == 1))
    (if up then q + 1 else q, r != 0 || rest)

/-- Delivers (−1)^neg × (man [+ something below its last bit when `rest`]) × 2^exp as binary32 (R114). A caller that sets
`rest` gives a significand of at least 26 bits. Whether a result would be subnormal is judged after rounding: R114 does not say
(DESIGN CHOICE, log 102). -/
def packF (neg : Bool) (man : Nat) (exp : Int) (rest : Bool) : AluRes :=
  if man = 0 then fres (signW neg) 0
  else
    let len : Int := (Nat.log2 man : Int) + 1
    -- exponent of the last kept bit: 24 significant bits, but not below the subnormal grid 2^−149
    let lsb : Int := max (exp + len - 24) (-149)
    let (q, inexact) :=
      if lsb ≥ exp then roundShift man (lsb - exp).toNat rest
      else (man * 2 ^ (exp - lsb).toNat, rest)
    let (q, lsb) := if q = 2 ^ 24 then (2 ^ 23, lsb + 1) else (q, lsb)
    if q < 2 ^ 23 then fres (signW neg) (fuf ||| fnx)
    else if lsb + 150 ≥ 255 then fres (infW neg) (fof ||| fnx)
    else fres (signW neg ||| natAt (lsb + 150).toNat 23 ||| BitVec.ofNat 32 (q % 2 ^ 23)) (if inexact then fnx else 0)

/-- The exact sum of two finite values as a signed significand and exponent. -/
def alignedSum (n1 : Bool) (m1 : Nat) (e1 : Int) (n2 : Bool) (m2 : Nat) (e2 : Int) : Int × Int :=
  let e := min e1 e2
  let v1 : Int := (m1 * 2 ^ (e1 - e).toNat : Nat)
  let v2 : Int := (m2 * 2 ^ (e2 - e).toNat : Nat)
  ((if n1 then - v1 else v1) + (if n2 then - v2 else v2), e)

/-- The sum of two finite values, rounded; an exact zero sum is −0 only when both are negative. -/
def finSum (n1 : Bool) (m1 : Nat) (e1 : Int) (n2 : Bool) (m2 : Nat) (e2 : Int) : AluRes :=
  if m1 = 0 then packF (if m2 = 0 then n1 && n2 else n2) m2 e2 false
  else if m2 = 0 then packF n1 m1 e1 false
  else
    let p := alignedSum n1 m1 e1 n2 m2 e2
    packF (decide (p.1 < 0)) p.1.natAbs p.2 false

/-- The sign of a value inverted. -/
def FVal.negate : FVal → FVal
  | .nan s => .nan s
  | .inf n => .inf !n
  | .fin n m e => .fin (!n) m e

/-- The addition of two operands. -/
def faddV (x y : FVal) : AluRes :=
  match x, y with
  | .nan s, .nan t => nanF (s || t)
  | .nan s, _ => nanF s
  | _, .nan t => nanF t
  | .inf n, .inf m => if n = m then fres (infW n) 0 else invalidF
  | .inf n, _ => fres (infW n) 0
  | _, .inf m => fres (infW m) 0
  | .fin n1 m1 e1, .fin n2 m2 e2 => finSum n1 m1 e1 n2 m2 e2

/-- FADD. -/
def fadd (a b : Word) : AluRes := faddV (unpackF a) (unpackF b)
/-- FSUB. -/
def fsub (a b : Word) : AluRes := faddV (unpackF a) (unpackF b).negate

/-- FMUL. -/
def fmul (a b : Word) : AluRes :=
  match unpackF a, unpackF b with
  | .nan s, .nan t => nanF (s || t)
  | .nan s, _ => nanF s
  | _, .nan t => nanF t
  | .inf n, .inf m => fres (infW (n != m)) 0
  | .inf n, .fin m k _ => if k = 0 then invalidF else fres (infW (n != m)) 0
  | .fin m k _, .inf n => if k = 0 then invalidF else fres (infW (n != m)) 0
  | .fin n1 m1 e1, .fin n2 m2 e2 => packF (n1 != n2) (m1 * m2) (e1 + e2) false

/-- FMADD: d + s × t, rounded once. -/
def fmadd (d s t : Word) : AluRes :=
  let x := unpackF d
  match unpackF s, unpackF t with
  | .nan a, .nan b => nanF (a || b || x == .nan true)
  | .nan a, _ => nanF (a || x == .nan true)
  | _, .nan b => nanF (b || x == .nan true)
  | .inf n, .inf m => faddV x (.inf (n != m))
  | .inf n, .fin m k _ =>
    if k = 0 then (match x with
      | .nan sg => nanF (sg || Config.fmaddInvalidOnNaN)
      | _ => invalidF)
    else faddV x (.inf (n != m))
  | .fin m k _, .inf n =>
    if k = 0 then (match x with
      | .nan sg => nanF (sg || Config.fmaddInvalidOnNaN)
      | _ => invalidF)
    else faddV x (.inf (n != m))
  | .fin n1 m1 e1, .fin n2 m2 e2 => faddV x (.fin (n1 != n2) (m1 * m2) (e1 + e2))

/-- FDIV. -/
def fdiv (a b : Word) : AluRes :=
  match unpackF a, unpackF b with
  | .nan s, .nan t => nanF (s || t)
  | .nan s, _ => nanF s
  | _, .nan t => nanF t
  | .inf _, .inf _ => invalidF
  | .inf n, .fin m _ _ => fres (infW (n != m)) 0
  | .fin n _ _, .inf m => fres (signW (n != m)) 0
  | .fin n1 m1 e1, .fin n2 m2 e2 =>
    if m2 = 0 then (if m1 = 0 then invalidF else fres (infW (n1 != n2)) fdz)
    else packF (n1 != n2) (m1 * 2 ^ 40 / m2) (e1 - e2 - 40) (m1 * 2 ^ 40 % m2 != 0)

/-- FSQRT. -/
def fsqrt (b : Word) : AluRes :=
  match unpackF b with
  | .nan s => nanF s
  | .inf n => if n then invalidF else fres (infW false) 0
  | .fin n m e =>
    if m = 0 then fres (signW n) 0
    else if n then invalidF
    else
      let m2 := if e % 2 = 0 then m * 2 ^ 40 else m * 2 ^ 41
      let e2 := if e % 2 = 0 then e - 40 else e - 41
      let r := isqrt 40 m2
      packF false r (e2 / 2) (r * r != m2)

/-- A comparison of two operands that are not NaN: less, equal, greater. -/
def fcompare (x y : FVal) : Ordering :=
  match x, y with
  | .inf n, .inf m => if n = m then .eq else if n then .lt else .gt
  | .inf n, _ => if n then .lt else .gt
  | _, .inf m => if m then .gt else .lt
  | .fin n1 m1 e1, .fin n2 m2 e2 => compare (alignedSum n1 m1 e1 (!n2) m2 e2).1 0
  | _, _ => .eq

/-- Whether an operand is a NaN. -/
def FVal.isNaN : FVal → Bool
  | .nan _ => true
  | _ => false

/-- FCMP (R144): flags only. -/
def fcmp (a b : Word) : AluRes :=
  let x := unpackF a; let y := unpackF b
  if x.isNaN || y.isNaN then
    { val := a, upd := { z := some false, n := some false, c := some false, v := some true, sticky := fnv } }
  else
    let o := fcompare x y
    { val := a, upd := { z := some (o == .eq), n := some (o == .lt), c := some (o != .lt), v := some false } }

/-- A non-NaN operand as delivered: a subnormal is a zero of its sign (R114). -/
def flushIn (w : Word) : Word := if fld w 23 8 = 0 then w &&& 0x80000000 else w

/-- FMIN (`greater = false`) and FMAX: −0 is less than +0; a NaN operand delivers the NaN with FNV (R143, R145). -/
def fminmax (greater : Bool) (a b : Word) : AluRes :=
  let x := unpackF a; let y := unpackF b
  if x.isNaN || y.isNaN then invalidF
  else
    let aLess := match fcompare x y with
      | .lt => true
      | .gt => false
      | .eq => a.msb
    fres (flushIn (if aLess != greater then a else b)) 0

/-- FNEG (R145: a NaN delivers the canonical NaN with no flag). -/
def fneg (a : Word) : AluRes := if (unpackF a).isNaN then fres canonicalNaN 0 else fres (flushIn a ^^^ 0x80000000) 0
/-- FABS. -/
def fabs (a : Word) : AluRes := if (unpackF a).isNaN then fres canonicalNaN 0 else fres (flushIn a &&& 0x7FFFFFFF) 0

/-- binary32 times 2^scale to a signed integer, rounded to nearest even and saturated; a NaN gives 0 with FNV (R114). A value
that saturates, an infinity too, sets FNV and not FNX: R114 names a flag for the NaN only (DESIGN CHOICE, log 102). -/
def fcvtInt (scale : Int) (a : Word) : AluRes :=
  match unpackF a with
  | .nan _ => fres 0 fnv
  | .inf n => fres (if n then 0x80000000 else 0x7FFFFFFF) fnv
  | .fin n m e =>
    let e := e + scale
    let (q, inexact) := if e ≥ 0 then (m * 2 ^ (min e 64).toNat, false) else roundShift m (min (-e) 64).toNat false
    let p := satS 32 (if n then - (q : Int) else (q : Int))
    fres (wordOfInt p.1) (if p.2 then fnv else if inexact then fnx else 0)

/-- A signed integer times 2^−scale to binary32. -/
def fcvtFloat (scale : Int) (a : Word) : AluRes := packF a.msb a.toInt.natAbs (- scale) false

end Sys2Proof.Machine
end

