-- ==== Sys2Proof/Machine/CoreDecode.lean ====
section
/-!
DEFINITION. The encodings of the core's instructions (spec/03_ezham_core_model.md R120 to R123, spec/04_ezham_instruction_set.md): which
instruction the syllables at a program address are. An encoding that no table assigns, or that breaks R125, is no instruction.
-/
namespace Sys2Proof.Machine

/-- A syllable (R109). -/
abbrev Syl := BitVec 14

/-- The number of syllables of the instruction whose first syllable is given (R120). -/
def coreLen (w : Syl) : Nat := if fld w 10 4 = 0xE then 2 else 1

/-- Fields of an encoding. -/
def f16 {n : Nat} (w : BitVec n) (lo : Nat) : Fin 16 := Fin.ofNat 16 (fld w lo 4)
def f8 {n : Nat} (w : BitVec n) (lo : Nat) : Fin 8 := Fin.ofNat 8 (fld w lo 3)
def f4 {n : Nat} (w : BitVec n) (lo : Nat) : Fin 4 := Fin.ofNat 4 (fld w lo 2)
def f2 {n : Nat} (w : BitVec n) (lo : Nat) : Fin 2 := Fin.ofNat 2 (fld w lo 1)

/-- An encoding whose bits [lo+width-1 : lo] must be 0 (R125). -/
def zeroAt {n : Nat} (w : BitVec n) (lo width : Nat) (i : Instr) : Option Instr := if fld w lo width = 0 then some i else none

/-- Majors 0x0 to 0x3: ALU and shift (R129). -/
def decodeAlu (k : Fin 16) (op : Nat) (rd rs : Fin 16) : Option Instr :=
  match op with
  | 0x0 => some (.add k rd rs)
  | 0x1 => some (.sub k rd rs)
  | 0x2 => some (.and k rd rs)
  | 0x3 => some (.or k rd rs)
  | 0x4 => some (.xor k rd rs)
  | 0x5 => some (.cmp k rd rs)
  | 0x6 => some (.addc k rd rs)
  | 0x7 => some (.subc k rd rs)
  | 0x8 => some (.shl k rd rs)
  | 0x9 => some (.shr k rd rs)
  | 0xA => some (.sar k rd rs)
  | 0xB => some (.ror k rd rs)
  | 0xC => some (.min k rd rs)
  | 0xD => some (.max k rd rs)
  | 0xE => some (.abs k rd rs)
  | 0xF => some (.neg k rd rs)
  | _ => none

/-- The accumulator group, by SRC[3:1] (R133). -/
def decodeAcc (k : Fin 16) (op : Nat) (rd : Fin 16) (x : Fin 2) : Option Instr :=
  match op with
  | 0 => some (.rdt k rd x)
  | 1 => some (.rdr k rd x)
  | 2 => some (.rdl k rd x)
  | 3 => some (.rdi k rd x)
  | 4 => some (.rdg k rd x)
  | 5 => some (.wrq k x rd)
  | 6 => some (.wri k x rd)
  | 7 => some (.clr k x rd)
  | _ => none

/-- Majors 0x4 and 0x5: MAC and fixed point (R132). -/
def decodeMac (k : Fin 16) (w : Syl) : Option Instr :=
  let rd := f16 w 4
  let rs := f16 w 0
  match fld w 8 3 with
  | 0 => some (.macQ k 0 rd rs)
  | 1 => some (.macQ k 1 rd rs)
  | 2 => some (.msuQ k 0 rd rs)
  | 3 => some (.msuQ k 1 rd rs)
  | 4 => some (.mulqS k rd rs)
  | 5 => some (.addqS k rd rs)
  | 6 => some (.subqS k rd rs)
  | 7 => decodeAcc k (fld w 1 3) rd (f2 w 0)
  | _ => none

/-- The addressing mode of a short load or store (R122). -/
def decodeSMode (m : Nat) : SMode :=
  match m with
  | 0 => .ind
  | 1 => .inc
  | 2 => .dec
  | _ => .modInc

/-- Major 0x8: moves (R136). -/
def decodeMove (k : Fin 16) (fn : Nat) (rd rs : Fin 16) : Option Instr :=
  match fn with
  | 0 => some (.mov k rd rs)
  | 1 => some (.mova k rd rs)
  | 2 => some (.movd k rd rs)
  | 3 => some (.movaa k rd rs)
  | _ => none

/-- Major 0xA: float (R143). -/
def decodeFloat (k : Fin 16) (fn : Nat) (rd rs : Fin 16) : Option Instr :=
  match fn with
  | 0 => some (.fadd k rd rs)
  | 1 => some (.fsub k rd rs)
  | 2 => some (.fmul k rd rs)
  | _ =>
    match rs.val with
    | 0 => some (.fneg k rd)
    | 1 => some (.fabs k rd)
    | 2 => some (.fcvtWs k rd)
    | 3 => some (.fcvtSw k rd)
    | 4 => some (.fcvtQs k rd)
    | 5 => some (.fcvtSq k rd)
    | _ => none

/-- Major 0xB: long operations (R146). -/
def decodeLongOp (k : Fin 16) (fn : Nat) (rd rs : Fin 16) : Option Instr :=
  match fn with
  | 0 => some (.div k rd rs)
  | 1 => some (.divu k rd rs)
  | 2 => some (.sincos k rd rs)
  | 3 => some (.atan2 k rd rs)
  | _ => none

/-- The transform variants (R152). -/
def decodeXform (k : Fin 16) (v : Nat) (g : Fin 4) : Option Instr :=
  match v with
  | 0 => some (.xformClarke3 k g)
  | 1 => some (.xformClarke2 k g)
  | 2 => some (.xformPark k g)
  | 3 => some (.xformIpark k g)
  | 4 => some (.xformParksc k g)
  | 5 => some (.xformIparksc k g)
  | 6 => some (.xformSvt k g)
  | _ => none

/-- Major 0xD: loop path and transform (R150). -/
def decodeLoop (k : Fin 16) (w : Syl) : Option Instr :=
  match fld w 6 4 with
  | 0 => some (.smprd k (f16 w 2) (f4 w 0))
  | 1 => some (.duty k (f4 w 4) (f16 w 0))
  | 2 => zeroAt w 0 6 (.waitf k)
  | 3 => if fld w 3 1 = 0 then decodeXform k (fld w 0 3) (f4 w 4) else none
  | _ => none

/-- Major 0xF: system (R162). -/
def decodeSystem (k : Fin 16) (w : Syl) : Option Instr :=
  match fld w 6 4 with
  | 0x0 => zeroAt w 0 6 (.nop k)
  | 0x1 => zeroAt w 0 6 (.sys k)
  | 0x2 => zeroAt w 0 6 (.brk k)
  | 0x3 => zeroAt w 0 6 (.rete k)
  | 0x4 => zeroAt w 0 6 (.syncI k)
  | 0x5 => zeroAt w 0 6 (.syncC k)
  | 0x6 => zeroAt w 3 3 (.jmp k (f8 w 0))
  | 0x7 => zeroAt w 3 3 (.callr k (f8 w 0))
  | 0x8 => zeroAt w 0 6 (.ret k)
  | 0x9 => zeroAt w 0 6 (.wfi k)
  | _ => none

/-- The instruction of one syllable (R121, R122). -/
def decodeShort (k : Fin 16) (w : Syl) : Option Instr :=
  let fn := fld w 8 2
  let rd := f16 w 4
  let rs := f16 w 0
  match fld w 10 4 with
  | 0x0 => decodeAlu k fn rd rs
  | 0x1 => decodeAlu k (4 + fn) rd rs
  | 0x2 => decodeAlu k (8 + fn) rd rs
  | 0x3 => decodeAlu k (12 + fn) rd rs
  | 0x4 => decodeMac k w
  | 0x5 => decodeMac k w
  | 0x6 =>
    let m := decodeSMode (fld w 0 2)
    some (if bit w 9 then .st k (f16 w 5) (f8 w 2) m else .ld k (f16 w 5) (f8 w 2) m)
  | 0x7 => some (.bcc k (f16 w 6) (w.setWidth 6))
  | 0x8 => decodeMove k fn rd rs
  | 0x9 => some (.movi k (f16 w 6) (w.setWidth 6))
  | 0xA => decodeFloat k fn rd rs
  | 0xB => decodeLongOp k fn rd rs
  | 0xC => some (.cx k (f16 w 6) (f8 w 3) (f8 w 0))
  | 0xD => decodeLoop k w
  | 0xF => decodeSystem k w
  | _ => none

/-! ## Long forms (R122): the payload P -/

/-- TMAJ 0x0 (R131). -/
def decodeAluImm (k : Fin 16) (p : BitVec 20) : Option Instr :=
  let rd := f16 p 14
  let imm : BitVec 14 := p.setWidth 14
  match fld p 18 2 with
  | 0 => some (.addi k rd imm)
  | 1 => some (.andi k rd imm)
  | 2 => some (.ori k rd imm)
  | _ => some (.cmpi k rd imm)

/-- TMAJ 0x2 (R131). -/
def decodeShiftImm (k : Fin 16) (p : BitVec 20) : Option Instr :=
  let rd := f16 p 14
  let n : BitVec 5 := p.setWidth 5
  zeroAt p 5 9 (match fld p 18 2 with
    | 0 => .shli k rd n
    | 1 => .shri k rd n
    | 2 => .sari k rd n
    | _ => .rori k rd n)

/-- TMAJ 0x3 (R131). -/
def decodeExtend (k : Fin 16) (p : BitVec 20) : Option Instr :=
  let rd := f16 p 12
  let rs := f16 p 8
  if fld p 0 8 ≠ 0 then none
  else match fld p 16 4 with
    | 0 => some (.extb k rd rs)
    | 1 => some (.extbu k rd rs)
    | 2 => some (.exth k rd rs)
    | 3 => some (.exthu k rd rs)
    | 4 => some (.clz k rd rs)
    | 5 => some (.cls k rd rs)
    | _ => none

/-- TMAJ 0x4 (R134). -/
def decodeMacLong (k : Fin 16) (p : BitVec 20) : Option Instr :=
  let x := f2 p 15
  let ra := f16 p 11
  let rb := f16 p 7
  if fld p 0 7 ≠ 0 then none
  else match fld p 16 4 with
    | 0 => some (.macI k x ra rb)
    | 1 => some (.msuI k x ra rb)
    | 2 => some (.mac2Q k x ra rb)
    | 3 => some (.msu2Q k x ra rb)
    | 4 => some (.macuI k x ra rb)
    | _ => none

/-- TMAJ 0x5 (R135). -/
def decodePacked (k : Fin 16) (p : BitVec 20) : Option Instr :=
  let rd := f16 p 12
  let rs := f16 p 8
  match fld p 16 4 with
  | 0 => zeroAt p 0 8 (.add2S k rd rs)
  | 1 => zeroAt p 0 8 (.sub2S k rd rs)
  | 2 => zeroAt p 0 8 (.mul2q k rd rs)
  | 3 => zeroAt p 0 8 (.absqS k rd rs)
  | 4 => zeroAt p 0 8 (.negqS k rd rs)
  | 5 => zeroAt p 5 3 (.shlqS k rd rs (p.setWidth 5))
  | 6 => zeroAt p 0 8 (.add2 k rd rs)
  | 7 => zeroAt p 0 8 (.sub2 k rd rs)
  | _ => none

/-- The addressing mode of a long load or store (R138). -/
def decodeMode (p : BitVec 20) : Option Mode :=
  if bit p 8 then some (.off (p.setWidth 8))
  else if fld p 0 5 ≠ 0 then none
  else match fld p 5 3 with
    | 0 => some .ind
    | 1 => some .inc
    | 2 => some .dec
    | 3 => some .modInc
    | 4 => some .modDec
    | 5 => some .brev
    | _ => none

/-- TMAJ 0x6 (R138). -/
def decodeMem (k : Fin 16) (p : BitVec 20) : Option Instr :=
  let rd := f16 p 12
  let an := f8 p 9
  match decodeMode p with
  | none => none
  | some m =>
    match bit p 19, fld p 16 3 with
    | false, 0 => some (.ldW k rd an m)
    | false, 1 => some (.ldH k rd an m)
    | false, 2 => some (.ldHu k rd an m)
    | false, 3 => some (.ldB k rd an m)
    | false, 4 => some (.ldBu k rd an m)
    | true, 0 => some (.stW k rd an m)
    | true, 1 => some (.stH k rd an m)
    | true, 3 => some (.stB k rd an m)
    | _, _ => none

/-- TMAJ 0x7 (R141, R142). -/
def decodeBranchLong (k : Fin 16) (p : BitVec 20) : Option Instr :=
  let off : BitVec 16 := p.setWidth 16
  if h : fld p 16 4 < 15 then some (.bccL k ⟨fld p 16 4, h⟩ off) else some (.call k off)

/-- TMAJ 0xA (R143). -/
def decodeFloatLong (k : Fin 16) (p : BitVec 20) : Option Instr :=
  let rd := f16 p 12
  let rs := f16 p 8
  match fld p 16 4 with
  | 0 => zeroAt p 0 8 (.fcmp k rd rs)
  | 1 => zeroAt p 0 8 (.fmin k rd rs)
  | 2 => zeroAt p 0 8 (.fmax k rd rs)
  | 3 => zeroAt p 0 4 (.fmadd k rd rs (f16 p 4))
  | _ => none

/-- TMAJ 0xB (R146). -/
def decodeLongLong (k : Fin 16) (p : BitVec 20) : Option Instr :=
  let rd := f16 p 12
  let rs := f16 p 8
  if fld p 0 8 ≠ 0 then none
  else match fld p 16 4 with
    | 0 => some (.sqrt k rd rs)
    | 1 => some (.divq k rd rs)
    | 2 => some (.fdiv k rd rs)
    | 3 => some (.fsqrt k rd rs)
    | 4 => some (.rem k rd rs)
    | 5 => some (.remu k rd rs)
    | _ => none

/-- TMAJ 0xD: VMAC and INTERP (R154). -/
def decodeVector (k : Fin 16) (p : BitVec 20) : Option Instr :=
  match fld p 16 4 with
  | 0 => zeroAt p 0 5 (.vmac k (f2 p 15) (f8 p 12) (f8 p 9) (f16 p 5) none)
  | 1 => zeroAt p 0 3 (.interp k (f8 p 13) (f8 p 10) (f8 p 7) (f16 p 3) none)
  | _ => none

/-- TMAJ 0xF (R163). -/
def decodeControl (k : Fin 16) (p : BitVec 20) : Option Instr :=
  match fld p 16 4 with
  | 0 => zeroAt p 0 7 (.mtc k (Fin.ofNat 32 (fld p 11 5)) (f16 p 7))
  | 1 => zeroAt p 0 7 (.mfc k (f16 p 7) (Fin.ofNat 32 (fld p 11 5)))
  | 2 => zeroAt p 0 9 (.pwrite k (f8 p 13) (f16 p 9))
  | 3 => zeroAt p 0 6 (.bmove k (f8 p 13) (f8 p 10) (f16 p 6) none)
  | _ => none

/-- The instruction of a long form, by TMAJ (R123). -/
def decodeLong (k : Fin 16) (tmaj : Nat) (p : BitVec 20) : Option Instr :=
  match tmaj with
  | 0x0 => decodeAluImm k p
  | 0x1 => zeroAt p 19 1 (.adda k (f8 p 16) (p.setWidth 16))
  | 0x2 => decodeShiftImm k p
  | 0x3 => decodeExtend k p
  | 0x4 => decodeMacLong k p
  | 0x5 => decodePacked k p
  | 0x6 => decodeMem k p
  | 0x7 => decodeBranchLong k p
  | 0x8 => some (.movh k (f16 p 16) (p.setWidth 16))
  | 0x9 => some (.moviL k (f16 p 16) (p.setWidth 16))
  | 0xA => decodeFloatLong k p
  | 0xB => decodeLongLong k p
  | 0xC => some (.cxL k (f16 p 16) (f16 p 12) (f16 p 8) (f16 p 4) (f16 p 0))
  | 0xD => decodeVector k p
  | 0xF => decodeControl k p
  | _ => none

/-- The instruction of cabinet `k` that the syllables `w1`, `w2` are (R120 to R123); `w2` counts in a long form alone. None: illegal. -/
def decodeCore (k : Fin 16) (w1 w2 : Syl) : Option Instr :=
  if coreLen w1 = 2 then decodeLong k (fld w1 6 4) (w1.setWidth 6 ++ w2) else decodeShort k w1

/-- The command as its encoding gives it: where a resumable instruction is ended is the environment's (R157). -/
def coded (i : Instr) : Instr :=
  match i with
  | .vmac k x ax ay rn _ => .vmac k x ax ay rn none
  | .interp k sa ad ta rn _ => .interp k sa ad ta rn none
  | .bmove k sa ad rn _ => .bmove k sa ad rn none
  | i => i

end Sys2Proof.Machine
end

