-- ==== Sys2Proof/Machine/Base.lean ====
section
/-!
DEFINITION. The lowest operations on a cabinet: block error and event registers (01 R22, R23), the ICU's latching of edges
(12 R412), the performance counters' counting (14 R448..R452), and messages to the sideboard.
-/
namespace Sys2Proof.Machine

/-- The error and event registers of a block. -/
def Cabinet.blk (c : Cabinet) (b : Blk) : BlkErr := c.errs[b.idx]

/-- The cabinet with a block's error and event registers replaced. -/
def Cabinet.setBlk (c : Cabinet) (b : Blk) (e : BlkErr) : Cabinet := { c with errs := c.errs.set b.idx e }

/-- Adds a message to the sideboard. -/
def Cabinet.note (c : Cabinet) (n : Note) : Cabinet := { c with notes := c.notes ++ [n] }

/-- Answers a waiting command, if there is one (16 R521). -/
def Cabinet.answer (c : Cabinet) (t : Option Nat) (status : Nat) (data : List Byte := []) : Cabinet :=
  match t with
  | none => c
  | some t => c.note (.answer t status data)

/-- Takes one free value: the counter advances. -/
def Cabinet.takeFree (c : Cabinet) : Cabinet := { c with free := c.free + 1 }

/-- Sets causes in a block's IRQ register. The event source's edge is taken at the end of the step (`icuSync`). -/
def Cabinet.orIrq (c : Cabinet) (b : Blk) (bits : Word) : Cabinet :=
  c.setBlk b { c.blk b with irq := (c.blk b).irq ||| bits }

/-- CAB_STATE code of a state. -/
def CabMode.code : CabMode → Nat
  | .empty => 0 | .loaded => 1 | .armed => 2 | .running => 3 | .tripped => 4 | .parked => 5 | .test => 6

/-- Normal service: ARMED or RUNNING (00 R3). -/
def Cabinet.normalService (c : Cabinet) : Bool := c.mode == .armed || c.mode == .running

/-- The cabinet's clocks run (19 R613, R615): not once a parking is complete, and until a wake. -/
def Cabinet.clocksRun (c : Cabinet) : Bool := c.park != .stopped

/-- PSW.LVL of a level. -/
def Level.code : Level → Nat
  | .user => 0 | .kernel => 1 | .machine => 3

/-- A level of a PSW.LVL code; 0b10 does not occur. -/
def Level.ofCode (n : Nat) : Level := if n = 0 then .user else if n = 1 then .kernel else .machine

/-- The level at which the core executes: Machine in a run (R55), else PSW.LVL. -/
def Cabinet.level (c : Cabinet) : Level :=
  if c.frame.inRun then .machine else Level.ofCode (fld c.core.psw 12 2)

/-- Supervisory issue is stopped for a run: from the sample instant on, but for a Machine-level handler that executes (R59, R60). -/
def Cabinet.issueStopped (c : Cabinet) : Bool := c.pipe.issueStop && c.pipe.mdepth == 0

/-- The frame length in force: a triangle carrier treats bit 0 of FLEN as 0 (02, card CAB_FRAME). -/
def frameLen (c : Cabinet) : Nat := if c.pwm.triangle then c.frame.flen / 2 * 2 else c.frame.flen

/-- PRG after a resumable instruction that was ended with `n` elements done (04 R157). -/
def prgEnded (n : Nat) (c : Cabinet) : Cabinet := { c with core := { c.core with prg := natAt n 0 ||| 0x10000 } }

/-- A resumable instruction in progress is ended between two elements (04 R157). -/
def endWalk (c : Cabinet) : Cabinet :=
  match c.pipe.walked with
  | none => c
  | some n => prgEnded n { c with pipe := { c.pipe with walked := none } }

/-- The attributes of an event's occurrence (14 R450): level (3 = Run), program address, data address, class, requester. -/
structure Attr where
  lvl : Option Nat := none
  prog : Option Nat := none
  data : Option Nat := none
  cls : Option Nat := none
  mst : Option Nat := none
  deriving DecidableEq, Repr

/-- An attribute meets a mask criterion (14 R451): disabled when the mask is all ones. -/
def maskPass (mask full : Nat) (a : Option Nat) : Bool :=
  mask == full || (match a with
    | none => false
    | some i => mask / 2 ^ i % 2 == 1)

/-- Filter set `k` passes an occurrence (14 R451). -/
def fltPass (c : Cabinet) (k : Fin 4) (a : Attr) : Bool :=
  let f := c.prf.flt[k]
  let addr := if bit f 19 then a.prog else a.data
  maskPass (fld f 0 4) 0xF a.lvl && maskPass (fld f 4 5) 0x1F a.mst && maskPass (fld f 9 9) 0x1FF a.cls &&
  (!bit f 18 || (match addr with
    | none => false
    | some x => decide (c.prf.fltLo[k].toNat ≤ x) && decide (x ≤ c.prf.fltHi[k].toNat)))

/-- FSEL `v` passes an occurrence (14 R452): 0 passes all, 1 to 4 apply filter sets 0 to 3. -/
def fselPass (c : Cabinet) (v : Nat) (a : Attr) : Bool :=
  match v with
  | 1 => fltPass c 0 a
  | 2 => fltPass c 1 a
  | 3 => fltPass c 2 a
  | 4 => fltPass c 3 a
  | _ => true

/-- Sets counter `n`'s wrap flag and the OVF cause (14 R448). -/
def setWrap (n : Fin 64) (c : Cabinet) : Cabinet :=
  ({ c with prf := if n.val < 32 then { c.prf with ovfl := c.prf.ovfl ||| bitW n.val }
                   else { c.prf with ovfh := c.prf.ovfh ||| bitW (n.val - 32) } }).orIrq .prf 4

/-- Counts `m` occurrences of event `n` (14 R448). -/
def bump (n : Fin 64) (m : Nat) (a : Attr) (c : Cabinet) : Cabinet :=
  if m = 0 || !c.clocksRun || !fselPass c c.prf.sel[n] a then c
  else
    let v := c.prf.cnt[n].toNat + m
    let c := { c with prf := { c.prf with cnt := c.prf.cnt.set n (BitVec.ofNat 48 v) } }
    if v ≥ 2 ^ 48 then setWrap n c else c

/-- Reserved ICU sources never pend (12 R411). -/
def srcReserved (n : Nat) : Bool := (decide (26 ≤ n) && decide (n ≤ 31)) || (decide (50 ≤ n) && decide (n ≤ 55))

/-- Latches one rising edge of a source into PEND and REP (12 R412); the second part says REP was saturated. -/
def latchEdge (n : Nat) (c : Cabinet) : Cabinet × Bool :=
  if srcReserved n then (c, false)
  else
    if h : n < 128 then
      let i : Fin 128 := ⟨n, h⟩
      let s := c.icu.src[i]
      let sat := s.pend && s.rep == 15
      let s' := if s.pend then { s with rep := min (s.rep + 1) 15 } else { s with pend := true, rep := 0 }
      let c := { c with icu := { c.icu with src := c.icu.src.set i s', lastsat := if sat then n else c.icu.lastsat } }
      (bump 0x32 1 {} c, sat)
    else (c, false)

/-- One pulse on a source without the report of a saturation. -/
def pulseRaw (n : Nat) (c : Cabinet) : Cabinet := (latchEdge n c).1

/-- The error source of a block (12 R411). -/
def errSrc : Blk → Nat
  | .cab => 26 | .cnv => 32 | .pwm => 34 | .fbk => 36 | .drw => 38 | .tmr => 24 | .icu => 40 | .par => 41 | .prf => 43
  | .ord => 45 | .dec => 47

/-- The event source of a block that has one (12 R411). -/
def evSrc : Blk → Option Nat
  | .cnv => some 33 | .pwm => some 35 | .fbk => some 37 | .drw => some 39 | .tmr => some 25 | .par => some 42
  | .prf => some 44 | .ord => some 46 | _ => none

/-- Whether a block's event source is 1: an enabled cause stands (08 R304). -/
def evLevel (c : Cabinet) (b : Blk) : Bool := ((c.blk b).irq &&& (c.blk b).irqen) != 0

/-- CAB_BANKSEL as a word (02). -/
def bankselWord (b : BankSel) : Word :=
  boolAt b.active 0 ||| boolAt b.req 1 ||| boolAt b.validA 4 ||| boolAt b.validB 5 ||| boolAt b.staging 6 |||
  boolAt (b.req != b.active) 8

/-- CAB_STATE as a word (01). -/
def cabStateWord (c : Cabinet) : Word :=
  natAt c.mode.code 0 ||| natAt c.prev.code 4 ||| boolAt c.hold 8 ||| boolAt c.freeRun 9 ||| boolAt c.deftest 10 |||
  boolAt c.latch 11

/-- CAB_ERR.CORESTOP is set. -/
def Cabinet.corestop (c : Cabinet) : Bool := bit c.err 16

/-- CAB_ERR.SELFTEST is set. -/
def Cabinet.selftest (c : Cabinet) : Bool := bit c.err 17

end Sys2Proof.Machine
end

