-- ==== Sys2Proof/Machine/Card.lean ====
section
/-!
DEFINITION. Register cards (00 R8..R14): the writable fields of a register as masks, and the value a write leaves.
-/
namespace Sys2Proof.Machine

/-- The fields of a register by access code; every other bit is RO, P2 or reserved and ignores a write. -/
structure Card where
  rw : Word := 0
  rwK : Word := 0
  rwM : Word := 0
  w1c : Word := 0
  wo : Word := 0
  p2 : Word := 0
  deriving DecidableEq, Repr

/-- Fields writable at Kernel and Machine level. -/
def cardK (m : Word) : Card := { rwK := m }
/-- Fields writable at Machine level. -/
def cardM (m : Word) : Card := { rwM := m }
/-- Write-one-to-clear fields. -/
def cardC (m : Word) : Card := { w1c := m }
/-- Fields that are two-party protected. -/
def cardP (m : Word) : Card := { p2 := m }

/-- The fields that a level may not change (R10). -/
def Card.guarded (k : Card) (l : Level) : Word :=
  match l with
  | .machine => 0
  | .kernel => k.rwM
  | .user => k.rwM ||| k.rwK

/-- The fields that this level may not change differ (R10). -/
def Card.violates (k : Card) (l : Level) (old w : Word) : Bool := ((old ^^^ w) &&& k.guarded l) != 0

/-- The register after a write that is allowed (R8): RW fields take the written bits, W1C bits clear where 1 is written. -/
def Card.merge (k : Card) (old w : Word) : Word :=
  let m := k.rw ||| k.rwK ||| k.rwM
  ((old &&& ~~~ m) ||| (w &&& m)) &&& ~~~ (w &&& k.w1c)

/-- The error bits a block assigns (R22 and the block chapters). -/
def berrBits : Blk → Word
  | .cab => 0 | .cnv => 0x7F | .pwm => 0xF | .fbk => 7 | .drw => 0x1FFFF | .tmr => 0xFF | .icu => 3 | .par => 1 | .prf => 1
  | .ord => 0xF | .dec => 7

/-- The causes of a block's event source (R304 and the block chapters). -/
def irqBits : Blk → Word
  | .cab => 0 | .cnv => 0xF | .pwm => 7 | .fbk => 0x1F | .drw => 0xFFFF | .tmr => 7 | .icu => 0 | .par => 7 | .prf => 7
  | .ord => 1 | .dec => 0

/-- The offsets every block shares: IRQ, IRQEN, BERR and BESC. -/
def isCommon (b : Blk) (off : Nat) : Bool :=
  b != .cab && (off == 0xFF0 || off == 0xFF4 || ((off == 0x1C0 || off == 0x1C4) && irqBits b != 0))

/-- Cards of IRQ, IRQEN, BERR and BESC. -/
def commonCard (b : Blk) (off : Nat) : Card :=
  if off = 0xFF0 then cardC (berrBits b)
  else if off = 0xFF4 then cardM (berrBits b)
  else if off = 0x1C0 then cardC (irqBits b)
  else cardK (irqBits b)

/-- The value of IRQ, IRQEN, BERR or BESC. -/
def commonGet (b : Blk) (off : Nat) (c : Cabinet) : Word :=
  if off = 0xFF0 then (c.blk b).berr
  else if off = 0xFF4 then (c.blk b).besc
  else if off = 0x1C0 then (c.blk b).irq
  else (c.blk b).irqen

/-- Sets IRQ, IRQEN, BERR or BESC. -/
def commonSet (b : Blk) (off : Nat) (v : Word) (c : Cabinet) : Cabinet :=
  c.setBlk b (
    if off = 0xFF0 then { c.blk b with berr := v }
    else if off = 0xFF4 then { c.blk b with besc := v }
    else if off = 0x1C0 then { c.blk b with irq := v }
    else { c.blk b with irqen := v })

end Sys2Proof.Machine
end

