-- ==== Sys2Proof/Machine/PerfRegs.lean ====
section
/-!
DEFINITION. The PRF_ registers (spec/14_performance_counters.md R453, R460, R465, R469), without BERR and BESC.
-/
namespace Sys2Proof.Machine

/-- The index (offset − base) / stride of an offset within `n` registers of a stride, when it is one. -/
def regIdx (off base stride n : Nat) : Option (Fin n) :=
  if base ≤ off ∧ (off - base) % stride = 0 then
    if h : (off - base) / stride < n then some ⟨(off - base) / stride, h⟩ else none
  else none

/-- Cards of the PRF_ registers. -/
def prfCard (off : Nat) : Card :=
  if off = 0x000 then cardK 3
  else if off = 0x004 ∨ off = 0x008 then cardC 0xFFFFFFFF
  else if (regIdx off 0x010 16 4).isSome then cardK 0x000FFFFF
  else if (regIdx off 0x014 16 4).isSome ∨ (regIdx off 0x018 16 4).isSome then cardK 0xFFFFFFFF
  else if off = 0x080 then cardK 0x01FFFFFF
  else if off = 0x084 then cardK 0x0001FFFC
  else if off = 0x088 then cardK 0xFFFF
  else if off = 0x08C ∨ off = 0x090 then cardK 0xFFFFFFFF
  else if off = 0x0C0 then cardK 0x001FFFFF
  else if off = 0x0C4 then { wo := 0x2000 }
  else if (regIdx off 0x200 8 64).isSome then cardK 0xFFFFFFFF
  else if (regIdx off 0x204 8 64).isSome then cardK 0xFFFF
  else if (regIdx off 0x400 4 64).isSome then cardK 7
  else {}

/-- The current value of a PRF_ register, a read's side effects left aside. -/
def prfGet (off : Nat) (c : Cabinet) : Word :=
  let p := c.prf
  match regIdx off 0x010 16 4 with
  | some k => p.flt[k]
  | none =>
  match regIdx off 0x014 16 4 with
  | some k => p.fltLo[k]
  | none =>
  match regIdx off 0x018 16 4 with
  | some k => p.fltHi[k]
  | none =>
  match regIdx off 0x200 8 64 with
  | some n => (p.cnt[n]).setWidth 32
  | none =>
  match regIdx off 0x204 8 64 with
  | some n => (p.readHi[n]).setWidth 32
  | none =>
  match regIdx off 0x400 4 64 with
  | some n => natAt p.sel[n] 0
  | none =>
  match regIdx off 0x800 4 256 with
  | some n => p.buf[n]
  | none =>
    if off = 0x000 then p.ctrl
    else if off = 0x004 then p.ovfl
    else if off = 0x008 then p.ovfh
    else if off = 0x080 then p.dumpcfg
    else if off = 0x084 then p.dumpbase
    else if off = 0x088 then natAt p.dumplen 0
    else if off = 0x08C then p.maskL
    else if off = 0x090 then p.maskH
    else if off = 0x094 then natAt p.dumpseq 0 ||| boolAt p.dump.isSome 16 ||| natAt p.dumpmiss 24
    else if off = 0x098 then p.dumpptr &&& 0x1FFFC
    else if off = 0x0C0 then p.smpcfg
    else if off = 0x0C4 then natAt p.widx 0 ||| natAt p.smpcnt 6
    else 0

/-- A read's side effects: PRF_CNTnL latches the high bits (R453). -/
def prfReadEffect (off : Nat) (c : Cabinet) : Cabinet :=
  match regIdx off 0x200 8 64 with
  | some n => { c with prf := { c.prf with readHi := c.prf.readHi.set n ((c.prf.cnt[n] >>> 32).setWidth 16) } }
  | none => c

/-- FSEL values 0b101 to 0b111 are stored as 0b000. -/
def fselStored (v : Nat) : Nat := if v ≤ 4 then v else 0

/-- Holds the low half of a counter (R453). -/
def prfHoldLow (n : Fin 64) (w : Word) (c : Cabinet) : Cabinet :=
  { c with prf := { c.prf with heldLo := c.prf.heldLo.set n w } }

/-- Sets a counter from the written high and the held low half (R453). -/
def prfSetCount (n : Fin 64) (w : Word) (c : Cabinet) : Cabinet :=
  { c with prf := { c.prf with cnt := c.prf.cnt.set n (BitVec.ofNat 48 ((w.toNat % 2 ^ 16) * 2 ^ 32 + c.prf.heldLo[n].toNat)) } }

/-- A write of PRF_DUMPBASE or PRF_DUMPLEN resets the dump pointer (R460). -/
def prfMoveArea (base : Word) (len : Nat) (c : Cabinet) : Cabinet :=
  { c with prf := { c.prf with dumpbase := base, dumplen := max len 4, dumpptr := base, dumpMoved := c.prf.dump.isSome } }

/-- PRF_SMPSTAT.CLR (R465). -/
def prfSampleClear (c : Cabinet) : Cabinet :=
  { c with prf := { c.prf with widx := 0, smpcnt := 0, smpN := 0 } }

/-- The effect of a write of a PRF_ register: `v` is the merged value, `w` the word written. -/
def prfSet (off : Nat) (v w : Word) (c : Cabinet) : Cabinet :=
  match regIdx off 0x010 16 4 with
  | some k => { c with prf := { c.prf with flt := c.prf.flt.set k v } }
  | none =>
  match regIdx off 0x014 16 4 with
  | some k => { c with prf := { c.prf with fltLo := c.prf.fltLo.set k v } }
  | none =>
  match regIdx off 0x018 16 4 with
  | some k => { c with prf := { c.prf with fltHi := c.prf.fltHi.set k v } }
  | none =>
  match regIdx off 0x200 8 64 with
  | some n => prfHoldLow n w c
  | none =>
  match regIdx off 0x204 8 64 with
  | some n => prfSetCount n w c
  | none =>
  match regIdx off 0x400 4 64 with
  | some n => { c with prf := { c.prf with sel := c.prf.sel.set n (fselStored (fld v 0 3)) } }
  | none =>
    if off = 0x000 then { c with prf := { c.prf with ctrl := v } }
    else if off = 0x004 then { c with prf := { c.prf with ovfl := v } }
    else if off = 0x008 then { c with prf := { c.prf with ovfh := v } }
    else if off = 0x080 then { c with prf := { c.prf with dumpcfg := v } }
    else if off = 0x084 then prfMoveArea v c.prf.dumplen c
    else if off = 0x088 then prfMoveArea c.prf.dumpbase (fld v 0 16) c
    else if off = 0x08C then { c with prf := { c.prf with maskL := v } }
    else if off = 0x090 then { c with prf := { c.prf with maskH := v } }
    else if off = 0x0C0 then
      { c with prf := { c.prf with smpcfg := setFld v 16 3 (fselStored (fld v 16 3)) } }
    else if off = 0x0C4 then (if bit w 13 then prfSampleClear c else c)
    else c

/-- A write of a PRF_ register with Machine authority (16 R544, PERF_CONFIG). -/
def prfWrite (off : Nat) (w : Word) (c : Cabinet) : Cabinet :=
  if isCommon .prf off then commonSet .prf off ((commonCard .prf off).merge (commonGet .prf off c) w) c
  else prfSet off ((prfCard off).merge (prfGet off c) w) w c

end Sys2Proof.Machine
end

