-- ==== Sys2Proof/Machine/Ops.lean ====
section
/-!
DEFINITION. The shared operations of a cabinet: the output pairs and the force stage (spec/09 R311..R330), the trip latch and
the cabinet safe state (spec/01 R29, R32, R33, R35), changes of CAB_STATE, the stop of the frame (spec/02 R48, R655), the
loop-store bank swap (R81..R85), block errors and escalation (spec/01 R21..R24).
-/
namespace Sys2Proof.Machine

/-! ## Output pairs (09) -/

/-- The reference r_p (R311, R320). -/
def Pair.ref (p : Pair) : Bool := if p.cut then false else if p.boost then true else p.below

/-- The outputs are forced (R322). -/
def Cabinet.forced (c : Cabinet) : Bool := c.latch || c.pwm.enN || !c.pwm.rel

/-- The safe state PWM_SAFE gives output `i`: 0 inactive, 1 active, 2 high impedance. -/
def safeState (c : Cabinet) (i : Nat) : Nat := fld c.pwm.safe (2 * i) 2

/-- NOILp: the pair is exempt from the interlock in both mode (R313). -/
def noIl (c : Cabinet) (p : Nat) : Bool := bit c.pwm.safe (28 + p)

/-- PWM_PAIRpCFG.MODE. -/
def Pair.mode (p : Pair) : Nat := fld p.cfg 0 2

/-- A value clamped to a range. -/
def clampN (lo hi v : Nat) : Nat := max lo (min hi v)

/-- PWM_DTpLIM.MIN and MAX. -/
def Pair.dtMin (p : Pair) : Nat := fld p.dtlim 0 14
def Pair.dtMax (p : Pair) : Nat := fld p.dtlim 16 14

/-- The dead time in force before A or B turns on (R313, R316). -/
def Pair.deadTime (p : Pair) (sideB : Bool) : Nat :=
  if p.mode ≠ 0 then 0
  else if bit p.dtfix 31 then clampN p.dtMin p.dtMax (fld p.dtfix (if sideB then 16 else 0) 14)
  else if sideB then p.eb else p.ea

/-- What MODE and the reference of pair `p` ask for (R313, R315). -/
def modeAsks (c : Cabinet) (p : Fin 4) : Bool × Bool :=
  let q := c.pwm.pair[p]
  match q.mode with
  | 1 => (q.ref, false)
  | 2 => (q.ref, q.ref && noIl c p.val)
  | _ => (q.ref, !q.ref)

/-- The outputs of pair `p` that the safe pattern forces to be active (R322). -/
def safeAsks (c : Cabinet) (p : Fin 4) : Bool × Bool :=
  (c.forced && safeState c (2 * p.val) == 1, c.forced && safeState c (2 * p.val + 1) == 1)

/-- Replaces pair `p`. -/
def setPair (c : Cabinet) (p : Fin 4) (q : Pair) : Cabinet := { c with pwm := { c.pwm with pair := c.pwm.pair.set p q } }

/-- A switching edge of pair `p` starts blanking (08 R297): pulse-end blanking of the comparators that name the pair, trip
blanking of every comparator. -/
def switchingEdge (p : Fin 4) (c : Cabinet) : Cabinet :=
  let pulse := (List.finRange 8).foldl (fun (w : Word) n =>
    if fld c.cmpr.pe[n] 4 2 = p.val ∧ fld c.cmpr.pe[n] 8 8 ≠ 0 then w ||| bitW n.val else w) c.cmpr.blankPulse
  let trip := (List.finRange 8).foldl (fun (w : Word) n =>
    if fld c.cmpr.cfg[n] 27 5 ≠ 0 then w ||| bitW n.val else w) c.cmpr.blankTrip
  { c with cmpr := { c.cmpr with blankPulse := pulse, blankTrip := trip } }

/-- Whether both outputs of the pair may be active together (R314). -/
def bothExempt (c : Cabinet) (p : Fin 4) : Bool := noIl c p.val && (c.pwm.pair[p]).mode == 2

/-- An output takes over what it asks for and what the safe pattern gives it; a new request takes the dead time `dt` (R316, R328).
It stays active only while it is forced so, or has met R314 unforced; `keep`: its partner does not contradict it. -/
def Output.take (o : Output) (dt : Nat) (forced asks safe keep : Bool) : Output :=
  let ripe := o.ripe && asks && keep
  { asks := asks, wait := if asks && !o.asks then dt else o.wait, ripe := ripe
    safe := safe, safeWait := if safe && !o.safe then dt else o.safeWait
    active := o.active && keep && (if forced then safe else ripe) }

/-- An output turns on where no dead time is due; `free`: its partner is inactive, or the pair is exempt (R314). -/
def Output.settle (o : Output) (forced free : Bool) : Output :=
  let ripe := o.asks && free && (o.ripe || o.wait == 0)
  { o with ripe := ripe, active := o.active || (free && (if forced then o.safe && o.safeWait == 0 else ripe)) }

/-- Brings pair `p`'s outputs to what they ask for (R314): turn-offs at once, turn-ons at once when no dead time is due; a turn-on with
dead time waits for DEAD_TIME_ELAPSED. Requests count on while the outputs are forced; of two that the safe pattern forces active without
exemption, A comes first (log 96). A commanded change is a switching edge (R658). -/
def pairSettle (p : Fin 4) (c : Cabinet) : Cabinet :=
  let q := c.pwm.pair[p]
  let exempt := bothExempt c p
  let keep := exempt || !(q.a.active && q.b.active)
  let m := modeAsks c p
  let s := safeAsks c p
  let a := q.a.take (q.deadTime false) c.forced m.1 s.1 keep
  let b := q.b.take (q.deadTime true) c.forced m.2 s.2 keep
  let a := a.settle c.forced (exempt || !b.active)
  let b := b.settle c.forced (exempt || !a.active)
  let a := { a with ripe := a.ripe && (exempt || !b.active) }
  let c' := setPair c p { q with a := a, b := b }
  if !c.forced && (a.active != q.a.active || b.active != q.b.active) then switchingEdge p c' else c'

/-- Brings all four pairs to what they ask for (R322, R333). -/
def settlePairs (c : Cabinet) : Cabinet := (List.finRange 4).foldl (fun c p => pairSettle p c) c

/-! ## CAB_STATE, frame stop, bank swap -/

/-- Cabinet answers use the status codes of 16 R519. -/
abbrev stOK : Nat := 0x00
abbrev stAccepted : Nat := 0x01
abbrev stDuplicate : Nat := 0x02
abbrev stGap : Nat := 0x03
abbrev stAuthFail : Nat := 0x04
abbrev stMismatch : Nat := 0x05
abbrev stNoRoom : Nat := 0x06
abbrev stHeld : Nat := 0x07
abbrev stIndet : Nat := 0x08
abbrev stDenied : Nat := 0x09
abbrev stBadOpcode : Nat := 0x0A
abbrev stBadLength : Nat := 0x0B
abbrev stDeferred : Nat := 0x0C
abbrev stTwoParty : Nat := 0x0D
abbrev stExpired : Nat := 0x0E

/-- Clears REL and forces the outputs (09 R323). -/
def clearRel (c : Cabinet) : Cabinet :=
  if c.pwm.rel then settlePairs { c with pwm := { c.pwm with rel := false } } else c

/-- The bank that REQ selects is marked valid. -/
def reqValid (b : BankSel) : Bool := if b.req then b.validB else b.validA

/-- The swap itself (02 R81, R84, R85): ACTIVE changes, FIRST sets, the fetch buffer empties (R180), waiting CAB_BANK_SWAP
commands are answered (R87). -/
def doSwap (c : Cabinet) : Cabinet :=
  let bank := { c.bank with active := c.bank.req, swapAtRunEnd := false, atBoundary := false }
  let data := [BitVec.ofNat 8 (bankselWord bank).toNat]
  let c := { c with
    bank := bank,
    frame := { c.frame with stat := c.frame.stat ||| 0x200 },
    pipe := { c.pipe with fetchBuf := [] } }
  let c := c.swapTickets.foldl (fun c t => c.answer (some t) stOK data) c
  { c with swapTickets := [] }

/-- The conditions of R81 other than the frame boundary and the absence of a run. -/
def swapReady (c : Cabinet) : Bool := c.bank.req != c.bank.active && reqValid c.bank && !c.bank.staging

/-- A swap outside a running frame takes place as soon as its conditions hold (R83), in a TEST entered from PARKED too. -/
def trySwap (c : Cabinet) : Cabinet :=
  if !c.frame.running && c.mode != .parked && (c.clocksRun || c.mode == .test) && !c.bank.atBoundary && swapReady c &&
    !c.frame.inRun then doSwap c else c

/-- Sets the sample window and clamps the tracker's estimates into it (08 R286). -/
def setWindow (w : Word) (c : Cabinet) : Cabinet :=
  let lo := fld w 0 10
  let hi := fld w 16 10
  { c with cnv := { c.cnv with
      win := w, winNext := none, e0 := clampN lo hi c.cnv.e0,
      e1 := if c.frame.dual then clampN lo hi c.cnv.e1 else c.cnv.e1 } }

/-- The number of a side: H sides are 0 to 7, L sides 8 to 15. -/
def sideBit (n : Fin 8) (low : Bool) : Nat := n.val + (if low then 8 else 0)

/-- The DAC code of a side (08 R295): the protected threshold while its trip enable is 1. -/
def codeOf (n : Fin 8) (low : Bool) (k : Cmpr) : Nat :=
  if low then (if bit k.cfg[n] 23 then fld k.cfg[n] 0 10 else fld k.thr[n] 0 10)
  else (if bit k.cfg[n] 24 then fld k.cfg[n] 10 10 else fld k.thr[n] 16 10)

/-- The code of a side as it is set. -/
def sideCode (n : Fin 8) (low : Bool) (c : Cabinet) : Nat := codeOf n low c.cmpr

/-- The level of a DAC code (08 R293), in units of 125 nV: a step is 1.953125 mV. -/
def dacLevel (code : Nat) : Int := ((code : Int) - 512) * 15625

/-- The levels that a write has changed start to move (08 R295). `old`: the comparators before it. -/
def moveLevels (old : Cmpr) (c : Cabinet) : Cabinet :=
  { c with cmpr := { c.cmpr with move := Vector.ofFn (fun (i : Fin 16) =>
      let n : Fin 8 := Fin.ofNat 8 (i.val % 8)
      let low := decide (8 ≤ i.val)
      if codeOf n low old = codeOf n low c.cmpr then c.cmpr.move[i]
      else some { from' := (old.move[i].map (·.from')).getD (dacLevel (codeOf n low old)), left := 16 }) } }

/-- Writes a protected register: CAB_LOOPCFG, CNV_CMPnCFG, PWM_SAFE or core register DCTL (address 0x0005_0007 stands for
c7) takes its committed value (02 card; 08 R302; 09 R333; 03 card c7). A PARKED cabinet's outputs follow at wake (18 R581). -/
def protWrite (addr : Nat) (w : Word) (c : Cabinet) : Cabinet :=
  if addr = 0x00040014 then
    { c with frame := { c.frame with deadline := fld w 0 10, fallback := bit w 12, ovtrip := bit w 13 } }
  else if addr = 0x00042100 then
    let c := { c with pwm := { c.pwm with safe := w &&& 0xF1FFFFFF } }
    if c.mode == .parked then c else settlePairs c
  else match regIdx addr 0x00041100 16 8 with
    | some n => moveLevels c.cmpr { c with cmpr := { c.cmpr with cfg := c.cmpr.cfg.set n w } }
    | none => if addr = 0x00050007 then { c with wen := bit w 0 } else c

/-- A waiting write of PWM_PAIRpCFG takes effect (09 PWM_PAIRpCFG). -/
def applyPairCfg (p : Fin 4) (c : Cabinet) : Cabinet :=
  match c.pwm.pair[p].cfgNext with
  | none => c
  | some w => pairSettle p (setPair c p { c.pwm.pair[p] with cfg := w, cfgNext := none })

/-- The register writes that wait for a frame boundary take effect (02 R655; 08 R261, R281, R286; 09 PWM_PAIRpCFG). -/
def applyWaitingRegs (c : Cabinet) : Cabinet :=
  let c := match c.cnv.selNext with
    | none => c
    | some w => { c with cnv := { c.cnv with sel := w, selNext := none } }
  let c := match c.cnv.rotcfgNext with
    | none => c
    | some w => { c with cnv := { c.cnv with rotcfg := w, rotcfgNext := none } }
  let c := match c.cnv.winNext with
    | none => c
    | some w => setWindow w c
  (List.finRange 4).foldl (fun c p => applyPairCfg p c) c

/-- Confirmed protected writes that wait take effect (event 2 of R77; R655). -/
def applyProtected (c : Cabinet) : Cabinet :=
  let c' := c.protWait.foldl (fun c w => protWrite w.1 w.2 c) c
  { c' with protWait := [] }

/-- PERF_CONFIG writes that wait take effect and are answered (16 R544). -/
def applyPerf (c : Cabinet) : Cabinet :=
  let c' := c.perfWait.foldl (fun c x => (x.2.foldl (fun c w => prfWrite w.1 w.2 c) c).answer (some x.1) stOK) c
  { c' with perfWait := [] }

/-- The frame stops (02 R48): the carrier reads 0 (09 R306), waiting settings take effect (R655), WAITF's hold ends (R65),
matching stops (08 R282), issue that waited for a run that does not come resumes. A run in progress goes on to its end, and a commit on its
way reaches the registers (as 09 R330 says of a trip): what another frame stop does to them the spec does not say (DESIGN CHOICE,
log 92). -/
def frameStop (c : Cabinet) : Cabinet :=
  if !c.frame.running then c
  else
    let c := { c with
      frame := { c.frame with running := false, pos := 0, hbCount := 0, sampling := false, due := none,
                              guarding := c.frame.guarding && c.frame.inRun },
      cnv := { c.cnv with ahead := none, decided := false },
      pipe := { c.pipe with
        hold := if c.pipe.hold == .waitf then .none else c.pipe.hold,
        entryFirst := c.pipe.entryFirst || c.pipe.hold == .waitf,
        issueStop := c.pipe.issueStop && c.frame.inRun } }
    let c := if c.cnv.spst == .matching || c.cnv.spst == .ready then
        { c with cnv := { c.cnv with spst := .waiting, matchN := 0, matchSum := 0 } }
      else c
    trySwap (applyPerf (applyProtected (applyWaitingRegs c)))

/-- The frame may run in this state (02 R48), given that it was running. -/
def frameKeeps (c : Cabinet) (m : CabMode) : Bool :=
  m == .armed || m == .running || (m == .tripped && !c.corestop)

/-- CAB_STATE changes (01 R32): PREV, the release of the outputs (09 R323), injection off at ARMED (13 R444), and the frame's
stop. Without the heartbeat. -/
def setMode (m : CabMode) (c : Cabinet) : Cabinet :=
  let c := { c with prev := c.mode, mode := m }
  let c := if m == .running then c else clearRel c
  let c := if m == .armed then { c with par := { c.par with inj := false } } else c
  if frameKeeps c m then c else frameStop c

/-- The self-test starts (01 R32). Its calibration comes after its checks (08 R285, log 93). -/
def beginTest (parked : Bool) (c : Cabinet) : Cabinet := { setMode .test c with testParked := parked }

/-- A deferred self-test starts at entry to LOADED or PARKED (01 R32). -/
def startDeferredTest (c : Cabinet) : Cabinet :=
  if c.deftest && (c.mode == .loaded || c.mode == .parked) then
    let parked := c.mode == .parked
    beginTest parked { c with deftest := false }
  else c

/-- CAB_STATE changes outside a frame boundary: a heartbeat follows in the next cycle (01 R30). -/
def enterMode (m : CabMode) (c : Cabinet) : Cabinet := (startDeferredTest (setMode m c)).note .heartbeat

/-! ## The trip latch (09 R326..R332; 01 R29, R32, R33, R35) -/

/-- Drawer `n` stops and its pins take their safe levels (11 R388). -/
def tripStopDrawer (n : Fin 4) (c : Cabinet) : Cabinet :=
  let d := c.drw.dr[n]
  if bit d.cfg 29 then
    let d' := { d with run := false, safed := true, pinsSafe := true, stall := none, stallFlagged := false }
    let c' := { c with drw := { c.drw with dr := c.drw.dr.set n d' } }
    if d.run then c'.orIrq .drw (bitW (4 + n.val)) else c'
  else c

/-- A TEST entered from PARKED ends: clocks and comparators stop again, the shelf is untouched (19 R616; 08 R296). -/
def backToPark (c : Cabinet) : Cabinet :=
  setMode .parked { c with testParked := false, cmpr := { c.cmpr with stat := 0 } }

/-- The state change a trip makes (R32): pending transitions and a waiting CAB_ARM are discarded (R35), a test in progress is
abandoned and answered (16 R521). -/
def tripState (c : Cabinet) : Cabinet :=
  let c := c.pend.foldl (fun c p => c.answer p.ticket stMismatch) c
  let c := { c with pend := [], armWait := false }
  match c.mode with
  | .loaded => enterMode .tripped c
  | .armed => enterMode .tripped c
  | .running => enterMode .tripped c
  | .test =>
    let t := c.testTicket
    let parked := c.testParked
    let c := { c with testTicket := none }
    let c := if parked then backToPark c else (setMode .tripped c).note .heartbeat
    c.answer t stOK [2]
  | _ => c

/-- A trip source acts (R326, R329): its bit in PWM_TRIPSRC sets, and the latch when it is clear, with FIRST, the TRIP cause,
the safe pattern, the drawers' trip stop and the state change. A source that finds the latch set still ends a test (01 R32). -/
def tripBy (src : Nat) (c : Cabinet) : Cabinet :=
  let c := { c with pwm := { c.pwm with tripsrc := c.pwm.tripsrc ||| bitW src } }
  if c.latch then (if c.mode == .test then tripState c else c)
  else
    let c := { c with latch := true, pwm := { c.pwm with first := src } }
    let c := (bump 0x2B 1 {} c).orIrq .pwm 2
    let c := settlePairs c
    let c := (List.finRange 4).foldl (fun c n => tripStopDrawer n c) c
    (tripState c).note (.health 0x20)

/-! ## Block errors (01 R21..R24) -/

/-- An error of block `b` reaches the cabinet: its CAB_ERR bit sets and the trip latch is set by source ESC (R22, R29). -/
def escalate (b : Blk) (c : Cabinet) : Cabinet := tripBy 7 { c with err := c.err ||| bitW b.idx.val }

/-- Sets error bits of a block without its ICU pulse. -/
def setErr (b : Blk) (bits : Word) (c : Cabinet) : Cabinet :=
  let e := c.blk b
  let c := c.setBlk b { e with berr := e.berr ||| bits }
  if (bits &&& e.besc) != 0 then escalate b c else c

/-- One pulse on an ICU source (12 R412). A saturated repeat count sets ICU_BERR.RSAT, whose own error source then pulses;
a saturation of source 40 itself raises no further pulse. -/
def pulse (n : Nat) (c : Cabinet) : Cabinet :=
  let p := latchEdge n c
  if p.2 then
    let c := setErr .icu 1 p.1
    if n = 40 then c
    else
      let q := latchEdge 40 c
      if q.2 then setErr .icu 1 q.1 else q.1
  else p.1

/-- An error of block `b` occurs (R21..R23): its bits in BERR set, its ICU error source pulses, and it escalates where BESC
selects it. -/
def raiseErr (b : Blk) (bits : Word) (c : Cabinet) : Cabinet := pulse (errSrc b) (setErr b bits c)

/-- The event sources' levels at the end of a step: a rising one is latched (12 R412, 08 R304). -/
def icuSyncOne (b : Blk) (c : Cabinet) : Cabinet :=
  match evSrc b with
  | none => c
  | some n =>
    if h : n < 128 then
      let i : Fin 128 := ⟨n, h⟩
      let l := evLevel c b
      let s := c.icu.src[i]
      if l == s.level then c
      else
        let c := { c with icu := { c.icu with src := c.icu.src.set i { s with level := l } } }
        if l then pulse n c else c
    else c

/-- The event sources of all blocks. -/
def icuSync (c : Cabinet) : Cabinet :=
  if !c.clocksRun then c
  else [Blk.cnv, .pwm, .fbk, .drw, .tmr, .par, .prf, .ord].foldl (fun c b => icuSyncOne b c) c

/-! ## References and pulse ends (09) -/

/-- Pair `p` takes a new reference state: a rise in both mode without exemption records SHOOT (R315), and the outputs follow. -/
def pairChange (p : Fin 4) (q : Pair) (c : Cabinet) : Cabinet :=
  let rise := q.ref && !(c.pwm.pair[p]).ref
  let c := setPair c p q
  let c := if rise && q.mode == 2 && !noIl c p.val then raiseErr .pwm (bitW p.val) c else c
  pairSettle p c

/-- The span S of the carrier (R307). -/
def carrierSpan (c : Cabinet) : Nat := if c.pwm.triangle then c.frame.flen / 2 else c.frame.flen

/-- x < K_p at a position x of the carrier; a compare of 20S is above every position, one of 0 above none (R311). -/
def belowAt (c : Cabinet) (x k : Nat) : Bool := decide (x < k) || (k != 0 && k == 20 * carrierSpan c)

/-- The comparison x < K_p takes a new value (R311, R320): by a latch it clears either flag and may set LATE; by the carrier
it clears cut when it rises and boost when it falls. -/
def evalPair (p : Fin 4) (below byLatch : Bool) (c : Cabinet) : Cabinet :=
  let q := c.pwm.pair[p]
  if below == q.below then c
  else
    let q' := { q with
      below := below,
      cut := q.cut && !(byLatch || below),
      boost := q.boost && !(byLatch || !below) }
    let c := if byLatch && q'.ref != q.ref then
        bump 0x2C 1 {} (({ c with pwm := { c.pwm with late := c.pwm.late ||| bitW p.val } }).orIrq .pwm 1)
      else c
    pairChange p q' c

/-- A pulse-end event for pair `p` (R320): peak sets cut, valley sets boost; each clears the other flag. -/
def pulseEnd (p : Fin 4) (peak : Bool) (c : Cabinet) : Cabinet :=
  pairChange p { c.pwm.pair[p] with cut := peak, boost := !peak } (bump 0x2A 1 {} c)

end Sys2Proof.Machine
end

