-- ==== Sys2Proof/Machine/Converters.lean ====
section
/-!
DEFINITION. Converters, the sequencer, calibration and rotation, the sample-placement tracker and the window comparators
(spec/08_converters_and_comparators.md), as operations of one cabinet.
-/
namespace Sys2Proof.Machine

/-! ## Registers -/

/-- Cards of the CNV_ registers (R305). -/
def cnvCard (off : Nat) : Card :=
  if off = 0x000 then cardK 0x7777
  else if off = 0x004 then cardK 0x03FF03FF
  else if off = 0x008 then { rwK := 0x07FF3FF7, w1c := 0xC000 }
  else if off = 0x020 then cardK 0x013FFFFF
  else if off = 0x02C then { wo := 4 }
  else if (regIdx off 0x040 4 8).isSome then cardK 0x03FFF737
  else if off = 0x080 then cardC 0xFF
  else if off = 0x084 then { wo := 0xFF }
  else if (regIdx off 0x100 16 8).isSome then cardP 0xFFFFFFFF
  else if (regIdx off 0x104 16 8).isSome then cardK 0xFF33
  else if (regIdx off 0x108 16 8).isSome then cardK 0x03FF03FF
  else if off = 0x184 ∨ off = 0x188 then cardC 0xFFFF
  else {}

/-- CNV_ROT.SPST code. -/
def SpareState.code : SpareState → Nat
  | .waiting => 0 | .calibrating => 1 | .matching => 2 | .ready => 3

/-- CNV_SEQSTAT.PEND: entries waiting or converting. -/
def seqPendBits (c : Cabinet) : Nat :=
  (List.finRange 8).foldl (fun n i => if c.cnv.seqPhase[i] == .idle then n else n + 2 ^ i.val) 0

/-- The current value of a CNV_ register. A register whose effect waits for a boundary reads as written (log 20). -/
def cnvGet (off : Nat) (c : Cabinet) : Word :=
  let n := c.cnv
  match regIdx off 0x040 4 8 with
  | some i => n.seq[i]
  | none =>
  match regIdx off 0x060 4 8 with
  | some i => n.res[i]
  | none =>
  match regIdx off 0x100 16 8 with
  | some i => c.cmpr.cfg[i]
  | none =>
  match regIdx off 0x104 16 8 with
  | some i => c.cmpr.pe[i]
  | none =>
  match regIdx off 0x108 16 8 with
  | some i => c.cmpr.thr[i]
  | none =>
    if off = 0x000 then n.selNext.getD n.sel
    else if off = 0x004 then n.winNext.getD n.win
    else if off = 0x008 then n.trk
    else if off = 0x00C then natAt n.e0 0 ||| natAt n.e1 16
    else if off = 0x020 then n.rotcfgNext.getD n.rotcfg
    else if off = 0x024 then
      natAt n.pos[0] 0 ||| natAt n.pos[1] 4 ||| natAt n.pos[2] 8 ||| natAt n.pos[3] 12 ||| natAt n.spare 16 |||
      natAt n.nextPos 20 ||| natAt n.spst.code 24
    else if off = 0x028 then natAt n.rotCount 0 ||| natAt n.rotSkip 16
    else if off = 0x02C then boolAt n.calDone 0 ||| boolAt n.calFail 1 ||| natAt (BitVec.ofInt 8 n.mdiff).toNat 8
    else if off = 0x030 then n.testres
    else if off = 0x080 then natAt n.seqMiss 0 ||| natAt (seqPendBits c) 8
    else if off = 0x180 then c.cmpr.stat
    else if off = 0x184 then c.cmpr.flag
    else if off = 0x188 then c.cmpr.trip
    else 0

/-- A read of CNV_RESn clears VALID and OVW (R269). -/
def cnvReadEffect (off : Nat) (c : Cabinet) : Cabinet :=
  match regIdx off 0x060 4 8 with
  | some i => { c with cnv := { c.cnv with res := c.cnv.res.set i (c.cnv.res[i] &&& 0xFFFFFFFC) } }
  | none => c

/-! ## Voltages and codes (R256, R257) -/

/-- The units of Vd in a volt: a unit is 125 nV. -/
def voltUnits : Int := 8000000

/-- round(Vd × 8,192 / 1 V); ties are rounded towards plus infinity, as 03 R113 has it. -/
def idealCode (vd : Int) : Int := (vd * 8192 * 2 + voltUnits) / (2 * voltUnits)

/-- A code limited to the range of a converter. -/
def limitCode (x : Int) : BitVec 14 := BitVec.ofInt 14 (max (-8192) (min 8191 x))

/-- A number limited to ±`n`. -/
def within (n : Nat) (x : Int) : Int := max (-(n : Int)) (min n x)

/-- What a converter's trims leave of its errors at a code: after a calibration within the bounds of 20 R635 (log 94). -/
def convError (c : Cabinet) (conv : Fin 5) (code : Int) : Int :=
  match c.cnv.trim[conv].cal with
  | none => Config.rawError c.id.val conv.val code
  | some n =>
    within 2 (Config.offsetError c.id.val conv.val n) + code * within 5 (Config.gainError c.id.val conv.val n) / 10000 +
    within 2 (Config.linearityError c.id.val conv.val n code)

/-- The code that a physical converter delivers for Vd, its trims applied (R257, R270, R275). -/
def convert (c : Cabinet) (conv : Nat) (vd : Int) : BitVec 14 :=
  let i : Fin 5 := Fin.ofNat 5 conv
  limitCode (idealCode vd + convError c i (idealCode vd) + c.cnv.trim[i].adj)

/-- A code out of range (R257). -/
def codeOor (x : BitVec 14) : Bool := x == 0x2000 || x == 0x1FFF

/-- The input that CNV_SEL in force gives to a position (R261). -/
def inputOf (p : Nat) (c : Cabinet) : Fin 8 := Fin.ofNat 8 (fld c.cnv.sel (4 * p) 3)

/-- The converters hold their inputs at a sample instant (R260, R275): the four positions, and the spare beside position NEXT. -/
def holdSet (vd : Vector Int 8) (c : Cabinet) : Cabinet :=
  let c := { c with cnv := { c.cnv with vd := vd } }
  { c with cnv := { c.cnv with
    held := Vector.ofFn (fun (p : Fin 4) => convert c c.cnv.pos[p] vd[inputOf p.val c])
    heldSpare :=
      if c.cnv.spst == .matching || c.cnv.spst == .ready then some (convert c c.cnv.spare vd[inputOf c.cnv.nextPos c]) else none } }

/-! ## Tracker -/

/-- CNV_SMP_WIN.LO and HI in force. -/
def winLo (c : Cabinet) : Nat := fld c.cnv.win 0 10
def winHi (c : Cabinet) : Nat := fld c.cnv.win 16 10

/-- CNV_TRK.FIXEN. -/
def trkFixed (c : Cabinet) : Bool := bit c.cnv.trk 26

/-- The sample instant of a set at an update point, in cycles after it (R289); `half` is U1. -/
def sampleInstantOf (half : Bool) (c : Cabinet) : Nat :=
  clampN (winLo c) (winHi c) (if trkFixed c then fld c.cnv.trk 16 10 else if half then c.cnv.e1 else c.cnv.e0)

/-- The carrier position of the update point that comes next, and whether it is U1. -/
def nextPoint (c : Cabinet) : Nat × Bool :=
  let mid := c.frame.flen / 2
  if c.frame.dual && decide (c.frame.pos < mid) then (mid, true) else (frameLen c, false)

/-- The position at which the reserved interval of the current set begins: LO − 16 after its update point (R262). -/
def reservedFrom (half : Bool) (c : Cabinet) : Nat := (if half then c.frame.flen / 2 else 0) + winLo c - 16

/-- The position in the frame at which the reserved interval of the next update point's set begins. A window that waits for the
boundary applies to a set whose interval begins there or later (R286). -/
def nextReserved (c : Cabinet) : Nat :=
  let p := nextPoint c
  let lo := if p.2 || winLo c < 16 then winLo c else max 16 (fld (c.cnv.winNext.getD c.cnv.win) 0 10)
  p.1 + lo - 16

/-- The instant of the current set is decided once its reserved interval has begun (R289). -/
def decideNow (c : Cabinet) : Cabinet :=
  match c.frame.due with
  | some half =>
    if !c.cnv.decided && decide (reservedFrom half c ≤ c.frame.pos) then
      { c with cnv := { c.cnv with instant := sampleInstantOf half c, decided := true } }
    else c
  | none => c

/-- The instant of the next set is decided where its reserved interval has begun before its update point (R286, R289). -/
def decideAhead (c : Cabinet) : Cabinet :=
  if c.cnv.ahead.isNone && decide (winLo c < 16) && decide (nextReserved c ≤ c.frame.pos) then
    { c with cnv := { c.cnv with ahead := some (sampleInstantOf (nextPoint c).2 c) } }
  else c

/-- The sample instants whose reserved interval has begun are decided. -/
def decideInstants (c : Cabinet) : Cabinet := if c.frame.running then decideAhead (decideNow c) else c

/-- A write of CNV_TRK (R290, R291). -/
def setTrk (v : Word) (c : Cabinet) : Cabinet :=
  let c := decideInstants c
  let old := c.cnv.trk
  let fix := fld v 16 10
  let c1 := { c with cnv := { c.cnv with trk := v } }
  if bit v 26 then
    if !bit old 26 || fld old 16 10 ≠ fix then
      if fix ≠ c.cnv.e0 || (c.frame.dual && fix ≠ c.cnv.e1) then { c with cnv := { c.cnv with trk := v ||| 0x4000 } } else c1
    else c1
  else if bit old 26 then
    let e := clampN (winLo c) (winHi c) fix
    { c with cnv := { c.cnv with trk := v, e0 := e, e1 := if c.frame.dual then e else c.cnv.e1 } }
  else c1

/-- The last ringing cycle of a window, in cycles after the update point (R287): `samples` are Vd of CNV_TRK.SRC at the start of every
cycle from LO − 4 on. -/
def lastRinging (c : Cabinet) (samples : List Int) : Option Nat :=
  let lim : Int := ((fld c.cnv.trk 4 4 : Int) + 1) * 32000
  ((List.range (winHi c + 1 - winLo c)).reverse.find? (fun i =>
    match samples[i]?, samples[i + 4]? with
    | some x, some y => decide (lim < ((y - x).natAbs : Int))
    | _, _ => false)).map (fun i => winLo c + i)

/-- The tracker's new estimate after the window of a set (R288), from the last ringing cycle of the window. -/
def trackerTarget (half : Bool) (last : Option Nat) (c : Cabinet) : Cabinet :=
  let t := match last with
    | none => winLo c
    | some x => x + fld c.cnv.trk 8 6
  let sat := decide (t > winHi c)
  let t := min t (winHi c)
  let e := if half then c.cnv.e1 else c.cnv.e0
  let e' := if t > e then t else if t < e then e - 1 else e
  let c := { c with cnv := { c.cnv with e0 := if half then c.cnv.e0 else e', e1 := if half then e' else c.cnv.e1 } }
  if sat then ({ c with cnv := { c.cnv with trk := c.cnv.trk ||| 0x8000 } }).orIrq .cnv 8 else c

/-- TRACKER_UPDATE (R287, R288, R290, R292): `samples` as `lastRinging` takes them. -/
def trackerUpdate (half : Bool) (samples : List Int) (c : Cabinet) : Cabinet :=
  if !c.frame.running || trkFixed c || (half && !c.frame.dual) then c
  else
    let c := decideInstants c
    trackerTarget half (lastRinging c samples) c

/-! ## Calibration, matching, rotation -/

/-- The initial calibration of all five converters starts (R273); DONE and FAIL clear (log 21). -/
def startInitCal (c : Cabinet) : Cabinet :=
  { c with cnv := { c.cnv with initCal := true, calDone := false, calFail := false, spst := .calibrating, matchN := 0, matchSum := 0 } }

/-- The spare restarts its calibration (R284), once a sequencer conversion that it still performs is complete (R268). -/
def spareRestart (c : Cabinet) : Cabinet :=
  { c with cnv := { c.cnv with
    spst := if c.cnv.spareBusy then .waiting else .calibrating, matchN := 0, matchSum := 0 } }

/-- A calibration request by CNV_CAL.START or, in the states the table of R284 gives to the spare, by CAB_TEST. -/
def calRequest (c : Cabinet) : Cabinet :=
  match c.mode with
  | .armed => spareRestart c
  | .running => spareRestart c
  | .tripped => spareRestart c
  | .loaded => startInitCal c
  | _ => c

/-- The spare after a calibration: it matches while the frame runs and waits otherwise (R275, R282). -/
def spareAfterCal (c : Cabinet) : SpareState := if c.frame.running then .matching else .waiting

/-- The converters of `conv` take the trims of a new calibration (R270); one that failed keeps its own (R271, R272). -/
def newTrims (conv : Fin 5 → Bool) (c : Cabinet) : Cabinet :=
  let n := c.free
  { c.takeFree with cnv := { c.cnv with
    trim := Vector.ofFn (fun (i : Fin 5) => if conv i then { cal := some n } else c.cnv.trim[i]) } }

/-- The errors of calibrations that failed (R271, R272): CNV_BERR.REF and CALFAIL. -/
def calErrors (refFail calFail : BitVec 5) : Word :=
  (if refFail = 0 then 0 else 0x40) ||| (if calFail &&& ~~~ refFail = 0 then 0 else 0x10)

/-- The initial calibration of all five converters ends (R273): each that failed neither R271 (`refFail`) nor R272 (`calFail`) takes its
trims. A CAB_ARM that waits for it becomes pending for the next frame boundary (01 R32). -/
def initCalEnd (refFail calFail : BitVec 5) (c : Cabinet) : Cabinet :=
  let errs := calErrors refFail calFail
  let c := newTrims (fun i => !(refFail ||| calFail).getLsbD i.val) c
  let c := { c with cnv := { c.cnv with
    initCal := false, calDone := true, calFail := c.cnv.calFail || errs != 0, spst := spareAfterCal c, matchN := 0, matchSum := 0 } }
  let c := if c.armWait then { c with armWait := false, pend := c.pend ++ [⟨.arm, none⟩] } else c
  if errs != 0 then raiseErr .cnv errs c else c

/-- CALIBRATION_COMPLETE (R270..R274): of the initial calibration, or of the spare's. The calibration of a self-test ends with the test
(`selfTestComplete`). -/
def calibrationComplete (refFail calFail : BitVec 5) (c : Cabinet) : Cabinet :=
  if c.mode == .test then c
  else if c.cnv.initCal then initCalEnd refFail calFail c
  else if c.cnv.spst == .calibrating then
    let i := c.cnv.spare
    let one : BitVec 5 := BitVec.ofNat 5 (2 ^ i)
    let errs := calErrors (refFail &&& one) (calFail &&& one)
    let c := if errs = 0 then newTrims (fun x => x.val == i) c else c
    let c := { c with cnv := { c.cnv with spst := spareAfterCal c, matchN := 0, matchSum := 0 } }
    if errs != 0 then raiseErr .cnv errs c else c
  else c

/-- The frame starts: a calibrated spare that waits matches (R275, R282). -/
def spareStart (c : Cabinet) : Cabinet :=
  if c.cnv.spst == .waiting && c.cnv.calDone && !c.cnv.spareBusy then { c with cnv := { c.cnv with spst := .matching } } else c

/-- The spare's set beside the set of position NEXT (R275). -/
def matchSet (spare active : BitVec 14) (c : Cabinet) : Cabinet :=
  if (c.cnv.spst == .matching || c.cnv.spst == .ready) && c.cnv.matchN < 16 && !codeOor spare && !codeOor active then
    { c with cnv := { c.cnv with matchN := c.cnv.matchN + 1, matchSum := c.cnv.matchSum + (spare.toInt - active.toInt) } }
  else c

/-- The set that is complete counts for the match where the spare held beside it. -/
def matchHeld (c : Cabinet) : Cabinet :=
  match c.cnv.heldSpare with
  | none => c
  | some x => matchSet x (c.cnv.held[c.cnv.nextPos]?.getD 0) { c with cnv := { c.cnv with heldSpare := none } }

/-- Σd / 16 rounded, ties away from zero (R275). -/
def roundDiv16 (x : Int) : Int := if x ≥ 0 then (x + 8) / 16 else - ((- x + 8) / 16)

/-- A match block of 16 counted sets ends (R275, R276). -/
def matchBlock (c : Cabinet) : Cabinet :=
  if c.cnv.matchN = 16 && (c.cnv.spst == .matching || c.cnv.spst == .ready) then
    let m := roundDiv16 c.cnv.matchSum
    let md := max (-127) (min 127 m)
    let c := { c with cnv := { c.cnv with matchN := 0, matchSum := 0, mdiff := md } }
    if m.natAbs ≤ fld c.cnv.rotcfg 16 6 then
      let i : Fin 5 := Fin.ofNat 5 c.cnv.spare
      let t := c.cnv.trim[i]
      { c with cnv := { c.cnv with spst := .ready, trim := c.cnv.trim.set i { t with adj := t.adj - m } } }
    else raiseErr .cnv 0x20 (spareRestart c)
  else c

/-- A sequencer conversion is in progress on a physical converter. -/
def convBusy (c : Cabinet) (conv : Nat) : Bool := (List.finRange 8).any (fun i => c.cnv.seqPhase[i] == .converting conv)

/-- The rotation (R278). -/
def rotate (c : Cabinet) : Cabinet :=
  let n := c.cnv
  if h : n.nextPos < 4 then
    let out := n.pos[n.nextPos]
    let busy := convBusy c out
    let c := { c with cnv := { n with
      pos := n.pos.set n.nextPos n.spare h, spare := out, nextPos := (n.nextPos + 1) % 4,
      rotCount := (n.rotCount + 1) % 65536, spst := if busy then .waiting else .calibrating, spareBusy := busy, matchN := 0, matchSum := 0,
      heldSpare := none } }
    bump 0x28 1 {} (c.orIrq .cnv 4)
  else c

/-- Event 5 of R77: at a multiple of ROT_PERIOD a ready spare rotates in, otherwise a skip is counted (R279, R281). -/
def rotationEvent (c : Cabinet) : Cabinet :=
  if bit c.cnv.rotcfg 24 && c.frame.count.toNat % (fld c.cnv.rotcfg 0 16 + 1) = 0 then
    if c.cnv.spst == .ready then rotate c
    else { c with cnv := { c.cnv with rotSkip := min (c.cnv.rotSkip + 1) 0xFFFF } }
  else c

/-! ## Sequencer -/

/-- The sequencer serves the requests of entry `n` (R267): active converters calibrate only in the initial calibration (R273). -/
def seqServes (n : Fin 8) (c : Cabinet) : Bool :=
  let trig := fld c.cnv.seq[n] 8 3
  let mode := c.mode == .loaded || c.mode == .armed || c.mode == .running || c.mode == .tripped
  mode && !c.cnv.initCal && (c.frame.running || !(trig == 1 || trig == 2))

/-- Entry `n` is triggered (R264..R267): a request waits, or the trigger is discarded with MISSn. -/
def seqTrigger (n : Fin 8) (c : Cabinet) : Cabinet :=
  if c.cnv.seqPhase[n] == .idle && seqServes n c then
    { c with cnv := { c.cnv with seqPhase := c.cnv.seqPhase.set n .waiting } }
  else { c with cnv := { c.cnv with seqMiss := c.cnv.seqMiss ||| 2 ^ n.val } }

/-- The OFS count of a U0 or U1 trigger ends (R264). -/
def seqOffset (n : Fin 8) (c : Cabinet) : Cabinet :=
  let trig := fld c.cnv.seq[n] 8 3
  if c.frame.running && (trig = 1 || (trig = 2 && c.frame.dual)) then seqTrigger n c else c

/-- A firing of compare channel `ch` triggers the entries that name it (R264, 12 R403). -/
def seqCompare (ch : Nat) (c : Cabinet) : Cabinet :=
  (List.finRange 8).foldl (fun c n =>
    if fld c.cnv.seq[n] 8 3 = 3 ∧ fld c.cnv.seq[n] 12 4 = ch then seqTrigger n c else c) c

/-- A write of CNV_SEQSW triggers the entries whose TRIG is 0b100. -/
def seqSoftware (go : Nat) (c : Cabinet) : Cabinet :=
  (List.finRange 8).foldl (fun c n =>
    if go / 2 ^ n.val % 2 = 1 ∧ fld c.cnv.seq[n] 8 3 = 4 then seqTrigger n c else c) c

/-- 48 cycles of tracking and conversion end before the next reserved interval of the positions' converters begins (R262, R265). -/
def seqFits (c : Cabinet) : Bool :=
  !c.frame.running ||
  (!c.frame.sampling &&
   (match c.frame.due with
    | some half => decide (c.frame.pos + 48 ≤ reservedFrom half c)
    | none => decide (c.frame.pos + 48 ≤ nextReserved c)))

/-- A lower entry's request waits for the same converter (R265). -/
def seqBefore (n : Fin 8) (c : Cabinet) : Bool :=
  (List.finRange 8).any (fun m =>
    decide (m < n) && c.cnv.seqPhase[m] == .waiting && fld c.cnv.seq[m] 4 2 == fld c.cnv.seq[n] 4 2 && seqServes m c)

/-- A waiting request starts tracking (R265, R267): its converter is free, the conversion fits before the next reserved interval, and no
lower entry starts first. -/
def seqStart (n : Fin 8) (c : Cabinet) : Cabinet :=
  let p := fld c.cnv.seq[n] 4 2
  if h : p < 4 then
    let conv := c.cnv.pos[p]
    if c.cnv.seqPhase[n] == .waiting && seqServes n c && seqFits c && !convBusy c conv && !seqBefore n c then
      { c with cnv := { c.cnv with seqPhase := c.cnv.seqPhase.set n (.converting conv) } }
    else c
  else c

/-- A sequencer conversion ends (R265, R268, R269): `vd` is the voltage at its hold. The spare of the last rotation starts its
calibration when its conversion completes. -/
def seqResult (n : Fin 8) (vd : Int) (c : Cabinet) : Cabinet :=
  match c.cnv.seqPhase[n] with
  | .converting conv =>
    let input : Fin 8 := Fin.ofNat 8 (fld c.cnv.seq[n] 0 3)
    let c := { c with cnv := { c.cnv with vd := c.cnv.vd.set input vd } }
    let old := c.cnv.res[n]
    let w := (natAt (convert c conv vd).toNat 18) ||| 1 ||| boolAt (bit old 0) 1
    let frees := c.cnv.spareBusy && conv == c.cnv.spare
    let c := { c with cnv := { c.cnv with
      seqPhase := c.cnv.seqPhase.set n .idle, res := c.cnv.res.set n w,
      spareBusy := c.cnv.spareBusy && !frees, spst := if frees then .calibrating else c.cnv.spst } }
    bump 0x29 1 {} (c.orIrq .cnv 1)
  | _ => c

/-! ## Comparators -/

/-- The comparators are powered (R296): not from the stop of the clocks until the shelf is restored at wake (19 R615), but in a TEST
entered from PARKED. -/
def cmprPowered (c : Cabinet) : Bool := c.mode == .test || (c.park != .stopped && c.park != .waking)

/-- The pulse-end action of an asserted side (R298). -/
def sidePulse (n : Fin 8) (low : Bool) (c : Cabinet) : Cabinet :=
  let pe := c.cmpr.pe[n]
  if bit pe (if low then 1 else 0) && !bit c.cmpr.blankPulse n.val then
    pulseEnd (Fin.ofNat 4 (fld pe 4 2)) (!low) c
  else c

/-- The pulse-end events of a comparator's two sides in one edge step (09 R320): the peak, from side H, prevails. -/
def pulseSides (n : Fin 8) (high low : Bool) (c : Cabinet) : Cabinet :=
  let p : Fin 4 := Fin.ofNat 4 (fld c.cmpr.pe[n] 4 2)
  if high then pulseEnd p true (if low then bump 0x2A 1 {} c else c)
  else if low then pulseEnd p false c
  else c

/-- The trip action of an asserted side (R299). -/
def sideTrip (n : Fin 8) (low : Bool) (c : Cabinet) : Cabinet :=
  if bit c.cmpr.cfg[n] (if low then 23 else 24) && !bit c.cmpr.blankTrip n.val then
    tripBy 0 { c with cmpr := { c.cmpr with trip := c.cmpr.trip ||| bitW (sideBit n low) } }
  else c

/-- An asserted side acts outside a self-test (R285, R298..R300): it does both where both are enabled, so its trip does not fall under
blanking that the edge of its own pulse end starts. -/
def sideAct (n : Fin 8) (low : Bool) (c : Cabinet) : Cabinet :=
  if c.mode == .test then c else sidePulse n low (sideTrip n low c)

/-- The level of a side at an instant (R293, R295): while it moves, some value between the old and the new level, from which it goes on
(log 95). -/
def levelNow (n : Fin 8) (low : Bool) (c : Cabinet) : Cabinet × Int :=
  let i : Fin 16 := Fin.ofNat 16 (sideBit n low)
  let new := dacLevel (sideCode n low c)
  match c.cmpr.move[i] with
  | none => (c, new)
  | some m =>
    let lo := min m.from' new
    let x := lo + ((Config.dacLevel c.id.val i.val c.free % ((max m.from' new - lo).toNat + 1) : Nat) : Int)
    ({ c.takeFree with cmpr := { c.cmpr with move := c.cmpr.move.set i (some { m with from' := x }) } }, x)

/-- The hysteresis of a comparator (R294). -/
def hysteresis (n : Fin 8) (c : Cabinet) : Int :=
  match fld c.cmpr.cfg[n] 25 2 with
  | 0 => 0 | 1 => 32000 | 2 => 64000 | _ => 128000

/-- The input that a comparator watches stands at `vd`. -/
def watch (n : Fin 8) (vd : Int) (c : Cabinet) : Cabinet :=
  { c with cnv := { c.cnv with vd := c.cnv.vd.set (Fin.ofNat 8 (fld c.cmpr.cfg[n] 20 3)) vd } }

/-- A side's assertion shows (R285, R296): in CNV_CMPSTAT, and in CNV_CMPFLAG but in a TEST entered from PARKED, whose shelf stays
untouched (19 R616). -/
def sideShows (n : Fin 8) (low : Bool) (c : Cabinet) : Cabinet :=
  let b := bitW (sideBit n low)
  let c := { c with cmpr := { c.cmpr with stat := c.cmpr.stat ||| b } }
  if c.testParked then c else ({ c with cmpr := { c.cmpr with flag := c.cmpr.flag ||| b } }).orIrq .cnv 2

/-- COMPARATOR_ASSERT (R294, R296): with Vd at `vd`, beyond the side's level, the side asserts. -/
def cmprAssert (n : Fin 8) (low : Bool) (vd : Int) (c : Cabinet) : Cabinet :=
  let c := watch n vd c
  if !cmprPowered c || bit c.cmpr.stat (sideBit n low) then c
  else
    let l := levelNow n low c
    if (if low then decide (vd < l.2) else decide (l.2 < vd)) then sideAct n low (sideShows n low l.1) else l.1

/-- COMPARATOR_DEASSERT (R294): with Vd at `vd`, back through the hysteresis, the side deasserts. -/
def cmprDeassert (n : Fin 8) (low : Bool) (vd : Int) (c : Cabinet) : Cabinet :=
  let c := watch n vd c
  if !cmprPowered c || !bit c.cmpr.stat (sideBit n low) then c
  else
    let l := levelNow n low c
    let h := hysteresis n c
    if (if low then decide (l.2 + h < vd) else decide (vd < l.2 - h)) then
      { l.1 with cmpr := { l.1.cmpr with stat := l.1.cmpr.stat &&& ~~~ bitW (sideBit n low) } }
    else l.1

/-- Comparator `n`'s blanking ends (R297): a side still asserted acts now; where both do, the peak prevails (09 R320). -/
def blankingEnd (n : Fin 8) (trip : Bool) (c : Cabinet) : Cabinet :=
  let on (low : Bool) : Bool := bit c.cmpr.stat (sideBit n low) && c.mode != .test
  if trip then
    if bit c.cmpr.blankTrip n.val then
      let one (low : Bool) (c : Cabinet) : Cabinet := if on low then sideTrip n low c else c
      one false (one true { c with cmpr := { c.cmpr with blankTrip := c.cmpr.blankTrip &&& ~~~ bitW n.val } })
    else c
  else if bit c.cmpr.blankPulse n.val then
    pulseSides n (on false && bit c.cmpr.pe[n] 0) (on true && bit c.cmpr.pe[n] 1)
      { c with cmpr := { c.cmpr with blankPulse := c.cmpr.blankPulse &&& ~~~ bitW n.val } }
  else c

/-- Every asserted side acts (R285: when the cabinet leaves TEST), the L sides first: of two events for one pair the peak prevails
(09 R320). -/
def sidesAct (c : Cabinet) : Cabinet :=
  let all (low : Bool) (c : Cabinet) : Cabinet :=
    (List.finRange 8).foldl (fun c n => if bit c.cmpr.stat (sideBit n low) then sideAct n low c else c) c
  all false (all true c)

/-- The asserted sides with their trip enable at 1: they are an active trip source (R301). -/
def cmprTripping (c : Cabinet) : Word :=
  (List.finRange 8).foldl (fun (w : Word) n =>
    w ||| boolAt (bit c.cmpr.stat n.val && bit c.cmpr.cfg[n] 24) n.val |||
    boolAt (bit c.cmpr.stat (n.val + 8) && bit c.cmpr.cfg[n] 23) (n.val + 8)) 0

/-- A comparator side is an active trip source (R301). -/
def cmprTripActive (c : Cabinet) : Bool := cmprTripping c != 0

/-! ## Register writes -/

/-- A value above 1,000 is stored as 1,000. -/
def win1000 (v : Nat) : Nat := min v 1000

/-- The effect of a write of a CNV_ register: `v` is the merged value, `w` the word written. -/
def cnvSet (off : Nat) (v w : Word) (c : Cabinet) : Cabinet :=
  match regIdx off 0x040 4 8 with
  | some i => { c with cnv := { c.cnv with seq := c.cnv.seq.set i (setFld v 8 3 (fselStored (fld v 8 3))) } }
  | none =>
  match regIdx off 0x104 16 8 with
  | some i => { c with cmpr := { c.cmpr with pe := c.cmpr.pe.set i v } }
  | none =>
  match regIdx off 0x108 16 8 with
  | some i => moveLevels c.cmpr { c with cmpr := { c.cmpr with thr := c.cmpr.thr.set i v } }
  | none =>
    if off = 0x000 then
      if c.frame.running then { c with cnv := { c.cnv with selNext := some v } }
      else { c with cnv := { c.cnv with sel := v } }
    else if off = 0x004 then
      let lo := win1000 (fld v 0 10)
      let hi := win1000 (fld v 16 10)
      let x := natAt lo 0 ||| natAt hi 16
      if lo > hi then c
      else if c.frame.running then { c with cnv := { c.cnv with winNext := some x } }
      else setWindow x c
    else if off = 0x008 then setTrk v c
    else if off = 0x020 then
      let x := setFld (setFld v 0 16 (max (fld v 0 16) 0xF)) 16 6 (max (fld v 16 6) 1)
      if c.frame.running then { c with cnv := { c.cnv with rotcfgNext := some x } }
      else { c with cnv := { c.cnv with rotcfg := x } }
    else if off = 0x02C then (if bit w 2 then calRequest c else c)
    else if off = 0x080 then { c with cnv := { c.cnv with seqMiss := fld v 0 8 } }
    else if off = 0x084 then seqSoftware (fld w 0 8) c
    else if off = 0x184 then { c with cmpr := { c.cmpr with flag := v } }
    else if off = 0x188 then { c with cmpr := { c.cmpr with trip := v } }
    else c

end Sys2Proof.Machine
end

