-- ==== Sys2Proof/Machine/Pwm.lean ====
section
/-!
DEFINITION. The PWM block and the force stage of one cabinet (spec/09_pwm_duty_port_and_latch.md): the carrier, the duty
port, the shadow latch and the release, carrier crossings, dead time and its adaptation, the pins Ck_TRIP_N and Ck_EN_N,
and the PWM_ registers.
-/
namespace Sys2Proof.Machine

/-! ## Carrier (R306, R307) -/

/-- The carrier count (R306): 0 while the frame does not run. -/
def carrierCount (c : Cabinet) : Nat :=
  if !c.frame.running then 0
  else if c.pwm.triangle && c.frame.pos > c.frame.flen / 2 then frameLen c - c.frame.pos
  else c.frame.pos

/-- PWM_CNT.DOWN: past the peak of a triangle carrier (log 22). -/
def carrierDown (c : Cabinet) : Bool := c.frame.running && c.pwm.triangle && decide (c.frame.pos > c.frame.flen / 2)

/-- The position x in edge steps at the start of the present cycle (R307). -/
def carrierX (c : Cabinet) : Nat := 20 * carrierCount c

/-! ## Duty port and shadow latch (R308..R312) -/

/-- The compare that the duty port converts a duty value into (R308). -/
def dutyConvert (fmtCount : Bool) (span : Nat) (d : Word) : Nat :=
  if fmtCount then min (20 * span) (fld d 0 24)
  else if d.toInt ≤ 0 then 0
  else min (20 * span) ((d.toNat * (20 * span) + 2 ^ 30) / 2 ^ 31)

/-- The duty port commits (R309, R310): the duty registers the MASK names, and every shadow register. `duties` holds one
word for each of the four pairs. -/
def dutyCommit (mask : Nat) (duties : List Word) (c : Cabinet) : Cabinet :=
  (List.finRange 4).foldl (fun c p =>
    let q := c.pwm.pair[p]
    let d := if mask / 2 ^ p.val % 2 = 1 then duties.getD p.val 0 else q.duty
    setPair c p { q with duty := d, shd := dutyConvert (bit q.cfg 2) (carrierSpan c) d }) c

/-- REL sets and FBSAFE clears at the first latch of a run's commit in service (R323, R324). -/
def release (c : Cabinet) : Cabinet :=
  if c.mode == .running && !c.pwm.enN && !c.latch && !c.pwm.rel then
    settlePairs { c with pwm := { c.pwm with rel := true, fbsafe := false } }
  else c

/-- The shadow latch (R309, R311): every compare takes its shadow register, the references answer at once, the release
follows. -/
def shadowLatch (c : Cabinet) : Cabinet :=
  let c := (List.finRange 4).foldl (fun c p =>
    let q := c.pwm.pair[p]
    evalPair p (belowAt c (carrierX c) q.shd) true (setPair c p { q with cmp := q.shd })) c
  release c

/-- DUTY_PORT_COMMIT: the commit of the run's DUTY reaches the duty port (R309). -/
def dutyPortCommit (c : Cabinet) : Cabinet :=
  match c.frame.commit with
  | .port mask duties =>
    let c := bump 0x25 1 {} (dutyCommit mask duties c)
    { c with frame := { c.frame with commit := .shadow } }
  | _ => c

/-- SHADOW_LATCH (R309). -/
def shadowLatchEvent (c : Cabinet) : Cabinet :=
  match c.frame.commit with
  | .shadow => shadowLatch { c with frame := { c.frame with commit := .none } }
  | _ => c

/-! ## Carrier crossings and dead time (R311..R319) -/

/-- The carrier passes the compare of pair `p` (R311, R320): `below` is the new value of x < K_p. A compare of 0 is never
above the carrier, a compare of 20S always. -/
def carrierCrossing (p : Fin 4) (below : Bool) (c : Cabinet) : Cabinet :=
  let k := c.pwm.pair[p].cmp
  if c.frame.running && (if below then decide (0 < k) else decide (k < 20 * carrierSpan c)) then evalPair p below false c else c

/-- Cut ends at the frame boundary of a sawtooth carrier whenever K_p > 0, even where x < K_p held throughout (R320, R321). -/
def cutEnd (p : Fin 4) (c : Cabinet) : Cabinet :=
  let q := c.pwm.pair[p]
  if q.cut && !c.pwm.triangle && q.cmp != 0 then pairChange p { q with cut := false } c else c

/-- The carrier passes its ends (R307, R320): at a frame boundary x is 0, at the peak of a triangle 20S. -/
def carrierAt (x : Nat) (c : Cabinet) : Cabinet :=
  (List.finRange 4).foldl (fun c p =>
    let c := evalPair p (belowAt c x (c.pwm.pair[p]).cmp) false c
    if x = 0 then cutEnd p c else c) c

/-- A dead time of an output has elapsed (R314): of the turn-on that the safe pattern forces (`safe`, R328), or of its own request, which
counts on while the output is forced. The output becomes active when it still asks and its partner allows it. -/
def deadTimeElapsed (p : Fin 4) (sideB safe : Bool) (c : Cabinet) : Cabinet :=
  let q := c.pwm.pair[p]
  let o := if sideB then q.b else q.a
  let free := bothExempt c p || !(if sideB then q.a else q.b).active
  let put (o : Output) : Cabinet := setPair c p (if sideB then { q with b := o } else { q with a := o })
  if safe then (if c.forced && o.safe && free then pairSettle p (put { o with active := true }) else c)
  else if o.asks && free && !o.ripe then
    if c.forced then put { o with ripe := true }
    else switchingEdge p (put { o with ripe := true, active := true })
  else c

/-- The target of a measurement and whether it was limited to MAX (R317). `m` is `none` when the side did not assert within
MAX edge steps. -/
def adaptTarget (lo hi margin : Nat) (m : Option Nat) : Nat × Bool :=
  match m with
  | some m =>
    if m ≤ hi then
      let t := m + margin
      if t > hi then (max lo hi, true) else (max lo t, false)
    else (max lo hi, true)
  | none => (max lo hi, true)

/-- An estimate follows its target: up at once, down by one (R317). -/
def adaptFollow (e t : Nat) : Nat := if t > e then t else if t < e then e - 1 else e

/-- One measured turn-on (R317): in complementary mode, adaptive, while the frame runs. -/
def dtAdapt (p : Fin 4) (sideB : Bool) (m : Option Nat) (c : Cabinet) : Cabinet :=
  let q := c.pwm.pair[p]
  if c.frame.running && q.mode == 0 && !bit q.dtfix 31 then
    let (t, sat) := adaptTarget q.dtMin q.dtMax (fld q.dtadp 8 8) m
    let q := if sideB then { q with eb := adaptFollow q.eb t } else { q with ea := adaptFollow q.ea t }
    if sat then (setPair c p { q with dtadp := q.dtadp ||| 0x40000000 }).orIrq .pwm 4 else setPair c p q
  else c

/-- A write of PWM_DTpFIX (R318). -/
def setDtFix (p : Fin 4) (v : Word) (c : Cabinet) : Cabinet :=
  let q := c.pwm.pair[p]
  let a := fld v 0 14
  let b := fld v 16 14
  if bit v 31 then
    let changed := !bit q.dtfix 31 || fld q.dtfix 0 14 != a || fld q.dtfix 16 14 != b
    let stop := changed && (a != q.ea || b != q.eb)
    setPair c p { q with dtfix := v, dtadp := if stop then q.dtadp ||| 0x80000000 else q.dtadp }
  else if bit q.dtfix 31 then
    setPair c p { q with dtfix := v, ea := clampN q.dtMin q.dtMax a, eb := clampN q.dtMin q.dtMax b }
  else setPair c p { q with dtfix := v }

/-- A write of PWM_DTpLIM (R318). -/
def setDtLim (p : Fin 4) (v : Word) (c : Cabinet) : Cabinet :=
  let q := c.pwm.pair[p]
  let lo := fld v 0 14
  let hi := fld v 16 14
  if lo > hi then c
  else setPair c p { q with dtlim := v, ea := clampN lo hi q.ea, eb := clampN lo hi q.eb }

/-! ## Pins (R325, R326) -/

/-- Whether a pulse acts: from 5 ns always, below 2 ns never, between them a free value. `none`: the level stays. -/
def pulseActs (enable : Bool) (width : Option Nat) (c : Cabinet) : Bool :=
  match width with
  | none => true
  | some w => if w ≥ 5000 then true else if w < 2000 then false else Config.pinPulseActs enable c.id.val c.free

/-- Ck_TRIP_N goes low for `width` picoseconds, or stays low (`none`) (R326). A pin that was low already makes no new edge. -/
def tripPinLow (width : Option Nat) (c : Cabinet) : Cabinet :=
  let act := c.pwm.tripN && pulseActs false width c
  let c := { c.takeFree with pwm := { c.pwm with tripN := width.isSome } }
  if act then tripBy 1 c else c

/-- PWM_SAFE.ENTRIP. -/
def enTrip (c : Cabinet) : Bool := bit c.pwm.safe 24

/-- A commit that sets ENTRIP while Ck_EN_N is high sets the trip latch (R325). `old`: the cabinet before it. -/
def enTripSet (old c : Cabinet) : Cabinet := if c.pwm.enN && enTrip c && !enTrip old then tripBy 2 c else c

/-- Where the frame has stopped the carrier stands at 0 (R306), and the references follow (R311). `old`: the cabinet before. -/
def carrierStop (old c : Cabinet) : Cabinet := if old.frame.running && !c.frame.running then carrierAt 0 c else c

/-- Ck_EN_N goes high for `width` picoseconds, or stays high (`none`) (R325). A pin that was high already makes no new edge;
at the end of a pulse it is low. -/
def enPinHigh (width : Option Nat) (c : Cabinet) : Cabinet :=
  let act := !c.pwm.enN && pulseActs true width c
  let c := c.takeFree
  let c := if act then
      let c := settlePairs (clearRel { c with pwm := { c.pwm with enN := true } })
      if enTrip c then tripBy 2 c else c
    else c
  settlePairs { c with pwm := { c.pwm with enN := width.isNone } }

/-- The active trip sources, PWM_TRIPSRC.ACT (R301, R331). -/
def tripAct (c : Cabinet) : Nat :=
  (cmprTripActive c).toNat + 2 * (!c.pwm.tripN).toNat + 4 * (c.pwm.enN && enTrip c).toNat + 8 * c.chipSafe.toNat

/-- Sets the latch again by every source that is active (R332; 01 R33): the lower bit number first. -/
def retrip (c : Cabinet) : Cabinet :=
  let a := tripAct c
  let c := { c with cmpr := { c.cmpr with trip := c.cmpr.trip ||| cmprTripping c } }
  let one (i src : Nat) (c : Cabinet) : Cabinet := if a / 2 ^ i % 2 = 1 then tripBy src c else c
  one 3 6 (one 2 2 (one 1 1 (one 0 0 c)))

/-! ## Registers (R338) -/

/-- Cards of the PWM_ registers. -/
def pwmCard (off : Nat) : Card :=
  if off = 0x000 then cardM 1
  else if (regIdx off 0x040 16 4).isSome then cardK 7
  else if (regIdx off 0x044 16 4).isSome then cardK 0xBFFF3FFF
  else if (regIdx off 0x048 16 4).isSome then cardK 0x3FFF3FFF
  else if (regIdx off 0x04C 16 4).isSome then { rwK := 0xFF1F, w1c := 0xC0000000 }
  else if off = 0x0C0 then cardC 0xF
  else if off = 0x100 then cardP 0xF1FFFFFF
  else {}

/-- Output `i` is high impedance: forced so by the safe pattern (R322). -/
def outputHiZ (c : Cabinet) (i : Nat) : Bool := c.forced && safeState c i == 2

/-- Output `i` is active. -/
def outputActive (c : Cabinet) (i : Nat) : Bool :=
  let q := c.pwm.pair[Fin.ofNat 4 (i / 2)]
  if i % 2 = 1 then q.b.active else q.a.active

/-- What the pin of output `i` drives (R322, R333): none at high impedance, else its level, which is high while the output is active
unless PWM_SAFE.POL makes it active low. -/
def outputLevel (c : Cabinet) (i : Nat) : Option Bool :=
  if outputHiZ c i then none else some (outputActive c i != bit c.pwm.safe (16 + i))

/-- PWM_PINS.ACTV and HIZ. -/
def pinsWord (c : Cabinet) : Word :=
  (List.finRange 4).foldl (fun w p =>
    let q := c.pwm.pair[p]
    w ||| boolAt q.a.active (2 * p.val) ||| boolAt q.b.active (2 * p.val + 1) |||
    boolAt (outputHiZ c (2 * p.val)) (8 + 2 * p.val) ||| boolAt (outputHiZ c (2 * p.val + 1)) (9 + 2 * p.val))
    (boolAt c.pwm.tripN 16 ||| boolAt c.pwm.enN 17)

/-- PWM_STAT. -/
def pwmStatWord (c : Cabinet) : Word :=
  (List.finRange 4).foldl (fun w p => w ||| boolAt c.pwm.pair[p].cut (4 + p.val) ||| boolAt c.pwm.pair[p].boost (8 + p.val))
    (c.pwm.late ||| boolAt c.pwm.fbsafe 12 ||| boolAt c.pwm.rel 13)

/-- PWM_TRIPSRC. -/
def tripsrcWord (c : Cabinet) : Word := c.pwm.tripsrc ||| natAt c.pwm.first 8 ||| natAt (tripAct c) 16

/-- The current value of a PWM_ register. PWM_PAIRpCFG reads as written (log 20). -/
def pwmGet (off : Nat) (c : Cabinet) : Word :=
  let w := c.pwm
  match regIdx off 0x010 4 4 with
  | some p => w.pair[p].duty
  | none =>
  match regIdx off 0x020 4 4 with
  | some p => natAt w.pair[p].shd 0
  | none =>
  match regIdx off 0x030 4 4 with
  | some p => natAt w.pair[p].cmp 0
  | none =>
  match regIdx off 0x040 16 4 with
  | some p => w.pair[p].cfgNext.getD w.pair[p].cfg
  | none =>
  match regIdx off 0x044 16 4 with
  | some p => w.pair[p].dtfix
  | none =>
  match regIdx off 0x048 16 4 with
  | some p => w.pair[p].dtlim
  | none =>
  match regIdx off 0x04C 16 4 with
  | some p => w.pair[p].dtadp
  | none =>
  match regIdx off 0x080 4 4 with
  | some p => natAt w.pair[p].ea 0 ||| natAt w.pair[p].eb 16
  | none =>
    if off = 0x000 then boolAt w.triangle 0
    else if off = 0x004 then natAt (carrierCount c) 0 ||| boolAt (carrierDown c) 20
    else if off = 0x0C0 then pwmStatWord c
    else if off = 0x0C4 then tripsrcWord c
    else if off = 0x0C8 then pinsWord c
    else if off = 0x0CC then w.testres
    else if off = 0x100 then w.safe
    else 0

/-- A write of PWM_PAIRpCFG: MODE 0b11 is stored as 0b00; it waits for a boundary while the frame runs. -/
def setPairCfg (p : Fin 4) (v : Word) (c : Cabinet) : Cabinet :=
  let v := if fld v 0 2 = 3 then setFld v 0 2 0 else v
  if c.frame.running then setPair c p { c.pwm.pair[p] with cfgNext := some v }
  else pairSettle p (setPair c p { c.pwm.pair[p] with cfg := v, cfgNext := none })

/-- The effect of a write of a PWM_ register with the merged value `v`. -/
def pwmSet (off : Nat) (v : Word) (c : Cabinet) : Cabinet :=
  match regIdx off 0x040 16 4 with
  | some p => setPairCfg p v c
  | none =>
  match regIdx off 0x044 16 4 with
  | some p => setDtFix p v c
  | none =>
  match regIdx off 0x048 16 4 with
  | some p => setDtLim p v c
  | none =>
  match regIdx off 0x04C 16 4 with
  | some p => setPair c p { c.pwm.pair[p] with dtadp := v }
  | none =>
    if off = 0x000 then
      if c.mode == .empty || c.mode == .loaded then { c with pwm := { c.pwm with triangle := bit v 0 } } else c
    else if off = 0x0C0 then { c with pwm := { c.pwm with late := v &&& 0xF } }
    else c

/-- A commit of PWM_SAFE that R333 turns away: a code of 0b11, or both outputs of a pair without exemption made active. -/
def safeDenied (w : Word) : Bool :=
  (List.range 8).any (fun i => fld w (2 * i) 2 == 3) ||
  (List.range 4).any (fun p => !bit w (28 + p) && fld w (4 * p) 2 == 1 && fld w (4 * p + 2) 2 == 1)

end Sys2Proof.Machine
end

