-- ==== Sys2Proof/Machine/Feedback.lean ====
section
/-!
DEFINITION. The feedback unit of one cabinet (spec/10_position_feedback.md): Hall transitions, tooth edges, cross mode, the
external position, snapshots and the FBK_ registers.
-/
namespace Sys2Proof.Machine

/-- A timestamp of the sample taken `late` samples of four cycles before the present one, within ±2 ticks of the time base (R340). -/
def stampOf (input late : Nat) (c : Cabinet) : BitVec 64 :=
  c.tmr.count - BitVec.ofNat 64 (2 * late) + BitVec.ofNat 64 (Config.edgeJitter c.id.val input c.free % 5) - 2

/-- One sample of an input through the glitch filter (R339): the filtered level takes the pin level when FILT consecutive samples have
differed from it. The results: the filtered level and the samples that differ. -/
def filterSample (filt : Nat) (level pin : Bool) (run : Nat) : Bool × Nat :=
  if pin == level then (level, 0) else if filt ≤ run + 1 then (pin, 0) else (level, run + 1)

/-- FBK_CFG.FILT. -/
def fbkFilt (c : Cabinet) : Nat := fld c.fbk.cfg 8 9

/-- FBK_CFG.MODE. -/
def fbkMode (c : Cabinet) : Nat := fld c.fbk.cfg 0 2

/-- FBK_CFG.DIRINV. -/
def fbkInv (c : Cabinet) : Bool := bit c.fbk.cfg 2

/-- The sector of a Hall state; `none` for 0b000 and 0b111 (R342). -/
def hallSector (s : Nat) : Option Nat :=
  match s with
  | 1 => some 0 | 3 => some 1 | 2 => some 2 | 6 => some 3 | 4 => some 4 | 5 => some 5 | _ => none

/-- Ticks from `a` to `b`, saturated at 0xFFFF_FFFF (R345). -/
def ticksSat (a b : BitVec 64) : Nat := min (b - a).toNat 0xFFFFFFFF

/-- FBK_POS moves by `n` positions, in reverse when `neg`. Only the counts from 0xFFFF_FFFF to 0 and back set a wrap cause (R341), so
one of several positions never does. -/
def posMove (n : Nat) (neg : Bool) (c : Cabinet) : Cabinet :=
  let p := c.fbk.pos
  if neg then
    let c' := { c with fbk := { c.fbk with pos := p - BitVec.ofNat 32 n } }
    if p == 0 && n == 1 then c'.orIrq .fbk 2 else c'
  else
    let c' := { c with fbk := { c.fbk with pos := p + BitVec.ofNat 32 n } }
    if p == 0xFFFFFFFF && n == 1 then c'.orIrq .fbk 1 else c'

/-- A counted edge of `n` positions in direction `rev` at `ts` (R345 to R347): its timing, with the per-position period `per`, is
discarded unless `timed`, at a direction change (where `directed`: the mode senses a direction) and after a discarded edge. -/
def countedEdge (n : Nat) (rev directed timed : Bool) (ts : BitVec 64) (per : Nat) (c : Cabinet) : Cabinet :=
  let change := directed && c.fbk.prevDir == some (!rev)
  let timed := timed && !change && !c.fbk.timingLost
  let c := posMove n (rev != fbkInv c) c
  let f := c.fbk
  let f := { f with
    edgets := ts, age := 0, prevDir := some rev, timingLost := false
    stat := if change then f.stat ||| 2 else f.stat
    period := if timed then BitVec.ofNat 32 per else f.period
    dir := if timed then rev else f.dir }
  bump 0x2D 1 {} (({ c with fbk := f }).orIrq .fbk 8)

/-- A Hall transition counted in Hall mode (R342, R345 to R347). -/
def hallCount (rev : Bool) (ts : BitVec 64) (c : Cabinet) : Cabinet :=
  let c := countedEdge 1 rev true true ts (ticksSat c.fbk.edgets ts) c
  { c with fbk := { c.fbk with hallDir := some rev } }

/-- FBK_XCFG.XWIN is reached by one of the two counts since the other source (R357). -/
def xwinCheck (n : Nat) (c : Cabinet) : Cabinet :=
  let w := fld c.fbk.xcfg 20 4
  if w ≠ 0 ∧ n ≥ w then raiseErr .fbk 4 c else c

/-- A Hall transition counted in cross mode (R355 to R357). -/
def hallCross (rev : Bool) (c : Cabinet) : Cabinet :=
  let f := c.fbk
  let change := f.hallDir == some (!rev)
  let f := { f with
    hpos := if rev != fbkInv c then f.hpos - 1 else f.hpos + 1,
    hallDir := some rev, toothSinceHall := 0, hallSinceTooth := f.hallSinceTooth + 1 }
  let f := if change then { f with stat := f.stat ||| 2, tsync := .nosync, toothN := 0, skipTest := false } else f
  xwinCheck f.hallSinceTooth { c with fbk := f }

/-- The filtered levels of FB2, FB1, FB0 become `x` in the filter sample `late` before the present (R342 to R344). Outside Hall and
cross mode only the levels change, and while the clocks are stopped (R364). -/
def hallAccepted (x late : Nat) (c : Cabinet) : Cabinet :=
  let x := x % 8
  let old := c.fbk.hall
  if x = old then c
  else
    let ts := stampOf 0 late c
    let c := { c.takeFree with fbk := { c.fbk with hall := x } }
    if c.clocksRun ∧ (fbkMode c = 0 ∨ fbkMode c = 2) then
      match c.fbk.judged, hallSector x with
      | none, some _ => { c with fbk := { c.fbk with judged := some x, timingLost := true } }
      | _, none => raiseErr .fbk 1 { c with fbk := { c.fbk with judged := none, timingLost := true, stat := c.fbk.stat ||| 1 } }
      | some j, some s =>
        if popcount 3 (x ^^^ old) ≠ 1 then
          raiseErr .fbk 1 { c with fbk := { c.fbk with judged := some x, timingLost := true, stat := c.fbk.stat ||| 1 } }
        else
          let rev := hallSector j != some ((s + 5) % 6)
          let c := { c with fbk := { c.fbk with judged := some x } }
          if fbkMode c = 0 then hallCount rev ts c else hallCross rev c
    else { c with fbk := { c.fbk with judged := if (hallSector x).isSome then some x else none } }

/-- FBK_TCFG.TEETH and REF. -/
def fbkTeeth (c : Cabinet) : Nat := fld c.fbk.tcfg 0 11
def fbkRef (c : Cabinet) : Nat := fld c.fbk.tcfg 11 3

/-- Counted edges expected between references (R353). -/
def fbkExpected (c : Cabinet) : Nat := if fbkRef c = 4 then fbkTeeth c else fbkTeeth c - fbkRef c

/-- A reference after `n` counted edges (R353, R357). -/
def reference (n : Nat) (c : Cabinet) : Cabinet :=
  let f := c.fbk
  let exact := n == fbkExpected c
  let hpr := fld f.xcfg 0 16
  let dh := (f.hpos - f.hposAtRef).toInt.natAbs
  let tol := fld f.xcfg 16 4
  let xerr := fbkMode c == 2 && f.tsync == .sync && hpr != 0 && (decide (dh > hpr + tol) || decide (dh + tol < hpr))
  let next : TSync := match f.tsync with
    | .nosync => .pend
    | _ => if exact then .sync else .pend
  let lost := f.tsync == .sync && !exact
  let good := f.tsync != .nosync && exact
  let c := { c with fbk := { f with tidx := 0, tsync := next, sinceRef := 0, hposAtRef := f.hpos } }
  let c := if good then c.orIrq .fbk 4 else c
  let c := if lost then raiseErr .fbk 2 c else c
  if xerr then raiseErr .fbk 4 c else c

/-- A regular tooth edge (R349, R353): it counts one position; `first` is the first one after an extra edge. -/
def toothRegular (rev first : Bool) (ts : BitVec 64) (timed : Bool) (c : Cabinet) : Cabinet :=
  let c := countedEdge 1 rev (fbkMode c == 2) timed ts (ticksSat c.fbk.edgets ts) c
  let f := c.fbk
  let n := f.sinceRef + 1
  let c := { c with fbk := { f with tidx := if first then 0 else (f.tidx + 1) % fbkTeeth c, sinceRef := n } }
  if f.tsync == .sync && n == fbkExpected c + 1 then raiseErr .fbk 2 { c with fbk := { c.fbk with tsync := .nosync } } else c

/-- A gap edge (R351). -/
def toothGap (rev : Bool) (ts : BitVec 64) (c : Cabinet) : Cabinet :=
  let m := fbkRef c + 1
  let n := c.fbk.sinceRef + 1
  reference n (countedEdge m rev (fbkMode c == 2) true ts (ticksSat c.fbk.edgets ts / m) c)

/-- What the test of R350 finds. -/
inductive ToothKind where
  | regular | gap | extra
  deriving DecidableEq, Repr

/-- The test of R350 on a tooth edge with period `p`. -/
def toothKind (p : Nat) (c : Cabinet) : ToothKind :=
  let f := c.fbk
  if f.toothN < 2 || f.skipTest then .regular
  else if 1 ≤ fbkRef c ∧ fbkRef c ≤ 3 ∧ p * 16 > fld f.tcfg 16 8 * f.period.toNat then .gap
  else if fbkRef c = 4 ∧ p * 16 < fld f.tcfg 24 4 * f.period.toNat then .extra
  else .regular

/-- A tooth edge accepted in tooth or cross mode in the filter sample `late` before the present (R349 to R357). In cross mode it has the
direction of the last counted Hall transition; before one it is forward (log 98). -/
def toothAccepted (late : Nat) (c : Cabinet) : Cabinet :=
  let m := fbkMode c
  let ts := stampOf 1 late c
  let c := c.takeFree
  let kind := toothKind (ticksSat c.fbk.edgets ts) c
  let f := c.fbk
  let rev := m == 2 && f.hallDir == some true
  let skip := f.skipTest
  let timed := decide (1 ≤ f.toothN)
  let c := { c with fbk := { f with
    toothN := f.toothN + 1, skipTest := kind == .extra,
    toothSinceHall := if m = 2 then f.toothSinceHall + 1 else 0, hallSinceTooth := 0 } }
  let c := match kind with
    | .regular => toothRegular rev skip ts timed c
    | .gap => toothGap rev ts c
    | .extra => reference c.fbk.sinceRef c
  if m = 2 then xwinCheck c.fbk.toothSinceHall c else c

/-- The filtered level of the tooth input becomes `level`: a tooth edge where FBK_CFG.TPOL selects it (R349). -/
def toothLevel (level : Bool) (late : Nat) (c : Cabinet) : Cabinet :=
  if c.clocksRun && level != bit c.fbk.cfg 3 then toothAccepted late c else c

/-- One sample of FB2, FB1, FB0, `late` samples before the present (R339, R343). In tooth mode FB0 is the tooth input. -/
def hallSample (x late : Nat) (c : Cabinet) : Cabinet :=
  let f := c.fbk
  let y (i : Fin 3) : Bool × Nat := filterSample (fbkFilt c) (f.hall / 2 ^ i.val % 2 = 1) (x / 2 ^ i.val % 2 = 1) f.hallRun[i]
  let new := (y 0).1.toNat + 2 * (y 1).1.toNat + 4 * (y 2).1.toNat
  let c := hallAccepted new late { c with fbk := { f with hallRun := Vector.ofFn (fun i => (y i).2) } }
  if fbkMode c = 1 ∧ new % 2 ≠ f.hall % 2 then toothLevel (new % 2 = 1) late c else c

/-- One sample of the tooth input, `late` samples before the present: FB0 in tooth mode, Ck_GPn in cross mode. -/
def toothSample (pin : Bool) (late : Nat) (c : Cabinet) : Cabinet :=
  let f := c.fbk
  if fbkMode c = 1 then hallSample (f.hall / 2 * 2 + pin.toNat) late c
  else if fbkMode c = 2 then
    let y := filterSample (fbkFilt c) f.tooth pin f.toothRun
    let c := { c with fbk := { f with tooth := y.1, toothRun := y.2 } }
    if y.1 != f.tooth then toothLevel y.1 late c else c
  else c

/-- Each sample of a list with the number of samples that follow it. -/
def samplesLate {α : Type} (xs : List α) : List (α × Nat) := xs.zip (List.range xs.length).reverse

/-- HALL_TRANSITION: the synchronized levels FB2, FB1, FB0 at the last samples (R339; log 23), oldest first. -/
def hallTransition (xs : List (Fin 8)) (c : Cabinet) : Cabinet :=
  (samplesLate xs).foldl (fun c x => hallSample x.1.val x.2 c) c

/-- TOOTH_EDGE: the synchronized levels of the tooth input at the last samples, oldest first. -/
def toothEdge (xs : List Bool) (c : Cabinet) : Cabinet := (samplesLate xs).foldl (fun c x => toothSample x.1 x.2 c) c

/-- A write of FBK_EXTPOS by software or by a drawer (R358, R360). -/
def extposWrite (v : Word) (c : Cabinet) : Cabinet :=
  let f := { c.fbk with extpos := v, extts := c.tmr.count, extseq := (c.fbk.extseq + 1) % 256 }
  if fbkMode c = 3 then
    let old := f.pos
    let fwd := decide ((v - old).toNat < 2 ^ 31)
    let c := { c with fbk := { f with pos := v, age := 0 } }
    let irq : Word := 0x10 ||| (if fwd && decide (v.toNat < old.toNat) then 1 else if !fwd && decide (v.toNat > old.toNat) then 2 else 0)
    c.orIrq .fbk irq
  else ({ c with fbk := f }).orIrq .fbk 0x10

/-- A drawer's write of FBK_EXTPOS; with `lost` a software write that finishes in the same cycle is lost (R359). -/
def extposDrawer (v : Word) (lost : Bool) (c : Cabinet) : Cabinet :=
  extposWrite v (if lost then { c with fbk := { c.fbk with stat := c.fbk.stat ||| 8 } } else c)

/-- The snapshot at a sample instant (R361). -/
def snapshot (half : Bool) (c : Cabinet) : Cabinet :=
  let f := c.fbk
  { c with fbk := { f with
    snappos := f.pos, snapper := f.period, snapage := f.age, snapseq := (f.snapseq + 1) % 65536, snaphalf := half } }

/-- The current Hall state is adopted under R344 and the tooth count restarts (R363, R364). -/
def fbkAdopt (f : Fbk) : Fbk :=
  { f with tsync := .nosync, judged := if (hallSector f.hall).isSome then some f.hall else none, timingLost := true,
           toothN := 0, skipTest := false, toothSinceHall := 0, hallSinceTooth := 0 }

/-- Waking from PARKED (R364). -/
def fbkWake (c : Cabinet) : Cabinet := { c with fbk := fbkAdopt { c.fbk with stat := c.fbk.stat ||| 4 } }

/-! ## Registers (R367) -/

/-- Cards of the FBK_ registers. -/
def fbkCard (off : Nat) : Card :=
  if off = 0x000 then cardK 0x0001FFFF
  else if off = 0x004 then cardK 0x0FFF3FFF
  else if off = 0x008 then cardK 0x00FFFFFF
  else if off = 0x010 ∨ off = 0x014 ∨ off = 0x040 then cardK 0xFFFFFFFF
  else if off = 0x018 then cardK 0x7FF
  else if off = 0x030 then cardC 0xF
  else {}

/-- FBK_TIDX.TSYNC code. -/
def TSync.code : TSync → Nat
  | .nosync => 0 | .pend => 1 | .sync => 2

/-- The current value of an FBK_ register. -/
def fbkGet (off : Nat) (c : Cabinet) : Word :=
  let f := c.fbk
  if off = 0x000 then f.cfg
  else if off = 0x004 then f.tcfg
  else if off = 0x008 then f.xcfg
  else if off = 0x010 then f.pos
  else if off = 0x014 then f.hpos
  else if off = 0x018 then natAt f.tidx 0 ||| natAt f.tsync.code 16
  else if off = 0x01C then natAt f.hall 0 ||| natAt ((hallSector f.hall).getD 7) 4 ||| boolAt f.dir 8
  else if off = 0x020 then f.period
  else if off = 0x024 then f.age
  else if off = 0x028 then f.edgets.setWidth 32
  else if off = 0x02C then f.edgeHi
  else if off = 0x030 then f.stat
  else if off = 0x040 then f.extpos
  else if off = 0x044 then f.extts.setWidth 32
  else if off = 0x048 then f.extHi
  else if off = 0x04C then natAt f.extseq 0
  else if off = 0x060 then f.snappos
  else if off = 0x064 then f.snapper
  else if off = 0x068 then f.snapage
  else if off = 0x06C then natAt f.snapseq 0 ||| boolAt f.snaphalf 16
  else 0

/-- The high half of a timestamp or count. -/
def hiWord (x : BitVec 64) : Word := (x >>> 32).setWidth 32

/-- A read of FBK_EDGETSL or FBK_EXTTSL latches the high half. -/
def fbkReadEffect (off : Nat) (c : Cabinet) : Cabinet :=
  if off = 0x028 then { c with fbk := { c.fbk with edgeHi := hiWord c.fbk.edgets } }
  else if off = 0x044 then { c with fbk := { c.fbk with extHi := hiWord c.fbk.extts } }
  else c

/-- A write of FBK_CFG (R363): in normal service only FILT changes. -/
def setFbkCfg (v : Word) (c : Cabinet) : Cabinet :=
  let v := if fld v 4 4 > 11 then setFld v 4 4 0 else v
  let v := setFld v 8 9 (min (fld v 8 9) 256)
  let v := if c.normalService then setFld c.fbk.cfg 8 9 (fld v 8 9) else v
  let new := fld v 0 2 != fbkMode c
  let f := { c.fbk with cfg := v }
  { c with fbk := if new then fbkAdopt { f with period := 0xFFFFFFFF } else f }

/-- A write of FBK_TCFG. -/
def setFbkTcfg (v : Word) (c : Cabinet) : Cabinet :=
  let v := setFld v 0 11 (clampN 3 1024 (fld v 0 11))
  let v := setFld v 11 3 (fselStored (fld v 11 3))
  let v := setFld (setFld v 16 8 (max (fld v 16 8) 17)) 24 4 (max (fld v 24 4) 1)
  let change := fld v 0 14 != fld c.fbk.tcfg 0 14
  { c with fbk := { c.fbk with tcfg := v, tsync := if change then .nosync else c.fbk.tsync } }

/-- The effect of a write of an FBK_ register with the merged value `v`. -/
def fbkSet (off : Nat) (v : Word) (c : Cabinet) : Cabinet :=
  if off = 0x000 then setFbkCfg v c
  else if off = 0x004 then setFbkTcfg v c
  else if off = 0x008 then { c with fbk := { c.fbk with xcfg := v } }
  else if off = 0x010 then { c with fbk := { c.fbk with pos := v } }
  else if off = 0x014 then { c with fbk := { c.fbk with hpos := v } }
  else if off = 0x018 then { c with fbk := { c.fbk with tidx := if fld v 0 11 ≥ fbkTeeth c then 0 else fld v 0 11 } }
  else if off = 0x030 then { c with fbk := { c.fbk with stat := v } }
  else if off = 0x040 then extposWrite v c
  else c

end Sys2Proof.Machine
end

