-- ==== Sys2Proof/Machine/Drawers.lean ====
section
/-!
DEFINITION. The drawers of one cabinet (spec/11_drawers.md): steps, actions, stalls, queues, starting and stopping, the
table port, pins, the position path and the DRW_ registers.
-/
namespace Sys2Proof.Machine

/-- Replaces drawer `n`. -/
def setDrw (c : Cabinet) (n : Fin 4) (d : Drawer) : Cabinet := { c with drw := { c.drw with dr := c.drw.dr.set n d } }

/-- DRW_nPIN.GPj, MODEj and SAFEj. -/
def Drawer.gp (d : Drawer) (j : Nat) : Nat := fld d.pin (8 * j) 4
def Drawer.pinMode (d : Drawer) (j : Nat) : Nat := fld d.pin (8 * j + 4) 2
def Drawer.pinSafe (d : Drawer) (j : Nat) : Nat := fld d.pin (8 * j + 6) 2

/-- GWID and SWID. -/
def Drawer.gwid (d : Drawer) : Nat := fld d.cfg 8 5 + 1
def Drawer.swid (d : Drawer) : Nat := fld d.cfg 16 5 + 1

/-- The drawer clocks of a step, DIV + 1 (R368). -/
def Drawer.period (d : Drawer) : Nat := fld d.cfg 0 8 + 1

/-! ## Pins (R371, R373, R385, R388) -/

/-- Drawer pin `j` is mapped to general pin `g` and may drive it. -/
def Drawer.mapsOut (d : Drawer) (j g : Nat) : Bool := d.gp j == g && decide (2 ≤ d.pinMode j)

/-- What drawer pin `j` drives: `none` for high impedance. -/
def Drawer.drive (d : Drawer) (j : Nat) : Option Bool :=
  if d.pinsSafe then (if d.pinSafe j = 0 then some false else if d.pinSafe j = 1 then some true else none)
  else if d.pinMode j = 3 && d.oe / 2 ^ j % 2 = 0 then none
  else some (d.out / 2 ^ j % 2 == 1)

/-- What the lowest-numbered drawer that maps general pin `g` for output drives (R385); of two pins of one drawer the lower
one drives (log 105). -/
def gpDrive (g : Nat) (c : Cabinet) : Option Bool :=
  match findIdx (fun i => (c.drw.dr[Fin.ofNat 4 (i / 4)]).mapsOut (i % 4) g) 16 0 with
  | none => none
  | some i => (c.drw.dr[Fin.ofNat 4 (i / 4)]).drive (i % 4)

/-- The general pins that drawers drive, and their levels. -/
def drivenPins (c : Cabinet) : Nat × Nat :=
  (List.range 12).foldl (fun x g =>
    match gpDrive g c with
    | none => x
    | some b => (x.1 + 2 ^ g, x.2 + b.toNat * 2 ^ g)) (0, 0)

/-- The synchronized level of general pin `g` (R371): what a drawer drove at the start of the second drawer clock before, else the level
outside. -/
def gpLevel (g : Nat) (c : Cabinet) : Bool :=
  let h := c.drw.driven[2]
  if h.1 / 2 ^ g % 2 = 1 then h.2 / 2 ^ g % 2 == 1 else c.drw.gpExt / 2 ^ g % 2 == 1

/-- The input value of drawer pin `j`; a pin without a general pin reads 0. -/
def drwPin (d : Drawer) (j : Nat) (c : Cabinet) : Bool := decide (d.gp j ≤ 11) && gpLevel (d.gp j) c

/-! ## Events that reach a drawer (R372) -/

/-- The frame-sync latch of drawer `n` sets. -/
def frameLatch (d : Drawer) : Drawer := if d.frmLatch then { d with evlost := true } else { d with frmLatch := true, frmNew := true }

/-- The interrupt-line latch sets. -/
def lineLatch (d : Drawer) : Drawer := if d.irqLatch then { d with evlost := true } else { d with irqLatch := true, irqNew := true }

/-- Event 6 of R77: the frame-sync latches. -/
def drwFrameSync (c : Cabinet) : Cabinet := { c with drw := { c.drw with dr := c.drw.dr.map frameLatch } }

/-- An interrupt-line event with ISRC code `src`. -/
def drwLine (src : Nat) (c : Cabinet) : Cabinet :=
  { c with drw := { c.drw with dr := c.drw.dr.map (fun d => if fld d.cfg 24 5 = src then lineLatch d else d) } }

/-! ## Steps and actions (R369 to R378) -/

/-- The value of selector code `s` (R370). -/
def drwInput (d : Drawer) (s : Nat) (c : Cabinet) : Bool :=
  match s with
  | 0 => drwPin d 0 c
  | 1 => drwPin d 1 c
  | 2 => drwPin d 2 c
  | 3 => drwPin d 3 c
  | 4 => d.flag % 2 == 1
  | 5 => d.flag / 2 % 2 == 1
  | 6 => d.irqLatch && !d.irqNew
  | 7 => d.frmLatch && !d.frmNew
  | 8 => d.scnt == 0
  | 9 => d.gcnt == d.gwid
  | _ => false

/-- A table word and whether its parity holds (R383, R384); one nothing has written is a free value. -/
def drwTable (n : Fin 4) (a : Nat) (c : Cabinet) : Word × Bool :=
  match assocGet a c.drw.dr[n].table with
  | some (w, bad) => (w, !bad)
  | none => (Config.drawerWord c.id.val n.val a c.mems.epoch, Config.drawerParityOk c.id.val n.val a c.mems.epoch)

/-- The drawer stops (R380): a stall in progress is abandoned. -/
def Drawer.halt (d : Drawer) : Drawer := { d with run := false, stall := none, stallFlagged := false }

/-- A parity failure stops the drawer (R384). -/
def drwParityStop (n : Fin 4) (c : Cabinet) : Cabinet :=
  raiseErr .drw (bitW (4 + n.val)) ((setDrw c n c.drw.dr[n].halt).orIrq .drw (bitW (4 + n.val)))

/-- The entry cannot complete now (R377): the queues and the position buffer are taken as they stood at the start of the drawer clock
(R379). -/
def drwStalls (d : Drawer) (w : Word) : Bool :=
  (fld w 21 3 == 2 && ((bit w 24 && decide (4 ≤ d.inq.length + d.iqOut)) || (bit w 25 && (d.posBuf.isSome || d.posFreed)))) ||
  (fld w 21 3 == 3 && decide (d.outq.length ≤ d.oqIn))

/-- The gather part of BIT (R375): the drawer, and whether it is an error; GCNT above GWID gathers on (log 105). -/
def bitGather (d : Drawer) (b : Bool) : Drawer × Bool :=
  if d.gcnt = d.gwid then (d, true)
  else
    let g := if bit d.cfg 13 then (d.gath <<< 1) ||| boolAt b 0 else d.gath ||| boolAt b d.gcnt
    ({ d with gath := g, gcnt := d.gcnt + 1 }, false)

/-- The send part of BIT (R375): the OUT bit of drawer pin `j`; SCNT above SWID sends 0 (log 105). -/
def bitSend (d : Drawer) (j : Nat) : Drawer × Bool :=
  if d.scnt = 0 then (d, true)
  else
    let b := if bit d.cfg 21 then bit d.send (d.scnt - 1) else bit d.send (d.swid - d.scnt)
    let o := d.out - (d.out / 2 ^ j % 2) * 2 ^ j + b.toNat * 2 ^ j
    ({ d with out := o, scnt := d.scnt - 1 }, false)

/-- BIT (R375): the gather part first. The Boolean is BITERR. -/
def actBit (arg : Nat) (gathered : Bool) (d : Drawer) : Drawer × Bool :=
  let (d, e1) := if arg / 2 % 2 = 1 then bitGather d gathered else (d, false)
  let (d, e2) := if arg % 2 = 1 then bitSend d (arg / 4 % 4) else (d, false)
  (d, e1 || e2)

/-- DEPOSIT (R376): the drawer, and whether its inbound queue became non-empty (R392). -/
def actDeposit (arg : Nat) (d : Drawer) : Drawer × Bool :=
  let toQ := arg % 2 == 1
  ({ d with
      inq := if toQ then d.inq ++ [d.gath] else d.inq, iqIn := if toQ then d.iqIn + 1 else d.iqIn,
      posBuf := if arg / 2 % 2 = 1 then some d.gath else d.posBuf, gath := 0, gcnt := 0 },
   toQ && d.inq.isEmpty)

/-- FETCH (R374): the drawer, and whether its outbound queue became empty. -/
def actFetch (d : Drawer) : Drawer × Bool :=
  match d.outq with
  | [] => (d, false)
  | w :: q => ({ d with send := w, scnt := d.swid, outq := q, oqOut := d.oqOut + 1 }, q.isEmpty)

/-- Executes an entry that does not stall (R373 to R376). -/
def drwApply (n : Fin 4) (w : Word) (c : Cabinet) : Cabinet :=
  let d0 := c.drw.dr[n]
  let arg := fld w 24 8
  let next := fld w 0 6
  let gathered := drwPin d0 (arg / 16 % 4) c
  let c := bump 0x2E 1 {} c
  let d := { d0 with
    out := fld w 12 4, oe := fld w 16 4, pinsSafe := false, state := next, stall := none, stallFlagged := false, clk := d0.period }
  match fld w 21 3 with
  | 1 =>
    let (d, err) := actBit arg gathered d
    let c := setDrw c n d
    if err then raiseErr .drw (bitW (12 + n.val)) c else c
  | 2 =>
    let (d, ne) := actDeposit arg d
    let c := setDrw c n d
    if ne then c.orIrq .drw (bitW (12 + n.val)) else c
  | 3 =>
    let (d, em) := actFetch d
    let c := setDrw c n d
    if em then c.orIrq .drw (bitW (8 + n.val)) else c
  | 4 =>
    let i := arg % 2
    setDrw c n { d with flag := d.flag - (d.flag / 2 ^ i % 2) * 2 ^ i + (arg / 2 % 2) * 2 ^ i }
  | 5 =>
    let c := setDrw c n d
    let c := if arg % 2 = 1 then c.orIrq .drw (bitW n.val) else c
    if arg / 2 % 2 = 1 then drwLine (16 + n.val) c else c
  | 6 => setDrw c n { d with state := d0.state, wait := some (arg + 1, next) }
  | 7 => (setDrw c n { d with run := false }).orIrq .drw (bitW (4 + n.val))
  | _ => setDrw c n d

/-- Executes an entry, or stalls on it (R377). -/
def drwEntry (n : Fin 4) (w : Word) (c : Cabinet) : Cabinet :=
  let d := c.drw.dr[n]
  if drwStalls d w then setDrw c n { d with stall := some w, stallClk := 0 } else drwApply n w c

/-- A step of the drawer begins now: it runs, and DIV + 1 drawer clocks have passed since its last step (R368). -/
def drwReady (d : Drawer) : Bool := d.run && d.stall.isNone && d.wait.isNone && d.clk == 0

/-- An entry with the given action, as if its step had selected it. -/
def entryWord (act arg oe out next : Nat) : Word := natAt next 0 ||| natAt out 12 ||| natAt oe 16 ||| natAt act 21 ||| natAt arg 24

/-- One action of a drawer that is ready for a step (the rows BIT to STOP). -/
def drwAction (n : Fin 4) (act arg oe out next : Nat) (c : Cabinet) : Cabinet :=
  if drwReady c.drw.dr[n] then drwEntry n (entryWord act (arg % 256) (oe % 16) (out % 16) (next % 64)) c else c

/-- WAIT_END: the steps of a WAIT have passed, and the drawer enters NEXT (R374), whose step begins now. They pass with the drawer clock
(`drwClock`). -/
def waitEnd (n : Fin 4) (c : Cabinet) : Cabinet :=
  let d := c.drw.dr[n]
  match d.wait with
  | some (1, next) =>
    if d.run && d.clk == 0 then setDrw c n { d with wait := none, state := next } else c
  | _ => c

/-- A drawer clock begins: the drawer, and whether a further step of a WAIT begins. Such a step drives the entry's outputs, also after a
trip stop (R374, R388). -/
def drwClock (d : Drawer) : Drawer × Bool :=
  let d := { d with
    irqNew := false, frmNew := false, oqIn := 0, oqOut := 0, iqIn := 0, iqOut := 0, posFreed := false, clk := d.clk - 1
    stallClk := if d.run && d.stall.isSome then d.stallClk + 1 else d.stallClk }
  match d.wait with
  | some (r + 2, next) => if d.run && d.clk == 0 then ({ d with wait := some (r + 1, next), pinsSafe := false, clk := d.period }, true) else (d, false)
  | _ => (d, false)

/-- One step of a running drawer (R369 to R372) with the synchronized levels at the twelve general pins that no drawer drives. -/
def drwStep (n : Fin 4) (levels : Nat) (c : Cabinet) : Cabinet :=
  let d := c.drw.dr[n]
  if drwReady d then
    let c := { c with drw := { c.drw with gpExt := levels % 4096 } }
    let (sel, okS) := drwTable n (0x200 + d.state) c
    if !okS then drwParityStop n c
    else
      let s0 := fld sel 0 4
      let s1 := fld sel 4 4
      let s2 := fld sel 8 4
      let i := 4 * (drwInput d s2 c).toNat + 2 * (drwInput d s1 c).toNat + (drwInput d s0 c).toNat
      let used (x : Nat) : Bool := s0 == x || s1 == x || s2 == x
      let d := { d with
        irqLatch := d.irqLatch && (!used 6 || d.irqNew), frmLatch := d.frmLatch && (!used 7 || d.frmNew) }
      let c := setDrw c n d
      let (w, okE) := drwTable n (8 * d.state + i) c
      if !okE then drwParityStop n c else drwEntry n w c
  else c

/-- A stalled step completes when its condition is met (R377). -/
def stallComplete (n : Fin 4) (c : Cabinet) : Cabinet :=
  match c.drw.dr[n].stall with
  | some w => if c.drw.dr[n].run && !drwStalls c.drw.dr[n] w then drwApply n w c else c
  | none => c

/-- STALL_LIMIT: a stall has lasted LIMIT drawer clocks (R378). -/
def stallLimit (n : Fin 4) (c : Cabinet) : Cabinet :=
  let d := c.drw.dr[n]
  if d.run && d.stall.isSome && !d.stallFlagged && fld d.sto 0 16 != 0 && decide (fld d.sto 0 16 ≤ d.stallClk) then
    raiseErr .drw (bitW n.val) (setDrw c n { d with stallFlagged := true })
  else c

/-! ## Control and queues (R379 to R383) -/

/-- A write that sets RUN from 0 to 1 (R381): the first step begins in the next drawer clock. -/
def drwStart (n : Fin 4) (state : Nat) (c : Cabinet) : Cabinet :=
  let d := c.drw.dr[n]
  if d.run then c else setDrw c n { d with run := true, safed := false, state := state % 64, clk := 1 }

/-- A write of 0 to RUN (R380). -/
def drwStop (n : Fin 4) (c : Cabinet) : Cabinet :=
  if c.drw.dr[n].run then setDrw c n c.drw.dr[n].halt else c

/-- FLUSH while the drawer is stopped: both queues empty, and so do the bit counts. -/
def drwFlush (n : Fin 4) (c : Cabinet) : Cabinet :=
  let d := c.drw.dr[n]
  if d.run then c
  else
    let c' := setDrw c n { d with outq := [], inq := [], gcnt := 0, scnt := 0 }
    if d.outq.isEmpty then c' else c'.orIrq .drw (bitW (8 + n.val))

/-- A write of DRW_nCTL: FLUSH acts on the stopped drawer, then RUN. -/
def drwCtl (n : Fin 4) (w : Word) (c : Cabinet) : Cabinet :=
  let c := if bit w 1 then drwFlush n c else c
  if bit w 0 then drwStart n (fld w 8 6) c else drwStop n c

/-- A write of DRW_nOUTQ (R379). -/
def outqWrite (n : Fin 4) (w : Word) (c : Cabinet) : Cabinet :=
  let d := c.drw.dr[n]
  setDrw c n (if d.outq.length + d.oqOut ≥ 4 then { d with oqof := true } else { d with outq := d.outq ++ [w], oqIn := d.oqIn + 1 })

/-- The word that a read of DRW_nINQ takes: none where the queue stood empty at the start of the drawer clock (R379). -/
def inqFront (d : Drawer) : Option Word := if d.inq.length ≤ d.iqIn then none else d.inq.head?

/-- The removal that a read of DRW_nINQ makes (R379). -/
def inqPop (n : Fin 4) (c : Cabinet) : Cabinet :=
  let d := c.drw.dr[n]
  setDrw c n (if (inqFront d).isSome then { d with inq := d.inq.drop 1, iqOut := d.iqOut + 1 } else { d with iquf := true })

/-- A write denied while the drawer runs (R382). -/
def drwDenied (n : Fin 4) (c : Cabinet) : Cabinet := raiseErr .drw (bitW (8 + n.val)) c

/-- A write of DRW_nTDATA (R382, R383). -/
def tdataWrite (n : Fin 4) (w : Word) (c : Cabinet) : Cabinet :=
  let d := c.drw.dr[n]
  if d.run then drwDenied n c
  else
    let t := if d.taddr < 0x240 then assocPut d.taddr (w, false) d.table else d.table
    setDrw c n { d with table := t, taddr := (d.taddr + 1) % 1024 }

/-- What a read of DRW_nTDATA returns (R383). -/
def tdataGet (n : Fin 4) (c : Cabinet) : Word :=
  let d := c.drw.dr[n]
  if d.run || decide (d.taddr ≥ 0x240) then 0 else (drwTable n d.taddr c).1

/-- The step of ADDR that a read of DRW_nTDATA makes (R383). -/
def tdataRead (n : Fin 4) (c : Cabinet) : Cabinet :=
  let d := c.drw.dr[n]
  if d.run then c else setDrw c n { d with taddr := (d.taddr + 1) % 1024 }

/-- A drawer's bus requester writes its position buffer to FBK_EXTPOS (R387); `lost`: a software write finishes in the same
cycle. -/
def posBufWrite (n : Fin 4) (lost : Bool) (c : Cabinet) : Cabinet :=
  match c.drw.dr[n].posBuf with
  | some v => extposDrawer v lost (setDrw c n { c.drw.dr[n] with posBuf := none, posFreed := true })
  | none => c

/-- Waking from PARKED (R389). -/
def drwWake (c : Cabinet) : Cabinet :=
  { c with drw := { c.drw with dr := c.drw.dr.map (fun d => { d with frmLatch := false, frmNew := false, stallClk := 0 }) } }

/-- A reset of class C (R390): the tables keep their contents. -/
def drwReset (c : Cabinet) : Cabinet :=
  { c with drw := { dr := c.drw.dr.map (fun d => { table := d.table }), gpExt := c.drw.gpExt, driven := c.drw.driven, phase := c.drw.phase } }

/-! ## Registers (R393) -/

/-- Cards of the DRW_ registers. -/
def drwCard (off : Nat) : Card :=
  if off < 0x100 then
    match off % 0x40 with
    | 0x00 => { rwK := 0x3F01, wo := 2 }
    | 0x04 => cardK 0x3F3F3FFF
    | 0x08 => cardK 0xFFFFFFFF
    | 0x0C => cardK 0xFFFF
    | 0x10 => { wo := 0xFFFFFFFF }
    | 0x18 => cardC 0x1C00
    | 0x1C => cardK 3
    | 0x20 => cardK 0x3FF
    | 0x24 => cardK 0xFFFFFFFF
    | _ => {}
  else if off = 0x100 then cardK 0x00FFFFFF
  else {}

/-- DRW_nSTAT. -/
def drwStat (d : Drawer) : Word :=
  natAt d.outq.length 0 ||| natAt d.inq.length 4 ||| boolAt d.stall.isSome 8 ||| boolAt d.wait.isSome 9 ||| boolAt d.oqof 10 |||
  boolAt d.iquf 11 ||| boolAt d.evlost 12 ||| boolAt d.posBuf.isSome 13 ||| boolAt d.irqLatch 14 ||| boolAt d.frmLatch 15 |||
  natAt d.gcnt 16 ||| natAt d.scnt 24

/-- The current value of a DRW_ register. -/
def drwGet (off : Nat) (c : Cabinet) : Word :=
  if h : off < 0x100 then
    let n : Fin 4 := ⟨off / 0x40, by omega⟩
    let d := c.drw.dr[n]
    match off % 0x40 with
    | 0x00 => boolAt d.run 0 ||| boolAt d.safed 2 ||| natAt d.state 8
    | 0x04 => d.cfg
    | 0x08 => d.pin
    | 0x0C => d.sto
    | 0x14 => (inqFront d).getD 0
    | 0x18 => drwStat d
    | 0x1C => natAt d.flag 0
    | 0x20 => natAt d.taddr 0
    | 0x24 => tdataGet n c
    | 0x28 => d.gath
    | 0x2C => d.send
    | _ => 0
  else if off = 0x100 then c.drw.gpcfg
  else if off = 0x104 then (List.range 12).foldl (fun w g => w ||| boolAt (gpLevel g c) g) 0
  else 0

/-- A read's side effects: DRW_nINQ and DRW_nTDATA. -/
def drwReadEffect (off : Nat) (c : Cabinet) : Cabinet :=
  if h : off < 0x100 then
    let n : Fin 4 := ⟨off / 0x40, by omega⟩
    match off % 0x40 with
    | 0x14 => inqPop n c
    | 0x24 => tdataRead n c
    | _ => c
  else c

/-- Two-bit codes of 0b11 replaced by `v`. -/
def fixCodes (v : Nat) : List Nat → Word → Word
  | [], w => w
  | lo :: t, w => fixCodes v t (if fld w lo 2 = 3 then setFld w lo 2 v else w)

/-- A general pin that drawer `n` maps for output is mapped for output by another drawer too (R385). -/
def pinConflict (n : Fin 4) (c : Cabinet) : Bool :=
  (List.finRange 4).any (fun m => m != n && (List.range 4).any (fun j => (List.range 4).any (fun i =>
    decide (2 ≤ c.drw.dr[n].pinMode j) && decide (c.drw.dr[n].gp j ≤ 11) && c.drw.dr[m].mapsOut i (c.drw.dr[n].gp j))))

/-- A write of DRW_nPIN (R382, R385). -/
def drwPinWrite (n : Fin 4) (v : Word) (c : Cabinet) : Cabinet :=
  if c.drw.dr[n].run then drwDenied n c
  else
    let c := setDrw c n { c.drw.dr[n] with pin := fixCodes 2 [6, 14, 22, 30] v }
    if pinConflict n c then raiseErr .drw 0x10000 c else c

/-- The effect of a write of a DRW_ register: `v` is the merged value, `w` the word written. -/
def drwSet (off : Nat) (v w : Word) (c : Cabinet) : Cabinet :=
  if h : off < 0x100 then
    let n : Fin 4 := ⟨off / 0x40, by omega⟩
    let d := c.drw.dr[n]
    match off % 0x40 with
    | 0x00 => drwCtl n w c
    | 0x04 => if d.run then drwDenied n c else setDrw c n { d with cfg := v }
    | 0x08 => drwPinWrite n v c
    | 0x0C => setDrw c n { d with sto := v }
    | 0x10 => outqWrite n w c
    | 0x18 => setDrw c n { d with oqof := bit v 10, iquf := bit v 11, evlost := bit v 12 }
    | 0x1C => setDrw c n { d with flag := fld v 0 2 }
    | 0x20 => setDrw c n { d with taddr := fld v 0 10 }
    | 0x24 => tdataWrite n w c
    | _ => c
  else if off = 0x100 then
    { c with drw := { c.drw with gpcfg := fixCodes 0 [0, 2, 4, 6, 8, 10, 12, 14, 16, 18, 20, 22] v } }
  else c

end Sys2Proof.Machine
end

