-- ==== Sys2Proof/Machine/Timer.lean ====
section
/-!
DEFINITION. The time base, compare channels, captures and the cabinet interrupt controller
(spec/12_time_base_and_interrupts.md), with the TMR_ and ICU_ registers.
-/
namespace Sys2Proof.Machine

/-! ## Time base (R394 to R399) -/

/-- A delivery makes a step (R398): outside normal service, for more than 64 ticks or at the first delivery after a reset of
class P. -/
def offsetSteps (ofs : Int) (c : Cabinet) : Bool := !c.normalService && (decide (ofs.natAbs > 64) || !c.tmr.delivered)

/-- ALIGNED takes a value (R399): its causes set on a change. -/
def setAligned (a : Bool) (c : Cabinet) : Cabinet :=
  if a == c.tmr.aligned then c
  else ({ c with tmr := { c.tmr with aligned := a } }).orIrq .tmr (if a then 4 else 2)

/-- The sideboard delivers an offset, the count minus ring time (R396 to R399). None arrives in holdover, in free-run or while
the clocks are stopped. -/
def offsetDelivery (ofs : Int) (c : Cabinet) : Cabinet :=
  if c.hold || c.freeRun || !c.clocksRun then c
  else
    let t := { c.tmr with ofs := ofs, delivered := true, quiet := 0 }
    let c' := if offsetSteps ofs c then
        ({ c with tmr := { t with count := t.count - BitVec.ofInt 64 ofs, rem := 0 } }).orIrq .tmr 1
      else { c with tmr := { t with rem := - ofs } }
    setAligned (decide (ofs.natAbs ≤ 6)) c'

/-- A channel at the start of a tick: a write in flight takes part once its first evaluation has come (R401). -/
def CmpCh.tick (x : CmpCh) : CmpCh :=
  let x := { x with done := false }
  match x.inflight with
  | none => x
  | some (v, n + 2) => { x with inflight := some (v, n + 1) }
  | some (some v, _) => { x with cmp := v, armed := true, inflight := none }
  | some (none, _) => { x with armed := false, inflight := none }

/-- Ticks in 4 ms (R399). -/
def alignTicks : Nat := 1280000

/-- The capture inputs whose queue was full at a capture of the present tick (R408, R409). -/
def capLost (c : Cabinet) : Word :=
  (List.finRange 8).foldl (fun w i => if (c.tmr.cap[i]).excess.isSome then w ||| bitW i.val else w) 0

/-- The captures of `lost` overflow: OVF and COVF set (R408). -/
def capOverflow (lost : Word) (c : Cabinet) : Cabinet :=
  if lost = 0 then c else raiseErr .tmr lost { c with tmr := { c.tmr with ovf := c.tmr.ovf ||| lost } }

/-- A tick begins, and the count advances by `by'` (R394, R397). FBK_AGE counts ticks (10 R348). The captures that the tick before found
no room for are lost. -/
def beginTick (by' : BitVec 64) (c : Cabinet) : Cabinet :=
  let t := c.tmr
  let g := (t.group + 1) % 256
  capOverflow (capLost c) { c with
    tmr := { t with
      phase := false, count := t.count + by', before := t.count, tested := t.before, group := g, slewed := t.slewed && g != 0
      quiet := min (t.quiet + 1) alignTicks, ch := t.ch.map CmpCh.tick, cap := t.cap.map (fun x => { x with inTick := 0, excess := none }) }
    fbk := { c.fbk with age := if c.fbk.age == 0xFFFFFFFF then c.fbk.age else c.fbk.age + 1 } }

/-- SLEW_TICK (R397): a tick in which the count advances by 2 or by 0, once in each group of 256. -/
def slewTick (c : Cabinet) : Cabinet :=
  let r := c.tmr.rem
  if r = 0 || c.tmr.slewed then c
  else
    let c := beginTick (if r > 0 then 2 else 0) c
    { c with tmr := { c.tmr with slewed := true, rem := if r > 0 then r - 1 else r + 1 } }

/-- ALIGNMENT_TIMEOUT: 4 ms have passed without a delivery (R399). -/
def alignTimeout (c : Cabinet) : Cabinet := if alignTicks ≤ c.tmr.quiet then setAligned false c else c

/-- The count takes ring time (R398): at the end of a reset of class C and during wake. -/
def stepTo (ring : BitVec 64) (c : Cabinet) : Cabinet :=
  ({ c with tmr := { c.tmr with count := ring, rem := 0, phase := false } }).orIrq .tmr 1

/-! ## Compare channels (R400 to R406) -/

/-- Replaces channel `n`. -/
def setCh (c : Cabinet) (n : Fin 16) (x : CmpCh) : Cabinet := { c with tmr := { c.tmr with ch := c.tmr.ch.set n x } }

/-- The ticks from a write that arrives now to its first evaluation (R401, R402): the second tick that begins two cycles later or more. -/
def firstTick (c : Cabinet) : Nat := if c.tmr.phase then 3 else 2

/-- A write of TMR_CMPnH arms the channel (R401). -/
def cmpArm (n : Fin 16) (hi : Word) (c : Cabinet) : Cabinet :=
  let x := c.tmr.ch[n]
  setCh c n { x with inflight := some (some (hi ++ x.heldLo), firstTick c) }

/-- A write of TMR_CMPnL is held (R401). -/
def cmpHold (n : Fin 16) (lo : Word) (c : Cabinet) : Cabinet := setCh c n { c.tmr.ch[n] with heldLo := lo }

/-- TMR_CMPnST.DISARM (R405). -/
def cmpDisarm (n : Fin 16) (c : Cabinet) : Cabinet := setCh c n { c.tmr.ch[n] with inflight := some (none, firstTick c) }

/-- `a` is not after `b`, modulo 2^64 (R400). -/
def notAfter (a b : BitVec 64) : Bool := decide ((b - a).toNat < 2 ^ 63)

/-- COMPARE_FIRE: channel `n` is evaluated in this tick against the count of two ticks before, and fires when it may (R400, R403,
R404). -/
def compareFire (n : Fin 16) (c : Cabinet) : Cabinet :=
  let x := c.tmr.ch[n]
  if x.armed && !x.done && notAfter x.cmp c.tmr.tested then
    let late := c.tmr.tested != x.cmp
    let x' := if x.per = 0 then { x with armed := false, done := true } else { x with cmp := x.cmp + x.per.setWidth 64, done := true }
    let c := setCh c n x'
    let c := { c with tmr := { c.tmr with cmpflag := c.tmr.cmpflag ||| bitW n.val ||| boolAt late (16 + n.val) } }
    drwLine n.val (seqCompare n.val (pulse n.val (bump 0x30 1 {} c)))
  else c

/-! ## Captures (R407 to R410) -/

/-- Replaces capture input `i`. -/
def setCap (c : Cabinet) (i : Fin 8) (x : CapIn) : Cabinet := { c with tmr := { c.tmr with cap := c.tmr.cap.set i x } }

/-- TMR_CAPnCFG.SRC. -/
def CapIn.src (x : CapIn) : Nat := fld x.cfg 0 5

/-- The input takes an event: a source is selected and EDGE is not 0b00; of a pin, an edge of the direction that EDGE selects (its card),
two ticks or more after the last accepted one (R407). -/
def capOn (x : CapIn) (rising : Bool) (now : BitVec 64) : Bool :=
  let e := fld x.cfg 5 2
  if x.src ≤ 0x0B then
    (e == 3 || e == (if rising then 1 else 2)) && x.lastEdge.all (fun t => decide (2 ≤ (now - t).toNat))
  else e != 0 && x.src != 0x0F

/-- The count a capture records (R407). -/
def capStamp (i : Fin 8) (c : Cabinet) : BitVec 64 :=
  let s := c.tmr.cap[i].src
  if s = 0x0C ∨ s = 0x0D then c.fbk.edgets
  else if s = 0x0E then c.fbk.extts
  else c.tmr.count + BitVec.ofNat 64 (Config.edgeJitter c.id.val (16 + i.val) c.free % 3) - 1

/-- A timestamp joins the queue of an input, with a pulse to its source (R408). -/
def capQueue (i : Fin 8) (ts : BitVec 64) (c : Cabinet) : Cabinet :=
  let x := c.tmr.cap[i]
  pulse (16 + i.val) (bump 0x31 1 {} (setCap c i { x with queue := x.queue ++ [ts], inTick := x.inTick + 1 }))

/-- CAPTURE: the event of a capture input occurs, at a pin an edge (R407, R408). One that finds the queue full overflows when its tick
ends, where no read of the tick makes room (R409; log 99). -/
def capture (i : Fin 8) (rising : Bool) (c : Cabinet) : Cabinet :=
  let x := c.tmr.cap[i]
  if capOn x rising c.tmr.count then
    let ts := capStamp i c
    let x := { x with lastEdge := if x.src ≤ 0x0B then some c.tmr.count else x.lastEdge }
    if x.queue.length ≥ 4 then setCap c.takeFree i { x with excess := some (x.excess.getD ts) }
    else capQueue i ts (setCap c.takeFree i x)
  else c

/-- The entry that a read of TMR_CAPn takes, and what remains: none where the queue stood empty at the start of the tick (R409). -/
def capFront (x : CapIn) : Option (BitVec 64 × List (BitVec 64)) :=
  if x.queue.length ≤ x.inTick then none
  else
    match x.queue with
    | [] => none
    | t :: q => some (t, q)

/-- What a read of TMR_CAPn returns (R409): LEFT counts a capture of the same tick. -/
def capWord (x : CapIn) : Word :=
  match capFront x with
  | none => 0
  | some (_, q) => 1 ||| natAt (q.length + x.excess.toList.length) 4

/-- The pop that a read of TMR_CAPn makes: it makes room for a capture of the same tick that found the queue full (R409). -/
def capPop (i : Fin 8) (c : Cabinet) : Cabinet :=
  match capFront c.tmr.cap[i] with
  | none => c
  | some (t, q) =>
    let x := c.tmr.cap[i]
    let c := setCap c i { x with queue := q, ts := t, excess := none }
    match x.excess with
    | none => c
    | some z => capQueue i z c

/-- A write of TMR_CAPnCFG (R410). -/
def capCfg (i : Fin 8) (v w : Word) (c : Cabinet) : Cabinet :=
  let x := { c.tmr.cap[i] with cfg := v }
  setCap c i (if bit w 7 then { x with queue := [], inTick := 0 } else x)

/-! ## TMR_ registers (R423) -/

/-- Cards of the TMR_ registers. -/
def tmrCard (off : Nat) : Card :=
  if (regIdx off 0x040 16 16).isSome ∨ (regIdx off 0x044 16 16).isSome ∨ (regIdx off 0x048 16 16).isSome then cardK 0xFFFFFFFF
  else if (regIdx off 0x04C 16 16).isSome then { wo := 0x100 }
  else if off = 0x140 then cardC 0xFFFFFFFF
  else if off = 0x180 then cardC 0xFF
  else if (regIdx off 0x200 16 8).isSome then { rwK := 0x7F, wo := 0x80 }
  else {}

/-- An offset saturated to a signed word (R396). -/
def ofsWord (x : Int) : Word := wordOfInt (satS 32 x).1

/-- The current value of a TMR_ register. -/
def tmrGet (off : Nat) (c : Cabinet) : Word :=
  let t := c.tmr
  match regIdx off 0x040 16 16 with
  | some n => (t.ch[n].cmp).setWidth 32
  | none =>
  match regIdx off 0x044 16 16 with
  | some n => hiWord t.ch[n].cmp
  | none =>
  match regIdx off 0x048 16 16 with
  | some n => t.ch[n].per
  | none =>
  match regIdx off 0x04C 16 16 with
  | some n => boolAt t.ch[n].armed 0 ||| boolAt t.ch[n].inflight.isSome 1
  | none =>
  match regIdx off 0x200 16 8 with
  | some i => t.cap[i].cfg
  | none =>
  match regIdx off 0x204 16 8 with
  | some i => capWord t.cap[i]
  | none =>
  match regIdx off 0x208 16 8 with
  | some i => (t.cap[i].ts).setWidth 32
  | none =>
  match regIdx off 0x20C 16 8 with
  | some i => hiWord t.cap[i].ts
  | none =>
    if off = 0x000 then t.count.setWidth 32
    else if off = 0x004 then t.tbHi
    else if off = 0x008 then boolAt t.aligned 0 ||| boolAt (t.rem != 0) 1
    else if off = 0x00C then ofsWord t.ofs
    else if off = 0x140 then t.cmpflag
    else if off = 0x180 then (List.finRange 8).foldl (fun w i => w ||| boolAt (!t.cap[i].queue.isEmpty) (8 + i.val)) t.ovf
    else 0

/-- A read of TMR_TBL latches the high half (R395); a read of TMR_CAPn pops. -/
def tmrReadEffect (off : Nat) (c : Cabinet) : Cabinet :=
  match regIdx off 0x204 16 8 with
  | some i => capPop i c
  | none => if off = 0x000 then { c with tmr := { c.tmr with tbHi := hiWord c.tmr.count } } else c

/-- The effect of a write of a TMR_ register: `v` is the merged value, `w` the word written. -/
def tmrSet (off : Nat) (v w : Word) (c : Cabinet) : Cabinet :=
  match regIdx off 0x040 16 16 with
  | some n => cmpHold n w c
  | none =>
  match regIdx off 0x044 16 16 with
  | some n => cmpArm n w c
  | none =>
  match regIdx off 0x048 16 16 with
  | some n => setCh c n { c.tmr.ch[n] with per := v }
  | none =>
  match regIdx off 0x04C 16 16 with
  | some n => if bit w 8 then cmpDisarm n c else c
  | none =>
  match regIdx off 0x200 16 8 with
  | some i => capCfg i v w c
  | none =>
    if off = 0x140 then { c with tmr := { c.tmr with cmpflag := v } }
    else if off = 0x180 then { c with tmr := { c.tmr with ovf := v &&& 0xFF } }
    else c

/-! ## Interrupt controller (R411 to R421) -/

/-- The level of a source's input: event sources follow their block, all others are pulses (R411). -/
def srcInput (n : Nat) (c : Cabinet) : Bool :=
  [Blk.cnv, .pwm, .fbk, .drw, .tmr, .par, .prf, .ord].any (fun b => evSrc b == some n && evLevel c b)

/-- The running priority (R414). -/
def runPri (u : Icu) : Nat := (List.range 8).foldl (fun m i => if (u.insvc[Fin.ofNat 8 i]).isSome then i + 1 else m) 0

/-- The highest priority above `floor` among pending enabled sources, and its lowest source (R415). -/
def topSource (u : Icu) (floor : Nat) : Option (Nat × Nat) :=
  (List.finRange 128).foldl (fun best n =>
    let s := u.src[n]
    if s.pend && s.en && decide (s.prio > floor) then
      match best with
      | some (_, p) => if s.prio > p then some (n.val, s.prio) else best
      | none => some (n.val, s.prio)
    else best) none

/-- The level at which source `n` is in service. -/
def inService (u : Icu) (n : Nat) : Option (Fin 8) := (List.finRange 8).find? (fun l => u.insvc[l] == some n)

/-- A maskable interrupt that R414 allows, whatever PSW.IE and the run: its priority. -/
def icuDeliverable (c : Cabinet) : Option Nat :=
  if c.icu.gdis then none else (topSource c.icu (runPri c.icu)).map (·.2)

/-- The word a read of ICU_CLAIM returns (R415). -/
def claimWord (u : Icu) : Word :=
  match topSource u (runPri u) with
  | some (n, p) => natAt n 0 ||| natAt (u.src[Fin.ofNat 128 n]).rep 8 ||| natAt p 12
  | none => 0x80000000

/-- The claim that a read of ICU_CLAIM makes (R415). -/
def icuClaim (c : Cabinet) : Cabinet :=
  match topSource c.icu (runPri c.icu) with
  | some (n, p) =>
    let i := Fin.ofNat 128 n
    let c := bump 0x33 1 {} c
    { c with icu := { c.icu with
        src := c.icu.src.set i { c.icu.src[i] with pend := false, rep := 0 },
        insvc := c.icu.insvc.set (Fin.ofNat 8 (p - 1)) (some n) } }
  | none => c

/-- A write of ICU_COMPLETE (R413, R416). -/
def icuComplete (n : Nat) (c : Cabinet) : Cabinet :=
  match inService c.icu n with
  | some l =>
    let c := { c with icu := { c.icu with insvc := c.icu.insvc.set l none } }
    if srcInput n c then pulse n c else c
  | none => raiseErr .icu 2 c

/-- A write of ICU_SWSET: one pulse on source 56 + i for each bit. -/
def icuSwset (set : Nat) (c : Cabinet) : Cabinet :=
  (List.range 8).foldl (fun c i => if set / 2 ^ i % 2 = 1 then pulse (56 + i) c else c) c

/-- Cards of the ICU_ registers; a reserved source has no writable field. -/
def icuCard (off : Nat) : Card :=
  match regIdx off 0x000 4 128 with
  | some n => if srcReserved n.val then {} else { rwK := 0xF1, w1c := 0x100 }
  | none =>
    if off = 0x200 then cardK 1
    else if off = 0x208 then { wo := 0x7F }
    else if off = 0x220 then { wo := 0xFF }
    else {}

/-- ICU_SRCn. -/
def srcWord (n : Fin 128) (c : Cabinet) : Word :=
  let s := c.icu.src[n]
  if srcReserved n.val then 0
  else boolAt s.en 0 ||| natAt s.prio 4 ||| boolAt s.pend 8 ||| natAt s.rep 12 ||| boolAt (inService c.icu n.val).isSome 16 |||
    boolAt (srcInput n.val c) 17

/-- ICU_STAT. -/
def icuStat (u : Icu) : Word :=
  natAt (runPri u) 0 ||| natAt ((topSource u 0).elim 0 (·.2)) 4 |||
  (List.finRange 8).foldl (fun w l => w ||| boolAt (u.insvc[l]).isSome (8 + l.val)) 0 ||| natAt u.lastsat 16

/-- The current value of an ICU_ register. -/
def icuGet (off : Nat) (c : Cabinet) : Word :=
  match regIdx off 0x000 4 128 with
  | some n => srcWord n c
  | none =>
  match regIdx off 0x210 4 4 with
  | some k => (List.range 32).foldl (fun w i => w ||| boolAt (c.icu.src[Fin.ofNat 128 (32 * k.val + i)]).pend i) 0
  | none =>
    if off = 0x200 then boolAt c.icu.gdis 0
    else if off = 0x204 then claimWord c.icu
    else if off = 0x20C then icuStat c.icu
    else 0

/-- A read of ICU_CLAIM claims. -/
def icuReadEffect (off : Nat) (c : Cabinet) : Cabinet := if off = 0x204 then icuClaim c else c

/-- The effect of a write of an ICU_ register: `v` is the merged value, `w` the word written. -/
def icuSet (off : Nat) (v w : Word) (c : Cabinet) : Cabinet :=
  match regIdx off 0x000 4 128 with
  | some n =>
    if srcReserved n.val then c
    else
      let s := c.icu.src[n]
      let s := { s with en := bit v 0, prio := clampN 1 8 (fld v 4 4) }
      let s := if bit w 8 then { s with pend := false, rep := 0 } else s
      { c with icu := { c.icu with src := c.icu.src.set n s } }
  | none =>
    if off = 0x200 then { c with icu := { c.icu with gdis := bit v 0 } }
    else if off = 0x208 then icuComplete (fld w 0 7) c
    else if off = 0x220 then icuSwset (fld w 0 8) c
    else c

end Sys2Proof.Machine
end

