-- ==== Sys2Proof/Machine/Memory.lean ====
section
/-!
DEFINITION. The cabinet's memories with their parity, and the integrity block (spec/03_ezham_core_model.md R101 to R109,
spec/13_memory_integrity.md), with the PAR_ registers.
-/
namespace Sys2Proof.Machine

/-! ## Data memory and frame scratch (03 R104, R105; 13 R425, R426) -/

/-- A memory after one byte is written with right or wrong stored parity; beyond frame scratch there is no byte (R104). -/
def Mem.put (m : Mem) (a : Nat) (b : Byte) (wrong : Bool) : Mem :=
  if a ≥ 0x22000 then m
  else { cells := assocPut a b m.cells, bad := if wrong then setInsert a m.bad else m.bad.filter (fun x => x != a) }

/-- A memory with one byte as it stood before (06 R221). -/
def Mem.restore (m : Mem) (x : SavedByte) : Mem :=
  match x.2.1 with
  | some b => m.put x.1 b x.2.2
  | none => { cells := assocErase x.1 m.cells, bad := m.bad.filter (fun y => y != x.1) }

/-- Bytes of a memory as they stand. -/
def Mem.save (m : Mem) (a n : Nat) : List SavedByte :=
  (List.range n).map (fun i => (a + i, assocGet (a + i) m.cells, m.bad.contains (a + i)))

/-- The canonical form of a memory: strictly rising addresses inside data memory and frame scratch, and strictly rising
addresses of wrong parity. -/
def Mem.wf (m : Mem) : Bool :=
  assocSorted m.cells && m.cells.all (fun x => decide (x.1 < 0x22000)) && assocSorted (m.bad.map (fun a => (a, ())))

/-- One byte as the memory holds it; one that nothing has written since power-on is a free value (R440). -/
def memByte (c : Cabinet) (a : Nat) : Byte := (assocGet a c.mems.data.cells).getD (Config.ramByte c.id.val a c.mems.epoch)

/-- The byte has been written since power-on. -/
def byteKnown (c : Cabinet) (a : Nat) : Bool := (assocGet a c.mems.data.cells).isSome

/-- The byte's stored parity is wrong. -/
def byteBad (c : Cabinet) (a : Nat) : Bool :=
  if byteKnown c a then c.mems.data.bad.contains a else !Config.ramParityOk c.id.val a c.mems.epoch

/-- The little-endian value of `n` bytes from `a`. -/
def memRead (c : Cabinet) (a n : Nat) : Nat := natOfBytes ((List.range n).map (fun i => memByte c (a + i)))

/-- Odd parity of a byte (R425). -/
def byteParity (b : Byte) : Bool := oddParity 8 b.toNat == 1

/-- Writes bytes from `a` on; with `inj` the stored parity is PAR_INJECT.BCHK (R442). -/
def memWrite (inj : Bool) (a : Nat) (bs : List Byte) (c : Cabinet) : Cabinet :=
  let m := (List.range bs.length).foldl (fun (m : Mem) i =>
    let b := bs.getD i 0
    let k := (a + i) % 4
    m.put (a + i) b (inj && bit c.par.inject k != byteParity b)) c.mems.data
  { c with mems := { c.mems with data := m } }

/-- The region of a data address (R104). -/
inductive Region where
  | data | scratch | stack | regs | none
  deriving DecidableEq, Repr

/-- Which row of R104 an address lies in. -/
def region (a : Nat) : Region :=
  if a < 0x20000 then .data
  else if a < 0x21F00 then .scratch
  else if a < 0x22000 then .stack
  else if 0x40000 ≤ a ∧ a < 0x4B000 then .regs
  else .none

/-- The address is in data memory or frame scratch. -/
def isMem (a : Nat) : Bool := decide (a < 0x22000)

/-! ## Program and loop stores (R101, R109) -/

/-- The physical word of a program address: the program store, or the active loop-store bank. -/
def progWord (c : Cabinet) (a : Nat) : BitVec 16 :=
  if a < 0x20000 then (assocGet a c.mems.prog).getD (Config.storeWord c.id.val 0 a c.mems.epoch)
  else if c.bank.active then (assocGet a c.mems.bankB).getD (Config.storeWord c.id.val 2 a c.mems.epoch)
  else (assocGet a c.mems.bankA).getD (Config.storeWord c.id.val 1 a c.mems.epoch)

/-- The word of a program address has been written since power-on. -/
def progKnown (c : Cabinet) (a : Nat) : Bool :=
  (assocGet a (if a < 0x20000 then c.mems.prog else if c.bank.active then c.mems.bankB else c.mems.bankA)).isSome

/-- The canonical form of a store of syllables: strictly rising addresses. -/
def SylMem.wf (m : SylMem) : Bool := assocSorted m

/-- The canonical form of a cabinet's memories. -/
def Mems.wf (m : Mems) : Bool := m.data.wf && SylMem.wf m.prog && SylMem.wf m.bankA && SylMem.wf m.bankB

/-- Writes a physical word of the program store. -/
def progWrite (a : Nat) (w : BitVec 16) (c : Cabinet) : Cabinet :=
  { c with mems := { c.mems with prog := assocPut a w c.mems.prog } }

/-! ## Correctable events (R428 to R431) -/

/-- The leak period has expired (R430): FRAMES frames are counted; FRAMES = 0 stops the leak. -/
def leakDue (c : Cabinet) : Bool := c.par.leak != 0 && c.clocksRun && decide (c.par.leak ≤ c.par.leakCount)

/-- A correctable event in the instruction cache or the line buffer: its counts and log (R428, R430, R431). `leak`: a leak that is due
falls in the same cycle; the two cancel. `pc`: the instruction's address. -/
def parCorrect (pc addr : Nat) (l8 l6 lineBuf leak : Bool) (c : Cabinet) : Cabinet :=
  let p := c.par
  let both := leak && leakDue c
  let up := !both && decide (p.bucket < 0xFFFF)
  let log := natAt (addr % 2 ^ 18) 0 ||| boolAt l8 18 ||| boolAt l6 19 ||| boolAt lineBuf 20 ||| bitW 31
  let c := { c with par := { p with
    bucket := if up then p.bucket + 1 else p.bucket, leakCount := if both then 0 else p.leakCount,
    ccnt := min (p.ccnt + 1) 0xFFFFFFFF, clog := log } }
  let c := bump 0x1F 1 { prog := some pc } c
  if up && p.bucket == p.thresh then c.orIrq .par 1 else c

/-- The leak period has expired: a leak (R430). -/
def parLeak (c : Cabinet) : Cabinet :=
  if leakDue c then { c with par := { c.par with bucket := c.par.bucket - 1, leakCount := 0 } } else c

/-! ## Uncorrectable events (R432 to R435) -/

/-- An uncorrectable event in memory `mem` at `addr` with the failing bytes or lanes (R433, R435). In a run it trips. -/
def parUncorrect (mem addr fail : Nat) (c : Cabinet) : Cabinet :=
  let p := c.par
  let loop := c.frame.inRun
  let old := bit p.ulogs 9
  let logs := natAt mem 0 ||| natAt fail 3 ||| boolAt loop 7 ||| boolAt (bit p.ulogs 8 || old) 8 ||| bitW 9
  let c := { c with par := { p with ucnt := min (p.ucnt + 1) 0xFFFF, uloga := natAt addr 0, ulogs := logs } }
  let c := bump 0x20 1 {} (c.orIrq .par (if old then 6 else 2))
  if loop then tripBy 4 { c with err := c.err ||| bitW 7 } else c

/-- The bytes of the word that a load of `n` bytes at `a` uses and finds failing. -/
def usedFails (c : Cabinet) (a n : Nat) : Nat :=
  (List.range 4).foldl (fun m k =>
    let x := a / 4 * 4 + k
    if decide (a ≤ x) && decide (x < a + n) && byteBad c x then m + 2 ^ k else m) 0

/-- The bytes of the word that a load of `n` bytes at `a` finds failing: those it uses, and those nothing has written (R441). -/
def loadFails (c : Cabinet) (a n : Nat) : Nat :=
  (List.range 4).foldl (fun m k =>
    let x := a / 4 * 4 + k
    let used := decide (a ≤ x) && decide (x < a + n)
    if (used || !byteKnown c x) && byteBad c x then m + 2 ^ k else m) 0

/-- The uncorrectable event of a memory word. -/
def wordUncorrect (a fails : Nat) (c : Cabinet) : Cabinet :=
  parUncorrect (if a < 0x20000 then 0 else 1) (a / 4 * 4) fails c

/-- The parity check of a load of `n` bytes at `a` (R432, R443; which reads are loads: log 106): the cabinet, and whether a machine
check is raised. -/
def loadCheck (a n : Nat) (c : Cabinet) : Cabinet × Bool :=
  let fails := loadFails c a n
  if c.par.inj then
    let comp := (List.range 4).foldl (fun m k => m + (byteParity (memByte c (a / 4 * 4 + k))).toNat * 2 ^ k) 0
    let stored := (List.range 4).foldl (fun m k =>
      m + (byteParity (memByte c (a / 4 * 4 + k)) != byteBad c (a / 4 * 4 + k)).toNat * 2 ^ k) 0
    let rpt := natAt stored 0 ||| natAt comp 4 ||| boolAt (bit c.par.rpt 8 || usedFails c a n != 0) 8
    let c := { c with par := { c.par with rpt := rpt } }
    if fails != 0 && c.par.mcen then (wordUncorrect a fails c, true) else (c, false)
  else if fails != 0 then (wordUncorrect a fails c, true)
  else (c, false)

/-- The parity check of a stack pop, checked as usual whatever INJ holds (R432, R443). -/
def popCheck (a : Nat) (c : Cabinet) : Cabinet × Bool :=
  let fails := loadFails c a 4
  if fails != 0 then (wordUncorrect a fails c, true) else (c, false)

/-- The failing lanes of a physical word: bit 0 the 8-bit lane, bit 1 the 6-bit lane. -/
def laneFails (w : BitVec 16) : Nat := (!lane8Ok w).toNat + 2 * (!lane6Ok w).toNat

/-- The parity check of the syllables fetched at `addrs` from the program or loop store (R432). -/
def fetchParity (c : Cabinet) : List Nat → Cabinet × Bool
  | [] => (c, false)
  | a :: t =>
    let w := progWord c a
    if laneFails w != 0 then
      (parUncorrect (if a < 0x20000 then 2 else if c.bank.active then 4 else 3) a (laneFails w) c, true)
    else fetchParity c t

/-! ## PAR_ registers (R445) -/

/-- Cards of the PAR_ registers. -/
def parCard (off : Nat) : Card :=
  match off with
  | 0x000 => cardK 0xFFFF
  | 0x004 => cardK 0xFFFF
  | 0x008 => cardK 0xFFFF
  | 0x010 => cardC 0x80000000
  | 0x01C => cardC 0x300
  | 0x020 => cardK 3
  | 0x024 => cardK 0x3F
  | 0x028 => cardC 0x100
  | _ => {}

/-- The current value of a PAR_ register. -/
def parGet (off : Nat) (c : Cabinet) : Word :=
  let p := c.par
  match off with
  | 0x000 => natAt p.bucket 0
  | 0x004 => natAt p.leak 0
  | 0x008 => natAt p.thresh 0
  | 0x00C => natAt p.ccnt 0
  | 0x010 => p.clog
  | 0x014 => natAt p.ucnt 0
  | 0x018 => p.uloga
  | 0x01C => p.ulogs
  | 0x020 => boolAt p.inj 0 ||| boolAt p.mcen 1
  | 0x024 => p.inject
  | 0x028 => p.rpt
  | _ => 0

/-- A write of PAR_TEST (R444). -/
def parTestWrite (v : Word) (c : Cabinet) : Cabinet :=
  if bit v 0 && c.normalService then raiseErr .par 1 c
  else { c with par := { c.par with inj := bit v 0, mcen := bit v 1 } }

/-- The effect of a write of a PAR_ register with the merged value `v`. -/
def parSet (off : Nat) (v : Word) (c : Cabinet) : Cabinet :=
  match off with
  | 0x000 => { c with par := { c.par with bucket := fld v 0 16 } }
  | 0x004 => { c with par := { c.par with leak := fld v 0 16 } }
  | 0x008 => { c with par := { c.par with thresh := fld v 0 16 } }
  | 0x010 => { c with par := { c.par with clog := v } }
  | 0x01C => { c with par := { c.par with ulogs := v } }
  | 0x020 => parTestWrite v c
  | 0x024 => { c with par := { c.par with inject := v } }
  | 0x028 => { c with par := { c.par with rpt := v } }
  | _ => c

end Sys2Proof.Machine
end

