-- ==== Sys2Proof/Machine/OrderPort.lean ====
section
/-!
DEFINITION. The order and report port of a cabinet (spec/16_command_packets.md R529, R533 to R543) with the ORD_ registers, and
its report rings.
-/
namespace Sys2Proof.Machine

/-! ## Report rings (R533 to R536) -/

/-- Replaces a report ring. -/
def setRep (c : Cabinet) (r : Nat) (x : RepRing) : Cabinet := { c with repRings := assocPut r x c.repRings }

/-- A push is refused (R536). -/
def pushRefused (bits : Word) (c : Cabinet) : Cabinet :=
  raiseErr .ord bits { c with ord := { c.ord with acc := false, refused := true } }

/-- Appends a report to a ring that has room (R533, R534). -/
def pushAppend (r : Nat) (x : RepRing) (kind : Nat) (body : List Word) (c : Cabinet) : Cabinet :=
  let rep : Report := { rseq := x.nextSeq, kind := kind, frame := c.frame.count, body := body }
  let c := setRep c r { x with reports := x.reports ++ [rep], nextSeq := x.nextSeq + 1 }
  bump 0x35 1 {} { c with
    ord := { c.ord with acc := true }, sendQ := if x.hold then c.sendQ else c.sendQ ++ [r] }

/-- A push, and whether the port accepts it (R533, R536); `bad`: software's KIND or LENW is out of range. -/
def portPush (r kind : Nat) (bad : Bool) (body : List Word) (c : Cabinet) : Cabinet × Bool :=
  match assocGet r c.repRings with
  | none => (pushRefused 4 c, false)
  | some x =>
    if bad then (pushRefused 8 c, false)
    else if x.reports.length ≥ x.depth then (pushRefused 2 (setRep c r { x with refusedFull := true }), false)
    else (pushAppend r x kind body c, true)

/-- A push by software, KIND and LENW as written to ORD_PUSH (R533, R536). -/
def ordPush (r lenw kind : Nat) (c : Cabinet) : Cabinet :=
  (portPush r kind (decide (kind ≥ 0xF0) || decide (lenw > 256)) ((List.range lenw).map (fun j => c.ord.rword[Fin.ofNat 256 j])) c).1

/-- A push by the dump engine (14 R458), and whether the port accepts the record; a refused one is a refused push too (R536). -/
def dumpPush (r : Nat) (body : List Word) (c : Cabinet) : Cabinet × Bool := portPush r 0xF0 false body c

/-- The first `n` reports of a ring are released (R534 to R536). -/
def releaseReports (r n : Nat) (c : Cabinet) : Cabinet :=
  match assocGet r c.repRings with
  | none => c
  | some x =>
    if n = 0 ∨ x.reports.isEmpty then c
    else
      let c := setRep c r { x with reports := x.reports.drop n, refusedFull := false }
      if x.refusedFull then c.orIrq .ord 1 else c

/-! ## Orders (R529, R537 to R542) -/

/-- An order becomes available to pop (R542). -/
def orderAvailable (o : PortOrder) (c : Cabinet) : Cabinet :=
  let c := { c with ord := { c.ord with avail := c.ord.avail ++ [o] } }
  if bit c.ord.aven[Fin.ofNat 4 (o.ring / 32)] (o.ring % 32) then pulse (64 + o.ring % 64) c else c

/-- Event 7 of R77: each delivered order becomes available, or is refused when CAB_STATE is not in its mask (R529). -/
def portAdvance (c : Cabinet) : Cabinet :=
  let ds := c.ord.delivered
  ds.foldl (fun c o =>
    if o.mask / 2 ^ c.mode.code % 2 = 1 then orderAvailable o c else c.note (.refuse o.tag c.mode.code))
    { c with ord := { c.ord with delivered := [] } }

/-- What a read of ORD_POPr returns (R537). -/
def popWord (r : Nat) (c : Cabinet) : Word :=
  match c.ord.avail.find? (fun o => o.ring == r) with
  | none => 0
  | some o => 1 ||| natAt o.words.length 8

/-- The pop that a read of ORD_POPr makes (R537). -/
def ordPop (r : Nat) (c : Cabinet) : Cabinet :=
  match c.ord.avail.find? (fun o => o.ring == r) with
  | none => c
  | some o =>
    bump 0x34 1 {} { c with ord := { c.ord with
      avail := c.ord.avail.filter (fun x => x.ring != r), openTags := c.ord.openTags ++ [(r, o.tag)],
      info := natAt r 0 ||| bitW 7 ||| natAt o.words.length 8, otag := o.tag, oword := o.words } }

/-- A write of ORD_DONE (R538). -/
def ordDone (tag : Word) (c : Cabinet) : Cabinet :=
  if c.ord.openTags.any (fun x => x.2 == tag) then
    ({ c with ord := { c.ord with openTags := c.ord.openTags.filter (fun x => x.2 != tag) } }).note (.confirm tag)
  else raiseErr .ord 1 c

/-- A reset of class C clears the port and its reports (R534, R541); the tags that leave it go to the ledger. -/
def ordReset (c : Cabinet) : Cabinet :=
  let tags := c.ord.delivered.map (·.tag) ++ c.ord.avail.map (·.tag) ++ c.ord.openTags.map (·.2)
  { (if tags.isEmpty then c else c.note (.dropped tags)) with
    ord := {}, sendQ := [], repRings := c.repRings.map (fun x => (x.1, { x.2 with reports := [], refusedFull := false })) }

/-! ## Registers (R543) -/

/-- Cards of the ORD_ registers. -/
def ordCard (off : Nat) : Card :=
  if off = 0x008 then { wo := 0xFFFFFFFF }
  else if (regIdx off 0x020 4 4).isSome then cardK 0xFFFFFFFF
  else if off = 0x040 then { wo := 0xFFFFFFFF }
  else if off = 0x044 then cardC 2
  else if (regIdx off 0x600 4 256).isSome then cardK 0xFFFFFFFF
  else {}

/-- ORD_AVAILk. -/
def availWord (k : Nat) (o : Ord) : Word :=
  o.avail.foldl (fun w x => if x.ring / 32 = k then w ||| bitW (x.ring % 32) else w) 0

/-- The current value of an ORD_ register. -/
def ordGet (off : Nat) (c : Cabinet) : Word :=
  let o := c.ord
  match regIdx off 0x010 4 4 with
  | some k => availWord k.val o
  | none =>
  match regIdx off 0x020 4 4 with
  | some k => o.aven[k]
  | none =>
  match regIdx off 0x200 4 254 with
  | some j => o.oword.getD j.val 0
  | none =>
  match regIdx off 0x600 4 256 with
  | some j => o.rword[j]
  | none =>
  match regIdx off 0xC00 4 128 with
  | some r => popWord r.val c
  | none =>
    if off = 0x000 then o.info
    else if off = 0x004 then o.otag
    else if off = 0x00C then natAt (min o.openTags.length 255) 0
    else if off = 0x044 then boolAt o.acc 0 ||| boolAt o.refused 1
    else 0

/-- A read of ORD_POPr pops. -/
def ordReadEffect (off : Nat) (c : Cabinet) : Cabinet :=
  match regIdx off 0xC00 4 128 with
  | some r => ordPop r.val c
  | none => c

/-- The effect of a write of an ORD_ register: `v` is the merged value, `w` the word written. -/
def ordSet (off : Nat) (v w : Word) (c : Cabinet) : Cabinet :=
  match regIdx off 0x020 4 4 with
  | some k => { c with ord := { c.ord with aven := c.ord.aven.set k v } }
  | none =>
  match regIdx off 0x600 4 256 with
  | some j => { c with ord := { c.ord with rword := c.ord.rword.set j v } }
  | none =>
    if off = 0x008 then ordDone w c
    else if off = 0x040 then ordPush (fld w 0 7) (fld w 8 9) (fld w 24 8) c
    else if off = 0x044 then { c with ord := { c.ord with refused := bit v 1 } }
    else c

end Sys2Proof.Machine
end

