-- ==== Sys2Proof/Machine/Perf.lean ====
section
/-!
DEFINITION. Periodic dumps and precise sampling (spec/14_performance_counters.md R455 to R465), and the wrap of a counter.
-/
namespace Sys2Proof.Machine

/-! ## Dumps (R455 to R460) -/

/-- The counters that PRF_DUMPMASKL and PRF_DUMPMASKH select, in ascending order. -/
def dumpSelected (c : Cabinet) : List (Fin 64) :=
  (List.finRange 64).filter (fun n => if n.val < 32 then bit c.prf.maskL n.val else bit c.prf.maskH (n.val - 32))

/-- The words of a record (R455, R456) with the counters `cnt` of the start of the boundary cycle: word 0 carries the SEQ of
its completion. -/
def dumpWords (cnt : Vector (BitVec 48) 64) (c : Cabinet) : List Word :=
  let ns := dumpSelected c
  [natAt ((c.prf.dumpseq + 1) % 65536) 0 ||| natAt ns.length 24, c.frame.count, c.tmr.count.setWidth 32, hiWord c.tmr.count] ++
  ns.flatMap (fun n => [(cnt[n]).setWidth 32, natAt ((cnt[n]).toNat / 2 ^ 32) 0 ||| natAt n.val 16])

/-- A snapshot is discarded (R459). -/
def dumpMiss (c : Cabinet) : Cabinet :=
  raiseErr .prf 1 { c with prf := { c.prf with dumpmiss := min (c.prf.dumpmiss + 1) 0xFF } }

/-- Where a record of `n` words starts in the area (R457): at the pointer when it fits before the area's end and before the end
of data memory (card PRF_DUMPLEN), else at the base. -/
def dumpStart (n : Nat) (c : Cabinet) : Nat :=
  let base := c.prf.dumpbase.toNat
  let ptr := c.prf.dumpptr.toNat
  if ptr + 4 * n ≤ base + 4 * c.prf.dumplen ∧ ptr + 4 * n ≤ 0x20000 then ptr else base

/-- Event 8 of R77: a snapshot when one is due (R455, R459). -/
def dumpSnapshot (cnt : Vector (BitVec 48) 64) (c : Cabinet) : Cabinet :=
  let cfg := c.prf.dumpcfg
  if bit cfg 16 && c.frame.count.toNat % (fld cfg 0 16 + 1) == 0 then
    let ws := dumpWords cnt c
    let toRing := bit cfg 17
    let start := dumpStart ws.length c
    if c.prf.dump.isSome || (!toRing && decide (ws.length > c.prf.dumplen)) then dumpMiss c
    else
      { c with prf := { c.prf with
          dumpMoved := false, dump := some { words := ws, dest := if toRing then none else some start, ring := fld cfg 18 7 } } }
  else c

/-- The record in progress is complete: SEQ increments and the cause sets. -/
def dumpDone (c : Cabinet) : Cabinet :=
  ({ c with prf := { c.prf with dump := none, dumpseq := (c.prf.dumpseq + 1) % 65536 } }).orIrq .prf 1

/-- The dump engine writes a word of data memory (14 R449 0x17, 0x37). -/
def dumpWord (a : Nat) (w : Word) (c : Cabinet) : Cabinet :=
  if a ≥ 0x20000 then c
  else bump 0x37 1 { mst := some 4 } (bump 0x17 1 { mst := some 4, data := some a } (memWrite false a (bytesOf 4 w.toNat) c))

/-- DUMP_RECORD_COMPLETE: the engine has written words 1 onward and then word 0, or has pushed the record (R457, R458, R460). Words
beyond data memory are not written, also where the base leaves a record no room (log 100). -/
def dumpComplete (c : Cabinet) : Cabinet :=
  match c.prf.dump with
  | none => c
  | some d =>
    match d.dest with
    | some a =>
      let n := d.words.length
      let c := (List.range n).foldl (fun c i => dumpWord (a + 4 * i) (d.words.getD i 0) c) c
      let ptr := if c.prf.dumpMoved then c.prf.dumpptr else natAt (a + 4 * n) 0
      dumpDone { c with prf := { c.prf with dumpptr := ptr } }
    | none =>
      let r := dumpPush d.ring d.words c
      if r.2 then dumpDone r.1 else dumpMiss { r.1 with prf := { r.1.prf with dump := none } }

/-! ## Precise sampling (R462 to R465) -/

/-- Sampling is stopped by a full buffer (R465). -/
def smpStopped (c : Cabinet) : Bool := bit c.prf.smpcfg 20 && c.prf.smpcnt == 64

/-- PRECISE_SAMPLE: the waiting sample is written into the buffer (R463, R465). SEQ counts samples. -/
def smpStore (c : Cabinet) : Cabinet :=
  match c.prf.smpWait with
  | none => c
  | some ws =>
    let p := c.prf
    let seq := natAt p.smpseq 24
    let put (i : Nat) (b : Vector Word 256) : Vector Word 256 :=
      b.set (Fin.ofNat 256 (4 * p.widx + i)) (ws.getD i 0 ||| (if i = 0 ∨ i = 3 then seq else 0))
    let n := min (p.smpcnt + 1) 64
    let c' := { c with prf := { p with
      buf := put 3 (put 2 (put 1 (put 0 p.buf))), widx := (p.widx + 1) % 64, smpcnt := n,
      smpseq := (p.smpseq + 1) % 256, smpWait := none } }
    if p.smpcnt < 64 && n == 64 && bit p.smpcfg 20 then c'.orIrq .prf 2 else c'

/-- A retired instruction, for sampling (R462): `ws` are its sample words without SEQ. -/
def smpRetire (a : Attr) (ws : List Word) (c : Cabinet) : Cabinet :=
  let p := c.prf
  if bit p.smpcfg 19 && !smpStopped c && fselPass c (fld p.smpcfg 16 3) a then
    let n := p.smpN + 1
    if n ≥ fld p.smpcfg 0 16 + 1 then
      let c := smpStore c
      { c with prf := { c.prf with smpN := 0, smpWait := if smpStopped c then none else some ws } }
    else { c with prf := { p with smpN := n } }
  else c

/-- COUNTER_WRAP: counter `n` at its last value counts one more occurrence of its event (R448). -/
def counterWrap (n : Fin 64) (c : Cabinet) : Cabinet :=
  if c.prf.cnt[n].toNat = 2 ^ 48 - 1 then setWrap n { c with prf := { c.prf with cnt := c.prf.cnt.set n 0 } } else c

/-- A reset of class C (R467): the buffer's entries stay, undefined. -/
def prfReset (c : Cabinet) : Cabinet := { c with prf := { buf := c.prf.buf } }

end Sys2Proof.Machine
end

