-- ==== Sys2Proof/Machine/DecodeTable.lean ====
section
/-!
DEFINITION. The decode table and the microcode store (spec/07_custom_instructions.md R235 to R243, R251), with the DEC_
registers.
-/
namespace Sys2Proof.Machine

/-! ## Micro-operations (R235, R239) -/

/-- The operations of R239. -/
inductive UopOp where
  | alu (o : AluOp) | mac (o : MacOp) | mulqs | mul2q | accRead (o : AccRead) | wrq | wri | clr
  | ldw | stw | fadd | fsub | fmul | fcmp | fmin | fmax | fmadd | fneg | fabs | fcvtws | fcvtsw | fcvtqs | fcvtsq
  deriving DecidableEq, Repr

/-- A micro-operation's fields. -/
structure Uop where
  op : UopOp
  d : Nat
  a : Nat
  b : Nat
  wf : Bool
  rb : Bool
  imm : Nat
  deriving DecidableEq, Repr

/-- ALU operations by OP. -/
def uopAlu (n : Nat) : Option AluOp :=
  [some AluOp.add, some .sub, some .and, some .or, some .xor, some .cmp, some .addc, some .subc, some .shl, some .shr,
   some .sar, some .ror, some .min, some .max, some .abs, some .neg, some .extb, some .extbu, some .exth, some .exthu,
   some .clz, some .cls, some .addqs, some .subqs, some .add2s, some .sub2s, none, some .absqs, some .negqs, some .shlqs,
   some .add2, some .sub2, some .mov].getD n none

/-- MAC operations by OP. -/
def uopMac (n : Nat) : Option UopOp :=
  match n with
  | 0x00 => some (.mac .macQ) | 0x01 => some (.mac .msuQ) | 0x02 => some .mulqs | 0x03 => some .mul2q
  | 0x04 => some (.mac .macI) | 0x05 => some (.mac .msuI) | 0x06 => some (.mac .mac2Q) | 0x07 => some (.mac .msu2Q)
  | 0x08 => some (.mac .macuI)
  | 0x10 => some (.accRead .rdt) | 0x11 => some (.accRead .rdr) | 0x12 => some (.accRead .rdl)
  | 0x13 => some (.accRead .rdi) | 0x14 => some (.accRead .rdg)
  | 0x15 => some .wrq | 0x16 => some .wri | 0x17 => some .clr
  | _ => none

/-- Float operations by OP. -/
def uopFloat (n : Nat) : Option UopOp :=
  match n with
  | 0x00 => some .fadd | 0x01 => some .fsub | 0x02 => some .fmul | 0x03 => some .fcmp | 0x04 => some .fmin | 0x05 => some .fmax
  | 0x06 => some .fmadd
  | 0x08 => some .fneg | 0x09 => some .fabs | 0x0A => some .fcvtws | 0x0B => some .fcvtsw | 0x0C => some .fcvtqs
  | 0x0D => some .fcvtsq
  | _ => none

/-- The operation a STN and OP name (R239). -/
def uopOp (stn op : Nat) : Option UopOp :=
  match stn with
  | 0 => (uopAlu op).map UopOp.alu
  | 1 => uopMac op
  | 2 => if op = 0 then some .ldw else if op = 1 then some .stw else none
  | _ => uopFloat op

/-- A micro-operation read from its 48 bits; `none` when check 3 of R243 fails. -/
def uopDecode (w : BitVec 48) : Option Uop :=
  if fld w 16 9 ≠ 0 then none
  else (uopOp (fld w 46 2) (fld w 40 6)).map (fun o =>
    { op := o, d := fld w 36 4, a := fld w 32 4, b := fld w 28 4, wf := bit w 27, rb := bit w 26, imm := fld w 0 16 })

/-- LAST. -/
def uopLast (w : BitVec 48) : Bool := bit w 25

/-! ## Selectors (R236, R238, R240, R241) -/

/-- A register or temporary. -/
def selReg (s : Nat) : Bool := decide (s ≤ 9)
/-- An operand that is read. -/
def selIn (s : Nat) : Bool := decide (s ≤ 0xB) || s == 0xE
/-- An accumulator. -/
def selAcc (s : Nat) : Bool := s == 0xC || s == 0xD
/-- No operand. -/
def selNone (s : Nat) : Bool := s == 0xF

/-- Integer operations with a single input, which B names (R238). -/
def aluOneInput : AluOp → Bool
  | .abs | .neg | .extb | .extbu | .exth | .exthu | .clz | .cls | .absqs | .negqs => true
  | _ => false

/-- Every selector of the micro-operation is permitted (check 4 of R243). -/
def uopSelOk (u : Uop) : Bool :=
  match u.op with
  | .alu .cmp => u.wf && selNone u.d && selIn u.a && selIn u.b
  | .alu .addc => u.wf && selReg u.d && selIn u.a && selIn u.b
  | .alu .subc => u.wf && selReg u.d && selIn u.a && selIn u.b
  | .alu .mov => selReg u.d && selIn u.a && selNone u.b
  | .alu o => selReg u.d && (if aluOneInput o then selNone u.a else selIn u.a) && selIn u.b
  | .mac _ => selAcc u.d && selIn u.a && selIn u.b
  | .mulqs => selReg u.d && selIn u.a && selIn u.b
  | .mul2q => selReg u.d && selIn u.a && selIn u.b
  | .accRead _ => selReg u.d && selAcc u.a && selNone u.b
  | .wrq => selAcc u.d && selIn u.a && selNone u.b
  | .wri => selAcc u.d && selIn u.a && selNone u.b
  | .clr => selAcc u.d && selNone u.a && selNone u.b
  | .ldw => selReg u.d && (if u.rb then u.a == 0xE && u.b == 0xE else selIn u.a && selIn u.b)
  | .stw => selReg u.d && (if u.rb then u.a == 0xE && u.b == 0xE else selIn u.a && selIn u.b)
  | .fcmp => u.wf && selNone u.d && selIn u.a && selIn u.b
  | .fadd | .fsub | .fmul | .fmin | .fmax | .fmadd => selReg u.d && selIn u.a && selIn u.b
  | .fneg | .fabs | .fcvtws | .fcvtsw | .fcvtqs | .fcvtsq => selReg u.d && selNone u.a && selIn u.b

/-- D is read as well as, or instead of, written (R239). -/
def uopReadsD : UopOp → Bool
  | .stw => true
  | .fmadd => true
  | _ => false

/-- The temporaries a micro-operation reads. -/
def uopTemps (u : Uop) : List Nat :=
  ([u.a, u.b] ++ (if uopReadsD u.op then [u.d] else [])).filter (fun s => decide (6 ≤ s) && decide (s ≤ 9))

/-- The temporary a micro-operation writes. -/
def uopWritesTemp (u : Uop) : Option Nat :=
  if u.op != .stw && decide (6 ≤ u.d) && decide (u.d ≤ 9) then some u.d else none

/-! ## Validation (R243) -/

/-- Entry `i` fails parity when read (R247): its stored parity does not match (13 R425), or nothing has written it (13 R440). -/
def uopBadParity (c : Cabinet) (i : Nat) : Bool :=
  c.dec.uopBad.contains (2 * i) || c.dec.uopBad.contains (2 * i + 1) ||
  !(c.dec.uopSet.contains (2 * i) && c.dec.uopSet.contains (2 * i + 1)) && !Config.uopParityOk c.id.val i c.mems.epoch

/-- Microcode entry `i`. -/
def uopAt (c : Cabinet) (i : Nat) : BitVec 48 := c.dec.uop[Fin.ofNat 256 i]

/-- The entries of a slot. -/
def slotEntries (s : Slot) : List Nat := (List.range (s.lenm1 + 1)).map (s.start + ·)

/-- The first entry that reads a temporary no earlier entry writes (check 5). -/
def firstTempFail (c : Cabinet) : List Nat → List Nat → Option Nat
  | _, [] => none
  | seen, i :: t =>
    match uopDecode (uopAt c i) with
    | none => firstTempFail c seen t
    | some u =>
      if (uopTemps u).all (fun x => seen.contains x) then
        firstTempFail c (match uopWritesTemp u with | some x => x :: seen | none => seen) t
      else some i

/-- The first failing check and its entry; `none` when the slot is valid (R243). -/
def slotCheck (c : Cabinet) (s : Slot) : Option (Nat × Nat) :=
  let es := slotEntries s
  let last := s.start + s.lenm1
  let dec (i : Nat) : Option Uop := uopDecode (uopAt c i)
  let pick (n : Nat) (p : Nat → Bool) : Option (Nat × Nat) := (es.find? p).map (fun i => (n, i))
  if last > 255 then some (1, 0)
  else (pick 2 (fun i => uopLast (uopAt c i) != (i == last))).or
    ((pick 3 (fun i => (dec i).isNone)).or
    ((pick 4 (fun i => !((dec i).elim true uopSelOk))).or
    (((firstTempFail c [] es).map (fun i => (5, i))).or
    ((pick 6 (fun i => s.fs && (dec i).elim false (·.rb))).or
    (pick 7 (fun i => uopBadParity c i))))))

/-- Replaces slot `n`. -/
def setSlot (c : Cabinet) (n : Fin 16) (s : Slot) : Cabinet := { c with dec := { c.dec with slot := c.dec.slot.set n s } }

/-- Validates slot `n` (R243): DEC_CHECK records the result, CHKFAIL a failure. -/
def slotValidate (n : Fin 16) (c : Cabinet) : Cabinet :=
  let s := c.dec.slot[n]
  match slotCheck c s with
  | none =>
    let c := setSlot c n { s with valid := true }
    { c with dec := { c.dec with check := natAt n.val 0 } }
  | some (r, e) =>
    let c := setSlot c n { s with valid := false }
    raiseErr .dec 2 { c with dec := { c.dec with check := natAt n.val 0 ||| natAt r 4 ||| natAt e 8 } }

/-! ## Writing (R251) -/

/-- The decode table may be written: DCTL.WEN, or the loader; not in normal service. -/
def decWritable (loader : Bool) (c : Cabinet) : Bool := (c.wen || loader) && !c.normalService

/-- A write that R251 turns away. -/
def decDenied (c : Cabinet) : Cabinet := raiseErr .dec 1 c

/-- A write of DEC_SLOTn (R243, R251). START, LENM1 and FS change only while VALID is 0. -/
def slotWrite (loader : Bool) (n : Fin 16) (v : Word) (c : Cabinet) : Cabinet :=
  let s := c.dec.slot[n]
  let new : Slot := { start := fld v 0 8, lenm1 := fld v 8 4, fs := bit v 12, valid := false }
  let same := new.start == s.start && new.lenm1 == s.lenm1 && new.fs == s.fs
  if !decWritable loader c || (s.valid && !same) then decDenied c
  else
    let c := setSlot c n new
    if bit v 16 then slotValidate n c else c

/-- A valid slot's sequence includes entry `i`. -/
def entryInUse (c : Cabinet) (i : Nat) : Bool :=
  (List.finRange 16).any (fun n => (c.dec.slot[n]).valid && (slotEntries c.dec.slot[n]).contains i)

/-- A write of DEC_UOPLOi or DEC_UOPHIi (R251), with byte parity computed. -/
def uopWrite (loader : Bool) (i : Fin 256) (high : Bool) (w : Word) (c : Cabinet) : Cabinet :=
  if !decWritable loader c || entryInUse c i.val then decDenied c
  else
    let old := c.dec.uop[i]
    let new : BitVec 48 :=
      if high then (w.setWidth 16) ++ (old.setWidth 32) else ((old >>> 32).setWidth 16) ++ w
    let k := 2 * i.val + high.toNat
    { c with dec := { c.dec with
      uop := c.dec.uop.set i new, uopSet := setInsert k c.dec.uopSet, uopBad := c.dec.uopBad.filter (· != k) } }

/-- A reset of class C (R253): every slot is invalid; the microcode store keeps its contents. -/
def decReset (c : Cabinet) : Cabinet := { c with dec := { uop := c.dec.uop, uopSet := c.dec.uopSet, uopBad := c.dec.uopBad } }

/-! ## Registers (R254) -/

/-- Cards of the DEC_ registers. -/
def decCard (off : Nat) : Card :=
  if (regIdx off 0x000 4 16).isSome then cardM 0x11FFF
  else if (regIdx off 0x400 8 256).isSome then cardM 0xFFFFFFFF
  else if (regIdx off 0x404 8 256).isSome then cardM 0xFFFF
  else {}

/-- DEC_SLOTn. -/
def slotWord (s : Slot) : Word := natAt s.start 0 ||| natAt s.lenm1 8 ||| boolAt s.fs 12 ||| boolAt s.valid 16

/-- The current value of a DEC_ register. -/
def decGet (off : Nat) (c : Cabinet) : Word :=
  match regIdx off 0x000 4 16 with
  | some n => slotWord c.dec.slot[n]
  | none =>
  match regIdx off 0x400 8 256 with
  | some i => (c.dec.uop[i]).setWidth 32
  | none =>
  match regIdx off 0x404 8 256 with
  | some i => ((c.dec.uop[i]) >>> 32).setWidth 32
  | none =>
    if off = 0x080 then c.dec.check
    else if off = 0x084 then c.dec.fault
    else 0

/-- The effect of a write of a DEC_ register with the merged value `v`. -/
def decSet (loader : Bool) (off : Nat) (v : Word) (c : Cabinet) : Cabinet :=
  match regIdx off 0x000 4 16 with
  | some n => slotWrite loader n v c
  | none =>
  match regIdx off 0x400 8 256 with
  | some i => uopWrite loader i false v c
  | none =>
  match regIdx off 0x404 8 256 with
  | some i => uopWrite loader i true v c
  | none => c

/-- DCTL.SLOTV: the VALID bits (03, card c7). -/
def slotvWord (d : Dec) : Nat := (List.finRange 16).foldl (fun w n => if (d.slot[n]).valid then w + 2 ^ n.val else w) 0

end Sys2Proof.Machine
end

