-- ==== Sys2Proof/Machine/RegisterFile.lean ====
section
/-!
DEFINITION. Reads and writes of a cabinet's register blocks (spec/00_scope.md R6 to R14), and the CAB_ block
(spec/01_cabinets_and_sideboard.md, spec/02_the_frame.md).
-/
namespace Sys2Proof.Machine

/-! ## CAB_ block -/

/-- Cards of the CAB_ registers. -/
def cabCard (off : Nat) : Card :=
  match off with
  | 0x004 => cardC 0x207FE
  | 0x010 => cardM 0x1FFFFF
  | 0x014 => cardP 0x33FF
  | 0x018 => cardC 0x3F
  | 0x024 => cardM 2
  | _ => {}

/-- CAB_LOOPCFG. -/
def loopcfgWord (f : Frame) : Word := natAt f.deadline 0 ||| boolAt f.fallback 12 ||| boolAt f.ovtrip 13

/-- CAB_FRAME. -/
def frameWord (f : Frame) : Word := natAt f.flen 0 ||| boolAt f.dual 20

/-- CAB_LASTRUN. -/
def lastrunWord (f : Frame) : Word := natAt f.lastDutyN 0 ||| natAt f.lastRunN 12

/-- The current value of a CAB_ register. -/
def cabGet (off : Nat) (c : Cabinet) : Word :=
  match off with
  | 0x000 => cabStateWord c
  | 0x004 => c.err
  | 0x010 => frameWord c.frame
  | 0x014 => loopcfgWord c.frame
  | 0x018 => c.frame.stat
  | 0x01C => c.frame.count
  | 0x020 => lastrunWord c.frame
  | 0x024 => bankselWord c.bank
  | _ => 0

/-- A write of CAB_BANKSEL.REQ (02 R87): a bank that is not valid cannot be requested, the active one cancels; a CAB_BANK_SWAP
that waits for the cancelled swap is answered STATE_MISMATCH (log 28). -/
def bankReq (req : Bool) (c : Cabinet) : Cabinet :=
  if req == c.bank.active then
    let d := c.swapTickets.foldl (fun c t => c.answer (some t) stMismatch) c
    { d with bank := { c.bank with req := req, swapAtRunEnd := false, atBoundary := false }, swapTickets := [] }
  else if !(if req then c.bank.validB else c.bank.validA) then c
  else trySwap { c with bank := { c.bank with req := req } }

/-- A write of CAB_FRAME: only in EMPTY and LOADED, with FLEN limited. -/
def setCabFrame (v : Word) (c : Cabinet) : Cabinet :=
  if c.mode == .empty || c.mode == .loaded then
    { c with frame := { c.frame with flen := clampN 1600 640000 (fld v 0 20), dual := bit v 20 } }
  else c

/-- The effect of a write of a CAB_ register with the merged value `v`. -/
def cabSet (off : Nat) (v : Word) (c : Cabinet) : Cabinet :=
  match off with
  | 0x004 => { c with err := v }
  | 0x010 => setCabFrame v c
  | 0x018 => { c with frame := { c.frame with stat := v } }
  | 0x024 => bankReq (bit v 1) c
  | _ => c

/-! ## All blocks -/

/-- The block of a number. -/
def blkOf (i : Nat) : Blk :=
  match i with
  | 0 => .cab | 1 => .cnv | 2 => .pwm | 3 => .fbk | 4 => .drw | 5 => .tmr | 6 => .icu | 7 => .par | 8 => .prf | 9 => .ord
  | _ => .dec

/-- The block and offset of an address from 0x0004_0000 to 0x0004_AFFF (00 R6). -/
def regAt (a : Nat) : Blk × Nat := (blkOf ((a - 0x40000) / 0x1000), (a - 0x40000) % 0x1000)

/-- The card of a register. -/
def blockCard (b : Blk) (off : Nat) : Card :=
  if isCommon b off then commonCard b off
  else match b with
    | .cab => cabCard off | .cnv => cnvCard off | .pwm => pwmCard off | .fbk => fbkCard off | .drw => drwCard off
    | .tmr => tmrCard off | .icu => icuCard off | .par => parCard off | .prf => prfCard off | .ord => ordCard off
    | .dec => decCard off

/-- The value of a register; an offset without a card reads 0 (R14). -/
def blockGet (b : Blk) (off : Nat) (c : Cabinet) : Word :=
  if isCommon b off then commonGet b off c
  else match b with
    | .cab => cabGet off c | .cnv => cnvGet off c | .pwm => pwmGet off c | .fbk => fbkGet off c | .drw => drwGet off c
    | .tmr => tmrGet off c | .icu => icuGet off c | .par => parGet off c | .prf => prfGet off c | .ord => ordGet off c
    | .dec => decGet off c

/-- The side effects of a read. -/
def blockReadEffect (b : Blk) (off : Nat) (c : Cabinet) : Cabinet :=
  match b with
  | .cnv => cnvReadEffect off c | .fbk => fbkReadEffect off c | .drw => drwReadEffect off c | .tmr => tmrReadEffect off c
  | .icu => icuReadEffect off c | .prf => prfReadEffect off c | .ord => ordReadEffect off c
  | _ => c

/-- The effect of a write: `v` is the merged value, `w` the word written. -/
def blockSet (loader : Bool) (b : Blk) (off : Nat) (v w : Word) (c : Cabinet) : Cabinet :=
  if isCommon b off then commonSet b off v c
  else match b with
    | .cab => cabSet off v c | .cnv => cnvSet off v w c | .pwm => pwmSet off v c | .fbk => fbkSet off v c
    | .drw => drwSet off v w c | .tmr => tmrSet off v w c | .icu => icuSet off v w c | .par => parSet off v c
    | .prf => prfSet off v w c | .ord => ordSet off v w c | .dec => decSet loader off v c

/-- A read of the register at `a`: the value is delivered and the read's side effects take place. -/
def regRead (a : Nat) (c : Cabinet) : Cabinet :=
  let (b, off) := regAt a
  blockReadEffect b off { c with rdata := blockGet b off c }

/-- A write of `w` to the register at `a` that its level allows (R8). -/
def regApply (loader : Bool) (a : Nat) (w : Word) (c : Cabinet) : Cabinet :=
  let (b, off) := regAt a
  blockSet loader b off ((blockCard b off).merge (blockGet b off c) w) w c

/-- A write of `w` at level `l` to the register at `a` would change a field that `l` may not change, now or when what waits takes effect
(R10). A write that the register ignores, or stores as the current value, changes no field. -/
def regViolates (l : Level) (a : Nat) (w : Word) (c : Cabinet) : Bool :=
  let (b, off) := regAt a
  (blockCard b off).violates l (blockGet b off c) w &&
  (blockCard b off).violates l (blockGet b off c) (blockGet b off (applyWaitingRegs (regApply false a w c)))

/-- A write at level `l` (R8, R10): one that breaks R10 changes no field. -/
def regWrite (l : Level) (a : Nat) (w : Word) (c : Cabinet) : Cabinet :=
  if regViolates l a w c then c else regApply false a w c

/-- The value that REG_READ returns (16 R544): without side effects, 0 for the registers whose read pops or claims. -/
def regPeek (a : Nat) (c : Cabinet) : Word :=
  let (b, off) := regAt a
  if b == .icu && off == 0x204 then 0
  else if b == .tmr && (regIdx off 0x204 16 8).isSome then 0
  else if b == .drw && decide (off < 0x100) && off % 0x40 == 0x14 then 0
  else if b == .ord && (regIdx off 0xC00 4 128).isSome then 0
  else blockGet b off c

/-- A REG_WRITE of `w` would change a P2 field (R12). -/
def regTouchesP2 (a : Nat) (w : Word) (c : Cabinet) : Bool :=
  let (b, off) := regAt a
  ((blockGet b off c ^^^ w) &&& (blockCard b off).p2) != 0

end Sys2Proof.Machine
end

