-- ==== Sys2Proof/Machine/Store.lean ====
section
/-!
DEFINITION. The drain of the store buffer (spec/05_pipeline_and_timing.md R183, R189; spec/06_privilege_and_exceptions.md R654).
-/
namespace Sys2Proof.Machine

/-- The drain write of a store to a register block: one that breaks R10 changes no field and makes a privilege violation
pending (R654). -/
def drainRegister (e : StoreEntry) (c : Cabinet) : Cabinet :=
  if regViolates e.level e.addr e.data c then
    { c with pipe := { c.pipe with violation := c.pipe.violation ++ [(e.level, natAt e.addr 0)] } }
  else regApply false e.addr e.data c

/-- The drain write of a store to data memory or frame scratch, with its write access counted (R449 0x17, 0x19). -/
def drainMemory (e : StoreEntry) (c : Cabinet) : Cabinet :=
  bump (if e.addr < 0x20000 then 0x17 else 0x19) 1 { mst := some 1, data := some e.addr }
    (memWrite c.par.inj e.addr (bytesOf e.size e.data.toNat) c)

/-- The oldest store of the store buffer drains (R183). -/
def drainOne (c : Cabinet) : Cabinet :=
  match c.pipe.sbuf with
  | [] => c
  | e :: t =>
    let c := { c with pipe := { c.pipe with sbuf := t } }
    if isMem e.addr then drainMemory e c else drainRegister e c

/-- `n` stores drain in program order. -/
def drainN : Nat → Cabinet → Cabinet
  | 0, c => c
  | n + 1, c => drainN n (drainOne c)

/-- The store buffer drains. -/
def drainAll (c : Cabinet) : Cabinet := drainN c.pipe.sbuf.length c

/-- STORE_DRAIN (R183): while the cabinet's clocks run. -/
def storeDrain (c : Cabinet) : Cabinet := if c.clocksRun then drainOne c else c

end Sys2Proof.Machine
end

