-- ==== Sys2Proof/Machine/Frame.lean ====
section
/-!
DEFINITION. The frame and the loop path of a cabinet (spec/02_the_frame.md): the frame boundary with its events, update
points, the sample instant and the set's completion, the dispatch and the end of a run, the frame guard, the duty commit's
instants; pending state transitions (spec/01_cabinets_and_sideboard.md R32, R35) and the start of parking (spec/19 R613).
-/
namespace Sys2Proof.Machine

/-! ## Pending transitions (01 R32, R35) and parking (19 R613) -/

/-- R32 allows the transition from this state. -/
def lifeAllowed (m : CabMode) : LifeCmd → Bool
  | .arm => m == .loaded || m == .running
  | .rearm => m == .loaded || m == .running
  | .run => m == .armed
  | .park => m == .loaded || m == .armed || m == .running

/-- Parking starts (R613): the state changes, supervisory issue stops, no sample set is taken; a run in progress goes on.
A CAB_ARM that waits for calibration is discarded (R35), and an initial calibration is abandoned (08 R283). Other pending transitions that PARKED does not allow are the caller's. -/
def beginPark (ticket : Option Nat) (c : Cabinet) : Cabinet :=
  let loaded := c.mode == .loaded
  let c := setMode .parked { c with park := .entering, parkLoaded := loaded, parkTicket := ticket, armWait := false }
  let c : Cabinet := { c with
    pipe := { c.pipe with fault := none, hold := if c.pipe.hold == .wfi then .none else c.pipe.hold },
    cnv := { c.cnv with initCal := false } }
  c.note (.health 0x23)

/-- The first transition of the queue takes effect (event 1 of R77). Its command is answered after it (16 R521); CAB_PARK is
answered when parking is complete. -/
def takeTransition (p : Pending) (c : Cabinet) : Cabinet :=
  match p.cmd with
  | .run => (setMode .running c).answer p.ticket stOK
  | .park => beginPark p.ticket c
  | _ =>
    if c.mode == .loaded then
      let c := setMode .armed c
      (spareStart { c with frame :=
        { c.frame with running := true, pos := 0, count := 0, hbCount := 0, due := none, sampling := false } }).answer p.ticket stOK
    else (setMode .armed c).answer p.ticket stOK

/-- The transitions that stay pending after one has taken effect: those R32 allows from the new state; the others are answered
STATE_MISMATCH (R35). -/
def keepPending (c : Cabinet) : Cabinet :=
  let keep := c.pend.filter (fun p => lifeAllowed c.mode p.cmd)
  let drop := c.pend.filter (fun p => !lifeAllowed c.mode p.cmd)
  drop.foldl (fun c p => c.answer p.ticket stMismatch) { c with pend := keep }

/-- Event 1 of R77. -/
def lifeEvent (c : Cabinet) : Cabinet :=
  match c.pend with
  | [] => c
  | p :: t =>
    let c := { c with pend := t }
    if lifeAllowed c.mode p.cmd then keepPending (takeTransition p c) else keepPending (c.answer p.ticket stMismatch)

/-! ## The run (R55 to R66) -/

/-- What an end of a run does: CAB_LASTRUN, FIRST, the end of the issue stop and of WAITF's hold (R60, R64, R65), then a
swap that waited for it (R82, R83). `n` is RUNN. -/
def endRun (n : Nat) (c : Cabinet) : Cabinet :=
  if !c.frame.inRun then c
  else
    let f := c.frame
    let c := { c with
      frame := { f with inRun := false, stat := f.stat &&& 0xFFFFFDFF, lastRunN := min n 0xFFFFF, lastDutyN := f.dutyN },
      pipe := { c.pipe with
        issueStop := false, entryFirst := true, hold := if c.pipe.hold == .waitf then .none else c.pipe.hold } }
    let c := pulse 49 (bump 0x22 n {} c)
    if c.bank.swapAtRunEnd && swapReady c then doSwap c else trySwap c

/-- The frame guard acts (R67, R70, R71): OVR and OVCNT, the pending overrun, the trip and the fallback. -/
def guardAct (c : Cabinet) : Cabinet :=
  let f := c.frame
  let cnt := min (fld f.stat 16 16 + 1) 0xFFFF
  let c := { c with
    frame := { f with stat := setFld (f.stat ||| 1) 16 16 cnt, acted := true, guarding := false },
    pipe := { c.pipe with overrun := true } }
  let c := bump 0x23 1 {} c
  let c := if f.ovtrip then tripBy 3 c else c
  if f.fallback then
    let c := clearRel c
    { c with pwm := { c.pwm with fbsafe := true } }
  else c

/-- FRAME_GUARD (R67, R68): no DUTY of the set's run has retired in time. -/
def frameGuard (c : Cabinet) : Cabinet := if c.frame.guarding && !c.frame.committed then guardAct c else c

/-- The cycles from cycle 0 of the run in progress to the sample instant `inst` of the set at `half` (R66). -/
def overrunLength (half : Bool) (inst : Nat) (c : Cabinet) : Nat :=
  let mid := c.frame.flen / 2
  let span := if !c.frame.dual then frameLen c else if half then mid else frameLen c - mid
  span + inst - c.frame.lastInstant - 36

/-- The guard ends a run at the next sample instant (R66): RUNOVR and a pending overrun (R71). -/
def runOverrun (n : Nat) (c : Cabinet) : Cabinet :=
  if c.frame.inRun then
    let c := frameGuard c
    let c := { c with
      frame := { c.frame with stat := c.frame.stat ||| 2 }, pipe := { c.pipe with overrun := true } }
    endRun n c
  else c

/-- What has not retired is discarded (R60): WFI among it (R164), a resumable instruction with its progress in PRG; the store buffer
drains. -/
def discardAll (c : Cabinet) : Cabinet :=
  drainAll (endWalk { c with pipe := { c.pipe with fault := none, hold := if c.pipe.hold == .wfi then .none else c.pipe.hold } })

/-- SUPERVISORY_DISCARD (R60). A Machine-level handler that executes is not discarded (R59). -/
def supervisoryDiscard (c : Cabinet) : Cabinet :=
  if c.issueStopped && !c.frame.inRun && c.clocksRun then discardAll c else c

/-- Dispatch (R55): the store buffer is empty (R60), the frame context is cleared and the run starts at 0x2_0000. -/
def dispatchRun (c : Cabinet) : Cabinet :=
  let c := discardAll c
  let f := c.frame
  bump 0x21 1 {} { c with
    core := { c.core with frm := {}, frmFlags := 0, runPc := 0x20000 },
    pipe := { c.pipe with sched := {}, issueStop := true, fetchBuf := [] },
    frame := { f with inRun := true, stat := setBit f.stat 8 f.lastHalf } }

/-! ## Sample sets (R51, R52, R59 to R61) -/

/-- SAMPLE_INSTANT (R51, R60, R66, R361): the converters hold Vd of the eight inputs' voltages `vd` (08 R260), a run still in progress
ends, supervisory issue stops but for a Machine-level handler that executes (R59). -/
def sampleInstant (vd : Vector Int 8) (c : Cabinet) : Cabinet :=
  match c.frame.due with
  | none => c
  | some half =>
    if !c.frame.running then c
    else
      let inst := if c.cnv.decided then c.cnv.instant else sampleInstantOf half c
      let c := runOverrun (overrunLength half inst c) (frameGuard c)
      let c := holdSet vd { c with
        frame := { c.frame with
          due := none, sampling := true, lastHalf := half, lastInstant := inst,
          pos := (if half then c.frame.flen / 2 else 0) + inst },
        pipe := { c.pipe with issueStop := true } }
      bump 0x26 1 {} (snapshot half c)

/-- The sample registers and the range errors of a set (R95, 08 R257). -/
def takeSamples (codes : Vector (BitVec 14) 4) (c : Cabinet) : Cabinet :=
  let c := { c with core := { c.core with s := codes.map (fun x => natAt x.toNat 18) } }
  let oor := (List.finRange 4).foldl (fun (w : Word) p => w ||| boolAt (codeOor codes[p]) p.val) 0
  if oor != 0 then raiseErr .cnv oor c else c

/-- SAMPLE_SET_COMPLETE (R52, R55, R59): the codes held reach s0 to s3, the guard starts, and a run is dispatched unless a
Machine-level handler executes. -/
def sampleComplete (c : Cabinet) : Cabinet :=
  if !c.frame.sampling || !c.frame.running then c
  else
    let c := matchHeld (takeSamples c.cnv.held (supervisoryDiscard c))
    let c := { c with frame := { c.frame with
      sampling := false, guarding := true, acted := false, committed := false, dutyN := 0x7FF } }
    if c.pipe.mdepth > 0 || c.pipe.stopped then
      bump 0x24 1 {} { c with
        frame := { c.frame with stat := c.frame.stat ||| 0x10 }, pipe := { c.pipe with issueStop := false } }
    else dispatchRun c

/-! ## The commit's instants (R52, 09 R309) -/

/-- The carrier position `d` cycles after cycle 0 of the last set. -/
def loopPos (d : Nat) (c : Cabinet) : Nat :=
  (if c.frame.lastHalf then c.frame.flen / 2 else 0) + c.frame.lastInstant + 36 + d

/-- The carrier position moves forward to `p`. -/
def advancePos (p : Nat) (c : Cabinet) : Cabinet :=
  if c.frame.running then { c with frame := { c.frame with pos := max c.frame.pos (min p (frameLen c - 1)) } } else c

/-- DUTY_PORT_COMMIT, 4 cycles after DUTY retires. -/
def portCommitAt (c : Cabinet) : Cabinet :=
  match c.frame.commit with
  | .port _ _ => dutyPortCommit (advancePos (loopPos (c.frame.dutyN + 4) c) c)
  | _ => c

/-- SHADOW_LATCH, 12 cycles after DUTY retires. -/
def shadowLatchAt (c : Cabinet) : Cabinet :=
  match c.frame.commit with
  | .shadow => shadowLatchEvent (advancePos (loopPos (c.frame.dutyN + 12) c) c)
  | _ => c

/-! ## Update points and the frame boundary (R49, R77 to R79, R656) -/

/-- An update point: its set is due, with the sample instant `early` where its reserved interval has begun before (08 R262, R289). -/
def updatePoint (half : Bool) (early : Option Nat) (c : Cabinet) : Cabinet :=
  decideNow { c with
    frame := { c.frame with due := some half },
    cnv := { c.cnv with instant := early.getD 0, decided := early.isSome, ahead := none } }

/-- A clock switch that waited for a boundary (01 R43, R45): `true` to the internal oscillator. -/
def applyClockSwitch (c : Cabinet) : Cabinet :=
  match c.clockSwitch with
  | none => c
  | some b => { c with clockSwitch := none, hold := false, freeRun := b }

/-- Event 3 of R77: the swap, or its wait for the end of a run in progress (R81, R82). -/
def swapEvent (c : Cabinet) : Cabinet :=
  if swapReady c then
    (if c.frame.inRun then { c with bank := { c.bank with swapAtRunEnd := true } } else doSwap c)
  else c

/-- Events 2 to 9 of R77 at a boundary. `starting`: the boundary that starts the frame; `wake`: the one at which the cabinet
wakes into ARMED (R656). `cnt` are the counters at the start of the boundary cycle. -/
def boundaryEvents (starting wake : Bool) (cnt : Vector (BitVec 48) 64) (c : Cabinet) : Cabinet :=
  let early := if winLo c < 16 && !starting && !wake then some (c.cnv.ahead.getD (sampleInstantOf false c)) else none
  let c := swapEvent (applyProtected (applyWaitingRegs c))
  let c := { c with frame := { c.frame with
    pos := 0, count := if starting then 0 else if wake then c.frame.count else c.frame.count + 1 } }
  let c := { c with par := { c.par with leakCount := if starting || wake then c.par.leakCount else c.par.leakCount + 1 } }
  let c := pulse 48 (bump 0x27 1 {} (carrierAt 0 (updatePoint false early c)))
  let c := if starting || wake then c else rotationEvent c
  let c := portAdvance (drwFrameSync c)
  let c := applyPerf c
  let c := if starting || wake then c else dumpSnapshot cnt c
  c.note .heartbeat

/-- FRAME_BOUNDARY (R77): of a running frame, or the boundary at which a pending CAB_ARM starts it from LOADED. -/
def frameBoundary (c : Cabinet) : Cabinet :=
  if !c.clocksRun then c
  else if c.frame.running then
    let cnt := c.prf.cnt
    let c := lifeEvent (applyClockSwitch c)
    if c.mode == .parked then c.note .heartbeat else boundaryEvents false false cnt c
  else if c.mode == .loaded && !c.pend.isEmpty then
    let cnt := c.prf.cnt
    let c := lifeEvent (applyClockSwitch c)
    if c.frame.running then boundaryEvents true false cnt c else c
  else c

/-- UPDATE_POINT_U1 (R49, R79): of a running frame in double update. -/
def updatePointU1 (c : Cabinet) : Cabinet :=
  if c.frame.running && c.frame.dual && c.clocksRun then
    let mid := c.frame.flen / 2
    carrierAt (20 * mid) (updatePoint true c.cnv.ahead { c with frame := { c.frame with pos := mid } })
  else c

/-! ## Heartbeats of a cabinet whose frame does not run (01 R30) -/

/-- HEARTBEAT_PERIOD: the end of a period of FLEN cycles; the leak counter counts one frame (13 R430). -/
def heartbeatPeriod (c : Cabinet) : Cabinet :=
  if c.frame.running || !c.clocksRun || c.mode == .parked then c
  else
    ({ c with frame := { c.frame with hbCount := 0 }, par := { c.par with leakCount := c.par.leakCount + 1 } }).note .heartbeat

end Sys2Proof.Machine
end

