-- ==== Sys2Proof/Machine/Schedule.lean ====
section
/-!
DEFINITION. The count of a run by hand (spec/05_pipeline_and_timing.md R166 to R193, R205; spec/07 R250): availability, issue, start,
completion and retirement of each executed instruction, in program order, on the record `Sched` of the run. A younger load can take a
cycle of frame scratch from a drain that an older instruction waits for (R183); the record is then made again (`Sched.settle`).
-/
namespace Sys2Proof.Machine

/-- The first cycle from which a source is available (R169); what dispatch cleared is available from cycle 0. -/
def Sched.availOf (s : Sched) (r : Res) : Nat := ((s.avail.find? (fun x => x.1 == r)).map (·.2)).getD 0

/-- The number of starts in a cycle. -/
def startsAt (e : Nat) (l : List Nat) : Nat := (l.filter (· == e)).length

/-- Every station that the instruction takes has a start free in cycle `e` (R166, R168). -/
def Sched.startFree (s : Sched) (m : Micro) (e : Nat) : Bool :=
  (!m.alu || decide (startsAt e s.alu < 2)) && (!m.mac || decide (startsAt e s.mac < 1)) &&
  (!m.ls || decide (startsAt e s.ls < 1)) && (!m.flt || decide (startsAt e s.flt < 1))

/-- The first cycle from `e` on with a start free. -/
def Sched.firstFree (s : Sched) (m : Micro) (e : Nat) : Nat :=
  (findIdx (s.startFree m) (s.alu.length + s.mac.length + s.ls.length + s.flt.length + 1) e).getD e

/-- The cycles in which the stores' writes into frame scratch finish, oldest store first (R183): after retirement, in order, and
not in a cycle in which a load starts. -/
def drainCycles (loads : List Nat) : Nat → List SchedStore → List (SchedStore × Nat)
  | _, [] => []
  | prev, x :: t =>
    let from' := max (x.retire + 1) prev
    let w := (findIdx (fun e => !loads.contains e) (loads.length + 1) from').getD from'
    (x, w) :: drainCycles loads (w + 1) t

/-- The writes of the stores so far. -/
def Sched.drains (s : Sched) : List (SchedStore × Nat) := drainCycles s.assumed 0 s.stores.reverse

/-- Two byte ranges overlap; the first contains the second. -/
def rangesMeet (a n b m : Nat) : Bool := decide (a < b + m) && decide (b < a + n)
def rangeHolds (a n b m : Nat) : Bool := decide (a ≤ b) && decide (b + m ≤ a + n)

/-- A store of the same instruction, for the count of a custom one: address, size and start. -/
abbrev OwnStore := Nat × Nat × Nat

/-- The cycle in which the last of the older stores starts: no load starts before it (R184). -/
def Sched.storesStarted (s : Sched) (own : List OwnStore) : Nat :=
  own.foldl (fun e x => max e x.2.2) (s.stores.foldl (fun e x => max e x.start) 0)

/-- The cycle from which the words of a range that class V instructions wrote are there (R191). -/
def Sched.vecWritten (s : Sched) (a n : Nat) : Nat :=
  s.vmem.foldl (fun e x => if rangesMeet x.1 4 a n then max e x.2 else e) 0

/-- The start of a load that could otherwise start in `e`, and whether an older store forwards to it (R185). -/
def Sched.loadStart (s : Sched) (own : List OwnStore) (a n e : Nat) : Nat × Bool :=
  if own.any (fun x => rangesMeet x.1 x.2.1 a n) then (e, true)
  else
    let pend := s.drains.filter (fun x => rangesMeet x.1.addr x.1.size a n && decide (e ≤ x.2))
    match pend.getLast? with
    | none => (e, false)
    | some y => if rangeHolds y.1.addr y.1.size a n then (e, true) else (pend.foldl (fun w x => max w (x.2 + 1)) e, false)

/-- The start of a store that could otherwise start in `e`: a full store buffer delays it (R182). The instruction's own stores hold
their entries too; more than 8 of them are not delayed by one another (log 84). -/
def Sched.storeStart (s : Sched) (own : List OwnStore) (e : Nat) : Nat :=
  if own.length ≥ 8 then e
  else match s.drains.reverse[7 - own.length]? with
    | none => e
    | some y => max e (y.2 + 1)

/-- The first cycle in which an entry of every station that the instruction takes is free (R167). -/
def Sched.stationFree (s : Sched) (m : Micro) : Nat :=
  let free (used : Bool) (l : List Nat) (n : Nat) : Nat := if used then (l[n]?.map (· + 1)).getD 0 else 0
  max (max (free m.alu s.alu 7) (free m.mac s.mac 3)) (max (free m.ls s.ls 3) (free m.flt s.flt 3))

/-- The issue cycle (R205, row I), with the cycles that class Y, a reorder-buffer entry and a station entry held issue; `j` is the
micro-operation's index in its instruction. -/
def Sched.issueOf (s : Sched) (avail j : Nat) (m : Micro) : Nat × Waits :=
  let i := max (max avail (max (s.issue[0]?.getD 0) ((s.issue[1]?.map (· + 1)).getD 0))) s.issueFrom
  let y := max i (if m.sync then (s.retire[0]?.map (· + 1)).getD 0 else 0)
  let rob := (s.rob[15 - j]?.map (· + 1)).getD 0
  let x := max (max y rob) (max (s.stationFree m) (if m.afterBranch then s.branchE else 0))
  (if s.stopFrom ≤ x ∧ x ≤ s.stopTo then s.stopTo + 1 else x, { serial := y - i, rob := rob - y, station := s.stationFree m - y })

/-- A start: the cycle, the STALL code of what held it last (14 R464), whether a load is forwarded, and the cycles that a load waited
under R186 and a store under R182. -/
structure Start where
  cycle : Nat
  cause : Option Nat
  forwarded : Bool := false
  overlap : Nat := 0
  buffer : Nat := 0

/-- A start that `x` gives, held until cycle `e` by what code `n` names. -/
def heldTo (n : Option Nat) (e : Nat) (x : Nat × Option Nat) : Nat × Option Nat := if x.1 < e then (e, n) else x

/-- The start cycle (R205, row E). -/
def Sched.startOf (s : Sched) (own : List OwnStore) (i : Nat) (m : Micro) : Start :=
  let x := heldTo (some 1) (m.src.foldl (fun e r => max e (s.availOf r)) 0) (i + 1, some 0)
  let x := if m.oldest then heldTo none ((s.retire[0]?.map (· + 1)).getD 0) x else x
  let x := if m.stall = 0 then x else
    heldTo (some 2) (max (if m.mac then s.mac.foldl max 0 else 0)
      (max (if m.ls then s.ls.foldl max 0 else 0) (if m.flt then s.flt.foldl max 0 else 0))) x
  let turn (x : Nat × Option Nat) := heldTo (some 2) (s.firstFree m x.1) x
  match m.load with
  | some (a, n) =>
    let x := turn (heldTo (some 1) (s.vecWritten a n) (heldTo (some 3) (s.storesStarted own) x))
    let w := s.loadStart own a n x.1
    let y := turn (heldTo (some 4) w.1 x)
    { cycle := y.1, cause := y.2, forwarded := w.2, overlap := w.1 - x.1 }
  | none =>
    let x := turn x
    match m.store with
    | some _ =>
      let e := s.storeStart own x.1
      let y := turn (heldTo (some 6) e x)
      { cycle := y.1, cause := y.2, buffer := e - x.1 }
    | none => { cycle := x.1, cause := x.2 }

/-- The completion cycle (R205, row C). -/
def Micro.completeOf (m : Micro) (e : Nat) : Nat :=
  if m.stall ≠ 0 then (if m.vec then e + m.stall - 1 else e + m.stall)
  else if m.store.isSome then e else e + m.lat - 1

/-- The cycle from which the results are available (R169, R190, R191). -/
def Micro.availFrom (m : Micro) (e : Nat) : Nat :=
  if m.stall ≠ 0 then (if m.vec then e + m.stall else e + m.stall + 1) else e + m.lat

/-- Schedules one instruction or micro-operation: the record, its start and its completion. -/
def Sched.place (s : Sched) (own : List OwnStore) (avail j : Nat) (m : Micro) : Sched × Nat × Nat :=
  let (i, w) := s.issueOf avail j m
  let x := s.startOf own i m
  let e := x.cycle
  let from' := m.availFrom e
  let reads := m.load.isSome && !x.forwarded
  let s := { s with
    issue := i :: s.issue,
    avail := m.dst.foldl (fun l r => (r, from') :: l) s.avail,
    alu := if m.alu then e :: s.alu else s.alu, mac := if m.mac then e :: s.mac else s.mac,
    ls := if m.ls then e :: s.ls else s.ls, flt := if m.flt then e :: s.flt else s.flt,
    loads := if reads then e :: s.loads else s.loads,
    assumed := if reads && !s.again then e :: s.assumed else s.assumed,
    vmem := m.writes.map (fun a => (a, from')) ++ s.vmem,
    waits := {
      overlap := s.waits.overlap + x.overlap, buffer := s.waits.buffer + x.buffer, serial := s.waits.serial + w.serial,
      rob := s.waits.rob + w.rob, station := s.waits.station + w.station,
      stop := s.waits.stop + (if m.stall = 0 then 0 else e + m.stall - 1 - max i s.stopTo) },
    timing := { issue := i, start := e, complete := m.completeOf e, retire := 0, cause := x.cause },
    stopFrom := if m.stall = 0 then s.stopFrom else i + 1,
    stopTo := if m.stall = 0 then s.stopTo else
      let untilC := e + m.stall - 1
      if i + 1 ≤ s.stopTo then max s.stopTo untilC else untilC }
  (s, e, m.completeOf e)

/-- Schedules a sequence of micro-operations numbered from `j`: the record, the last start, the latest completion and the
stores with their starts. -/
def Sched.placeAll (custom : Bool) (avail : Nat) : Nat → List Micro → Sched → Nat × Nat × List OwnStore →
    Sched × Nat × Nat × List OwnStore
  | _, [], s, x => (s, x)
  | j, m :: t, s, (_, c, st) =>
    let (s, e, c') := s.place st (if custom then avail + 1 + j / 2 else avail) j m
    let st := match m.store with
      | some (a, n) => (a, n, e) :: st
      | none => st
    Sched.placeAll custom avail (j + 1) t s (e, max c c', st)

/-- One executed instruction of a run (R205). -/
def Sched.one (s : Sched) (x : SchedInstr) : Sched :=
  let avail := s.fetchS + (x.last / 8 - s.fetchGroup) + 2
  let (s1, e, c, st) := Sched.placeAll x.custom avail 0 x.ms s (0, 0, [])
  let t := max (c + 1) (max (s.retire[0]?.getD 0) ((s.retire[1]?.map (· + 1)).getD 0))
  let s2 := { s1 with
    retire := t :: s1.retire, rob := List.replicate x.ms.length t ++ s1.rob,
    stores := st.map (fun x => { addr := x.1, size := x.2.1, start := x.2.2, retire := t }) ++ s1.stores,
    issueFrom := if x.ms.any (·.sync) then t + 1 else s1.issueFrom,
    branchE := if x.branch then max s1.branchE (e + 1) else s1.branchE,
    timing := { s1.timing with retire := t },
    hist := x :: s1.hist }
  match x.jump with
  | none => s2
  | some (target, d) => { s2 with fetchS := e + d, fetchGroup := target / 8 }

/-- The record made again from its instructions, until the load starts that the drains take account of are those that result (R183). -/
def Sched.settle : Nat → Sched → Sched
  | 0, s => s
  | n + 1, s =>
    let r := s.hist.reverse.foldl Sched.one { assumed := s.loads, again := true }
    let r := { r with again := false, assumed := r.loads, duty := s.duty }
    if r.loads == s.loads then r else Sched.settle n r

/-- One executed instruction of a run, with its retire cycle T. -/
def Sched.instr (s : Sched) (last : Nat) (custom branch : Bool) (ms : List Micro) (jump : Option (Nat × Nat)) : Sched × Nat :=
  let r := s.one { last := last, custom := custom, branch := branch, ms := ms, jump := jump }
  let new := r.loads.take (r.loads.length - s.loads.length)
  let late := (decide (s.waits.overlap > 0) || decide (s.stores.length > 8)) && s.drains.any (fun x => new.contains x.2)
  let r := if late then Sched.settle (r.hist.length + 1) r else r
  (r, r.retire[0]?.getD 0)

/-- N of the run's commit on the record, if the run has one (R205). -/
def Sched.dutyCount (s : Sched) : Option Nat := s.duty.map (fun i => (s.retire.reverse[i]?.getD 0) + 1)

end Sys2Proof.Machine
end

