-- ==== Sys2Proof/Machine/CoreRegs.lean ====
section
/-!
DEFINITION. The registers of the Ezham core as the executing context sees them (spec/03_ezham_core_model.md R91 to R99,
spec/02 R55, R56) and the control registers with their timed effects (spec/05 R197 to R202).
-/
namespace Sys2Proof.Machine

/-! ## General registers -/

/-- The context that executes: the frame context in a run, else the supervisory one (R55). -/
def ctx (c : Cabinet) : Ctx := if c.frame.inRun then c.core.frm else c.core.sup

/-- Replaces the context that executes. -/
def setCtx (x : Ctx) (c : Cabinet) : Cabinet :=
  if c.frame.inRun then { c with core := { c.core with frm := x } } else { c with core := { c.core with sup := x } }

/-- Data register `i`. -/
def getD (i : Fin 16) (c : Cabinet) : Word := (ctx c).d[i]

/-- Writes data register `i`. -/
def setD (i : Fin 16) (v : Word) (c : Cabinet) : Cabinet := setCtx { ctx c with d := (ctx c).d.set i v } c

/-- The stack pointer of a level (R93). -/
def getSp (l : Level) (c : Cabinet) : Word :=
  match l with
  | .machine => c.core.msp
  | .kernel => c.core.ksp
  | .user => c.core.usp

/-- Writes the stack pointer of a level; its low bits are ignored (cards c8 to c10). -/
def setSp (l : Level) (v : Word) (c : Cabinet) : Cabinet :=
  let v := v &&& 0xFFFFFFFC
  match l with
  | .machine => { c with core := { c.core with msp := v } }
  | .kernel => { c with core := { c.core with ksp := v } }
  | .user => { c with core := { c.core with usp := v } }

/-- Address register `i` of 0 to 7 (a number from 8 on names none): a7 is the current level's stack pointer. -/
def getA (i : Nat) (c : Cabinet) : Word := if h : i < 7 then (ctx c).a[i] else getSp c.level c

/-- Writes address register `i`. -/
def setA (i : Nat) (v : Word) (c : Cabinet) : Cabinet :=
  if h : i < 7 then setCtx { ctx c with a := (ctx c).a.set i v h } c else setSp c.level v c

/-- Accumulator `x`. -/
def getAcc (x : Fin 2) (c : Cabinet) : Acc := (ctx c).acc[x]

/-- Writes accumulator `x`. -/
def setAcc (x : Fin 2) (v : Acc) (c : Cabinet) : Cabinet := setCtx { ctx c with acc := (ctx c).acc.set x v } c

/-! ## Flags -/

/-- The arithmetic flags of the executing context, as PSW bits. -/
def getFlags (c : Cabinet) : Word := (if c.frame.inRun then c.core.frmFlags else c.core.psw) &&& arithMask

/-- Replaces the arithmetic flags of the executing context. -/
def setFlags (w : Word) (c : Cabinet) : Cabinet :=
  if c.frame.inRun then { c with core := { c.core with frmFlags := (c.core.frmFlags &&& ~~~ arithMask) ||| (w &&& arithMask) } }
  else { c with core := { c.core with psw := (c.core.psw &&& ~~~ arithMask) ||| (w &&& arithMask) } }

/-- Applies an operation's flag update. -/
def putFlags (u : FlagUpd) (c : Cabinet) : Cabinet := setFlags (u.apply (getFlags c)) c

/-- The carry flag. -/
def carry (c : Cabinet) : Bool := bit (getFlags c) pswC

/-- PSW.DZE and OVE; a run reads the supervisory values. -/
def pswDze (c : Cabinet) : Bool := bit c.core.psw 9
def pswOve (c : Cabinet) : Bool := bit c.core.psw 10
/-- PSW.IE. -/
def pswIe (c : Cabinet) : Bool := bit c.core.psw 8

/-! ## Control registers (R96 to R99) -/

/-- The lowest level at which MTC and MFC reach a control register; a reserved number has none. -/
def ctlLowest (n : Nat) : Option Level :=
  if n = 0 ∨ n = 11 ∨ (12 ≤ n ∧ n ≤ 19) then some .user
  else if (1 ≤ n ∧ n ≤ 6) ∨ n = 9 ∨ n = 10 ∨ (20 ≤ n ∧ n ≤ 24) then some .kernel
  else if n = 7 ∨ n = 8 ∨ 28 ≤ n then some .machine
  else none

/-- The level reaches the control register (R96, R97). -/
def ctlReach (l : Level) (n : Nat) : Bool :=
  match ctlLowest n with
  | none => true
  | some m => decide (m.code ≤ l.code)

/-- The value a control register's effect has now. -/
def ctlNow (n : Nat) (c : Cabinet) : Word :=
  let k := c.core
  match n with
  | 0 => k.psw
  | 1 => k.evb
  | 2 => k.epc
  | 3 => k.epsw
  | 4 => k.ecause
  | 5 => k.eaddr
  | 6 => k.prg
  | 7 => boolAt c.wen 0 ||| natAt (slotvWord c.dec) 16
  | 8 => k.msp
  | 9 => k.ksp
  | 10 => k.usp
  | 11 => k.brv
  | 20 => k.uplo
  | 21 => k.uphi
  | 22 => k.udlo
  | 23 => k.udhi
  | 24 => k.uperm
  | 28 => 0x000000F1
  | 29 => 0x00100100
  | 30 => 0x00024000
  | 31 => 0x00000040
  | _ => if h : 12 ≤ n ∧ n ≤ 19 then k.ml[n - 12] else 0

/-- The fields of PSW whose effect is deferred: IE, DZE, OVE, LVL (R197). -/
abbrev pswDeferred : Word := 0x00003700

/-- The value of a control register: the last value written, although its effect may still be deferred (R197). -/
def ctlGet (n : Nat) (c : Cabinet) : Word :=
  match c.pipe.deferred.reverse.find? (fun x => x.reg == n) with
  | none => ctlNow n c
  | some x => if n = 0 then (ctlNow 0 c &&& ~~~ pswDeferred) ||| (x.value &&& pswDeferred) else x.value

/-- Cards of the control registers. -/
def ctlCard (n : Nat) : Card :=
  match n with
  | 0 => { rw := arithMask, rwK := 0x700, rwM := 0x3000 }
  | 1 => cardM 0x1FF00
  | 2 => cardK 0x3FFFF
  | 3 => cardK 0x001F371F
  | 6 => cardK 0x1FFFF
  | 7 => cardP 1
  | 8 => cardM 0xFFFFFFFC
  | 9 => cardK 0xFFFFFFFC
  | 10 => cardK 0xFFFFFFFC
  | 11 => { rw := 0xF }
  | 20 => cardK 0x3FFFF
  | 21 => cardK 0x3FFFF
  | 22 => cardK 0x3FFFF
  | 23 => cardK 0x3FFFF
  | 24 => cardK 0x306FF
  | _ => if 12 ≤ n ∧ n ≤ 19 then { rw := 0xFFFFFFFF } else {}

/-- Gives a control register its value, effect included. -/
def ctlSetNow (n : Nat) (v : Word) (c : Cabinet) : Cabinet :=
  let k := c.core
  match n with
  | 0 => { c with core := { k with psw := v } }
  | 1 => { c with core := { k with evb := v } }
  | 2 => { c with core := { k with epc := v } }
  | 3 => { c with core := { k with epsw := v } }
  | 6 => { c with core := { k with prg := v } }
  | 8 => { c with core := { k with msp := v } }
  | 9 => { c with core := { k with ksp := v } }
  | 10 => { c with core := { k with usp := v } }
  | 11 => { c with core := { k with brv := v } }
  | 20 => { c with core := { k with uplo := v } }
  | 21 => { c with core := { k with uphi := v } }
  | 22 => { c with core := { k with udlo := v } }
  | 23 => { c with core := { k with udhi := v } }
  | 24 => { c with core := { k with uperm := v } }
  | _ => if h : 12 ≤ n ∧ n ≤ 19 then { c with core := { k with ml := k.ml.set (n - 12) v } } else c

/-- The control registers whose effect is deferred as a whole: EVB, the User windows, UPERM (R197). -/
def ctlDeferred (n : Nat) : Bool := n == 1 || (decide (20 ≤ n) && decide (n ≤ 24))

/-- A deferred write takes effect. -/
def applyDeferred (x : Deferred) (c : Cabinet) : Cabinet :=
  if x.reg = 0 then ctlSetNow 0 ((c.core.psw &&& ~~~ pswDeferred) ||| (x.value &&& pswDeferred)) c
  else ctlSetNow x.reg x.value c

/-- Every deferred write takes effect (R199, R201). -/
def applyAllDeferred (c : Cabinet) : Cabinet :=
  let c' := c.pipe.deferred.foldl (fun c x => applyDeferred x c) c
  { c' with pipe := { c'.pipe with deferred := [] } }

/-- The deferred writes that go on waiting: those not due, and of these none that a later write of its register, now due, overtakes
(R199: the last value written prevails). -/
def stillDeferred : List Deferred → List Deferred
  | [] => []
  | x :: t =>
    if x.after == some 0 || t.any (fun y => y.reg == x.reg && y.after == some 0) then stillDeferred t else x :: stillDeferred t

/-- One supervisory instruction has retired: the deferred writes under R198 come one instruction nearer and take effect when
two instructions have followed. -/
def ageDeferred (c : Cabinet) : Cabinet :=
  let aged := c.pipe.deferred.map (fun x => { x with after := x.after.map (· - 1) })
  let c' := (aged.filter (fun x => x.after == some 0)).foldl (fun c x => applyDeferred x c) c
  { c' with pipe := { c'.pipe with deferred := stillDeferred aged } }

/-- Holds a write until its time (R198 in normal service, R199 otherwise; R200). The count starts after the MTC itself. -/
def defer (n : Nat) (v : Word) (c : Cabinet) : Cabinet :=
  { c with pipe := { c.pipe with deferred := c.pipe.deferred ++ [⟨n, v, if c.normalService then some 3 else none⟩] } }

/-- The merged value of a write to a control register; a LVL of 0b10 leaves LVL unchanged. -/
def ctlMerge (n : Nat) (w : Word) (c : Cabinet) : Word :=
  let old := ctlGet n c
  let v := (ctlCard n).merge old w
  if n = 0 ∧ fld v 12 2 = 2 then setFld v 12 2 (fld old 12 2) else v

/-- A write of a control register outside a run that its level allows (R8, R197). -/
def ctlWrite (n : Nat) (w : Word) (c : Cabinet) : Cabinet :=
  let v := ctlMerge n w c
  if n = 0 then
    let c1 := setFlags v c
    if v &&& pswDeferred = ctlGet 0 c &&& pswDeferred && c.pipe.deferred.all (fun x => x.reg != 0) then c1 else defer 0 v c1
  else if ctlDeferred n then defer n v c
  else ctlSetNow n v c

/-- What MFC of PSW returns: in a run the frame context's flags, LVL 0b11 and RUN 1 with the supervisory IE, DZE and OVE. -/
def pswRead (c : Cabinet) : Word :=
  if c.frame.inRun then (c.core.frmFlags &&& arithMask) ||| (ctlGet 0 c &&& 0x700) ||| 0x7000 else ctlGet 0 c

end Sys2Proof.Machine
end

