-- ==== Sys2Proof/Machine/Operands.lean ====
section
/-!
DEFINITION. Data accesses of the core (spec/03_ezham_core_model.md R104 to R108, R115 to R119; spec/02 R57; spec/05 R182 to R189;
spec/14 R454), and what one instruction's execution delivers.
-/
namespace Sys2Proof.Machine

/-! ## Attributes of occurrences (14 R450) -/

/-- The cycle class of an instruction, as PRF_FLTk and R463 number it. -/
inductive Cls where
  | a | b | m | f | l | s | v | y | u
  deriving DecidableEq, Repr

/-- The number of a class. -/
def Cls.code : Cls → Nat
  | .a => 0 | .b => 1 | .m => 2 | .f => 3 | .l => 4 | .s => 5 | .v => 6 | .y => 7 | .u => 8

/-- The number of a level among the attributes. -/
def Level.num : Level → Nat
  | .user => 0 | .kernel => 1 | .machine => 2

/-- The program address of the instruction that executes. -/
def curPc (c : Cabinet) : Word := if c.frame.inRun then c.core.runPc else c.core.pc

/-- The number of the level attribute: User, Kernel, Machine or Run. -/
def lvlAttr (c : Cabinet) : Nat := if c.frame.inRun then 3 else c.level.num

/-- The attributes L, P and C of the instruction that executes. -/
def insAttr (k : Cls) (c : Cabinet) : Attr :=
  { lvl := some (lvlAttr c), prog := some (curPc c).toNat, cls := some k.code }

/-! ## What one instruction delivers -/

/-- The execution of one instruction: the cabinet after it, a fault (which leaves only records of parity and of custom faults
in the cabinet) or a trap, the target of a taken transfer of control, whether a conditional branch was taken, whether it stays
unretired, and what its count needs (R205). -/
structure Ret where
  c : Cabinet
  fault : Option Exc := none
  trap : Option Exc := none
  jump : Option Word := none
  branch : Option Bool := none
  stay : Bool := false
  /-- A cause that can be selected is taken before the next instruction (R164). -/
  first : Bool := false
  ops : List Micro := []
  /-- The cycles from a taken transfer's start to the fetch of its target: 1, and 2 for RET (R175, R176). -/
  delay : Nat := 1
  /-- WAITF of a run: the run ends with it (02 R64). -/
  ends : Bool := false
  /-- DUTY of a run: its mask and the values it passes (R151). -/
  duty : Option (Nat × List Word) := none

/-- A fault of the instruction. -/
def Ret.faulted (c : Cabinet) (e : Exc) (ops : List Micro := []) : Ret := { c := c, fault := some e, ops := ops }

/-- The illegal-instruction fault (R123, R125). The spec gives such an instruction no class; in a run it counts as one of class A
(log 85). -/
def illegal (c : Cabinet) : Ret := Ret.faulted c { vec := 3 } [{ alu := true }]

/-- The illegal-instruction fault of an instruction of class Y in a run (R128, R192). -/
def illegalY (c : Cabinet) : Ret := Ret.faulted c { vec := 3 } [{ sync := true }]

/-- The privilege-violation fault (R127). -/
def privileged (c : Cabinet) : Ret := Ret.faulted c { vec := 4 } [{ alu := true }]

/-! ## Access checks -/

/-- A bound of a User window. -/
def userData (c : Cabinet) (a n : Nat) : Bool :=
  bit c.core.uperm 17 && decide (fld c.core.udlo 0 18 ≤ a) && decide (a + n ≤ fld c.core.udhi 0 18 + 1)

/-- A User read of the PRF_ block that R454 permits. -/
def userPrf (c : Cabinet) (off : Nat) : Bool :=
  (bit c.prf.ctrl 0 && (off == 4 || off == 8 || (decide (0x200 ≤ off) && decide (off < 0x400)))) ||
  (bit c.prf.ctrl 1 && decide (0x800 ≤ off) && decide (off < 0xC00))

/-- User level reaches a register (R106). -/
def userReg (c : Cabinet) (a : Nat) (load : Bool) : Bool :=
  let i := (a - 0x40000) / 0x1000
  if i = 8 then load && userPrf c ((a - 0x40000) % 0x1000) else bit c.core.uperm i

/-- The executing level may reach `n` bytes at `a` (R57, R104, R106, R107). -/
def mayReach (c : Cabinet) (a n : Nat) (load : Bool) : Bool :=
  if c.frame.inRun then decide (0x20000 ≤ a) && decide (a + n ≤ 0x22000)
  else match region a with
    | .none => false
    | .stack => c.level == .machine
    | .regs => c.level != .user || userReg c a load
    | _ => c.level != .user || userData c a n

/-- The exception of an access of `n` bytes at `a`, if there is one (R7, R105 to R108). -/
def accessFault (a : Word) (n : Nat) (k : AccKind) (c : Cabinet) : Option Exc :=
  let x := a.toNat
  if x % n ≠ 0 ∨ (region x = .regs ∧ n ≠ 4) then some { vec := 7, acc := k, addr := a }
  else if mayReach c x n (k == .load) then none
  else some { vec := 8, acc := k, addr := a }

/-! ## Loads (R183 to R187) -/

/-- What a load delivers: a value, an exception, or nothing because a privilege violation of an older store became pending
when the buffer drained for it, and is entered first (R211, R654); no violation is entered in a run (R232). -/
inductive Got where
  | val (v : Nat)
  | exc (e : Exc)
  | held
  deriving DecidableEq, Repr

/-- The store overlaps the range. -/
def StoreEntry.meets (e : StoreEntry) (a n : Nat) : Bool := rangesMeet e.addr e.size a n

/-- The bytes of the range that a containing store forwards. -/
def StoreEntry.forward (e : StoreEntry) (a n : Nat) : Nat := e.data.toNat % 2 ^ (8 * e.size) / 2 ^ (8 * (a - e.addr)) % 2 ^ (8 * n)

/-- Counts a read access of a memory by core data. -/
def countRead (a : Nat) (c : Cabinet) : Cabinet :=
  bump (if a < 0x20000 then 0x16 else 0x18) 1 { mst := some 1, data := some a } c

/-- The number of stores, from the oldest, up to the youngest that overlaps the range; 0 with none. -/
def overlapDepth (c : Cabinet) (a n : Nat) : Nat :=
  let r := c.pipe.sbuf.reverse
  match r.findIdx? (fun e => e.meets a n) with
  | none => 0
  | some i => r.length - i

/-- The youngest store that overlaps the range. -/
def youngest (c : Cabinet) (a n : Nat) : Option StoreEntry := c.pipe.sbuf.reverse.find? (fun e => e.meets a n)

/-- A load from memory: forwarded (R185), or read after the overlapping stores have drained, with its parity check (R427).
`pop` marks a stack pop, which R443 leaves to the usual check. -/
def loadMem (pop : Bool) (k : Cls) (a n : Nat) (c : Cabinet) : Cabinet × Got :=
  let at' : Attr := { insAttr k c with data := some a }
  match youngest c a n with
  | some e =>
    if rangeHolds e.addr e.size a n then (bump 0x11 1 at' (bump 0x0F 1 at' c), .val (e.forward a n))
    else
      let c := drainN (overlapDepth c a n) c
      if !c.frame.inRun && !c.pipe.violation.isEmpty then (c, .held)
      else
        let r := (if pop then popCheck a else loadCheck a n) (countRead a (bump 0x0F 1 at' c))
        if r.2 then (r.1, .exc { vec := 1, acc := .load }) else (r.1, .val (memRead r.1 a n))
  | none =>
    let r := (if pop then popCheck a else loadCheck a n) (countRead a (bump 0x0F 1 at' c))
    if r.2 then (r.1, .exc { vec := 1, acc := .load }) else (r.1, .val (memRead r.1 a n))

/-- A load from a register block starts: the store buffer has drained (R187). -/
def startReg (k : Cls) (a : Nat) (c : Cabinet) : Cabinet :=
  let at' : Attr := { insAttr k c with data := some a }
  bump 0x14 1 at' (bump 0x0F 1 at' c)

/-- A load from a register block: the store buffer drains first, and the read's side effects take place once (R187). -/
def loadReg (k : Cls) (a : Nat) (c : Cabinet) : Cabinet × Got :=
  let c := drainAll c
  if !c.frame.inRun && !c.pipe.violation.isEmpty then (c, .held)
  else
    let c := regRead a (startReg k a c)
    (c, .val c.rdata.toNat)

/-- A load of `n` bytes at `a`, checks included. -/
def load (k : Cls) (a : Word) (n : Nat) (c : Cabinet) : Cabinet × Got :=
  match accessFault a n .load c with
  | some e => (c, .exc e)
  | none => if isMem a.toNat then loadMem false k a.toNat n c else loadReg k a.toNat c

/-- What is left of a word load when its instruction faults later: it started, but the read of a register has no side effect (R126;
log 84). -/
def loadStarted (k : Cls) (c : Cabinet) (a : Word) : Cabinet :=
  if isMem a.toNat then (load k a 4 c).1 else startReg k a.toNat (drainAll c)

/-- A load of a word at `a` that stops its instruction, after the instruction's loads at `earlier`. -/
def loadStops (k : Cls) (earlier : List Word) (a : Word) (c : Cabinet) : Cabinet :=
  (load k a 4 (earlier.foldl (loadStarted k) c)).1

/-- A stack pop at `a` (R176). -/
def popWordAt (a : Word) (c : Cabinet) : Cabinet × Got :=
  match accessFault a 4 .load c with
  | some e => (c, .exc e)
  | none => if isMem a.toNat then loadMem true .b a.toNat 4 c else loadReg .b a.toNat c

/-! ## Stores (R182) -/

/-- A store that passed its checks takes a store-buffer entry; a full buffer drains its oldest first. -/
def pushStore (k : Cls) (a : Word) (n : Nat) (v : Word) (c : Cabinet) : Cabinet :=
  let c := if c.pipe.sbuf.length ≥ 8 then drainOne c else c
  let c := bump 0x10 1 { insAttr k c with data := some a.toNat } c
  { c with pipe := { c.pipe with sbuf := c.pipe.sbuf ++ [⟨a.toNat, n, v, c.level⟩] } }

/-! ## Addressing modes (R115 to R119) -/

/-- The effective address of an access of `n` bytes. -/
def Mode.ea (m : Mode) (n : Nat) (a : Word) : Word :=
  match m with
  | .off o => a + (o.signExtend 32) * BitVec.ofNat 32 n
  | _ => a

/-- The modulo rule (R118): `step` is signed, `ml` the MLn register. -/
def moduloStep (ml : Word) (a : Word) (step : Int) : Word :=
  let len := fld ml 0 16
  let base := fld ml 16 16 * 4
  let new : Int := (a.toNat : Int) + step
  if len = 0 then wordOfInt new
  else if step > 0 ∧ new ≥ base + len then wordOfInt (new - len)
  else if step < 0 ∧ new < base then wordOfInt (new + len)
  else wordOfInt new

/-- The bit-reversed rule (R119): `k` is log2 of the step. -/
def brevStep (w : Nat) (a : Word) (n k : Nat) : Word :=
  if w = 0 then a + BitVec.ofNat 32 n
  else
    let idx := fld a k w
    let idx' := bitrev w ((bitrev w idx + 1) % 2 ^ w)
    setFld a k w idx'

/-- The address register after a completed access; `none` when the mode leaves it. -/
def Mode.next (m : Mode) (i : Nat) (n : Nat) (c : Cabinet) : Option Word :=
  let a := getA i c
  let ml := c.core.ml[Fin.ofNat 8 i]
  match m with
  | .ind => none
  | .off _ => none
  | .inc => some (a + BitVec.ofNat 32 n)
  | .dec => some (a - BitVec.ofNat 32 n)
  | .modInc => some (moduloStep ml a n)
  | .modDec => some (moduloStep ml a (- (n : Int)))
  | .brev => some (brevStep (fld c.core.brv 0 4) a n (if n = 4 then 2 else if n = 2 then 1 else 0))

/-- The mode's update of its address register. -/
def stepMode (m : Mode) (i n : Nat) (c : Cabinet) : Cabinet :=
  match m.next i n c with
  | none => c
  | some v => setA i v c

end Sys2Proof.Machine
end

