-- ==== Sys2Proof/Machine/Exceptions.lean ====
section
/-!
DEFINITION. Exceptions of the core (spec/06_privilege_and_exceptions.md): the cause that the core selects, entry with its
stack check, double fault and CORESTOP, and the return by RETE.
-/
namespace Sys2Proof.Machine

/-! ## Which cause is selected (R211, R228 to R232, R654) -/

/-- Where a selected cause stands. -/
inductive Pick where
  | runExc | heldTrap | heldViol | trap | viol | fault | overrun | interrupt
  deriving DecidableEq, Repr

/-- A selected cause: the exception, the level that takes it, whether it ended a run. -/
structure Cause where
  exc : Exc
  level : Level
  run : Bool := false
  pick : Pick
  deriving DecidableEq, Repr

/-- The level that takes a vector raised by code at level `l` (R208). -/
def takenAt (vec : Nat) (l : Level) : Level :=
  if vec = 1 ∨ vec = 2 ∨ vec = 9 ∨ vec = 10 ∨ vec = 13 then .machine
  else if vec = 11 then (if l = .user then .kernel else .machine)
  else if l = .machine then .machine else .kernel

/-- The address fault of a fetch at `a` (R101, R106; in a run R57). -/
def fetchFault (a : Word) (c : Cabinet) : Option Exc :=
  let x := a.toNat
  let ok :=
    if c.frame.inRun then decide (0x20000 ≤ x) && decide (x < 0x24000)
    else decide (x < 0x24000) &&
      (c.level != .user || (bit c.core.uperm 16 && decide (fld c.core.uplo 0 18 ≤ x) && decide (x ≤ fld c.core.uphi 0 18)))
  if ok then none else some { vec := 8, acc := .fetch, addr := a }

/-- The fault of the oldest supervisory instruction: raised by it, or by the fetch at the program counter. -/
def pendingFault (c : Cabinet) : Option Exc :=
  match c.pipe.fault with
  | some e => some e
  | none => fetchFault c.core.pc c

/-- The causes that need the store buffer empty and no run, in the order of R228, with R231 and R232 first. -/
def selectCause (c : Cabinet) : Option Cause :=
  let p := c.pipe
  let l := c.level
  let of (e : Exc) (k : Pick) : Cause := { exc := e, level := takenAt e.vec (e.level.getD l), pick := k }
  let viol (x : Level × Word) (k : Pick) : Cause :=
    { exc := { vec := 4, acc := .store, addr := x.2 }, level := takenAt 4 x.1, pick := k }
  let runE := p.runExc.map (fun e => ({ exc := e, level := .machine, run := true, pick := .runExc } : Cause))
  let held := if p.mdepth = 0 then (p.heldTrap.map (fun e => of e .heldTrap)).or (p.heldViol.head?.map (fun x => viol x .heldViol))
    else none
  let trap := p.trap.map (fun e => of e .trap)
  let vio := p.violation.head?.map (fun x => viol x .viol)
  let f := pendingFault c
  let mc := match f with
    | some e => if e.vec = 1 then some (of e .fault) else none
    | none => none
  let tooLong := if p.overrun && p.mdepth = 0 then some (of { vec := 10 } .overrun) else none
  let other := f.map (fun e => of e .fault)
  let int :=
    if pswIe c && p.hold != .waitf then (icuDeliverable c).map (fun q => of { vec := 31 + q } .interrupt) else none
  runE.or (held.or (trap.or (vio.or (mc.or (tooLong.or (other.or int))))))

/-- The core may take an exception: it is not stopped, no run is in progress and none is due (R232). -/
def mayEnter (c : Cabinet) : Bool :=
  c.clocksRun && c.mode != .parked && !(c.mode == .test && c.testParked) && !c.pipe.stopped && !c.frame.inRun && !c.issueStopped

/-- The selected cause no longer pends; what has not retired is discarded with it (R172, R211). A WAITF that holds issue has retired:
its hold ends with the entry, also where the cause is none of an interrupt, and after the handler's return the code after it goes on: the
spec does not say whether the hold survives (DESIGN CHOICE, log 86). -/
def clearPick (k : Pick) (c : Cabinet) : Cabinet :=
  let p := { c.pipe with fault := none, hold := .none, entryFirst := false }
  { c with pipe := match k with
      | .runExc => { p with runExc := none }
      | .heldTrap => { p with heldTrap := none }
      | .heldViol => { p with heldViol := p.heldViol.tail }
      | .trap => { p with trap := none }
      | .viol => { p with violation := p.violation.tail }
      | .overrun => { p with overrun := false }
      | .fault => p
      | .interrupt => p }

/-! ## Entry (R212 to R222) -/

/-- The machine stack cannot be written (R220): trip, core stopped, CORESTOP; the frame stops (02 R48). -/
def coreStop (c : Cabinet) : Cabinet :=
  let c := tripBy 5 { c with err := c.err ||| bitW 16, pipe := { c.pipe with stopped := true } }
  frameStop c

/-- The stack check of R215 for a level's stack pointer. -/
def stackOk (l : Level) (sp : Nat) : Bool :=
  if l = .machine then decide (0x21F08 ≤ sp) && decide (sp ≤ 0x22000)
  else decide (8 ≤ sp) && decide (sp ≤ 0x21F00)

/-- ECAUSE as entry writes it. -/
def ecauseWord (e : Exc) (run : Bool) : Word :=
  let acc := match e.acc with
    | .fetch => 0
    | .load => 1
    | .store => 2
    | .none => 3
  natAt e.vec 0 ||| boolAt run 6 ||| natAt acc 8

/-- EADDR as entry writes it (card c5, R654). -/
def eaddrWord (e : Exc) : Word := if e.vec = 7 ∨ e.vec = 8 ∨ e.vec = 4 then e.addr else 0

/-- A hardware push of entry: one word below `sp`, stored at once. -/
def entryPush (l : Level) (sp : Word) (v : Word) (c : Cabinet) : Cabinet :=
  let a := (sp - 4).toNat
  let at' : Attr := { lvl := some l.num, data := some a }
  let c := bump 0x10 1 at' c
  bump (if a < 0x20000 then 0x17 else 0x19) 1 { mst := some 1, data := some a }
    (memWrite c.par.inj a (bytesOf 4 v.toNat) c)

/-- The counts of an entry (14 R449). -/
def countEntry (vec : Nat) (l : Level) (c : Cabinet) : Cabinet :=
  let at' : Attr := { lvl := some l.num }
  let c := if vec ≥ 32 then bump 0x1D 1 at' c else bump 0x1C 1 at' c
  if vec = 2 then bump 0x1E 1 at' c else c

/-- The registers that entry leaves (R212), with MDEPTH counted for a Machine-level entry (R217). -/
def entryRegs (e : Exc) (l : Level) (run : Bool) (resume sp : Word) (c : Cabinet) : Cabinet :=
  let k := c.core
  let depth := if l = .machine then c.pipe.mdepth + 1 else c.pipe.mdepth
  let c' := setSp l (sp - 8) { c with
    core := { k with
      epc := resume &&& 0x3FFFF, epsw := k.psw &&& 0x001F371F, ecause := ecauseWord e run, eaddr := eaddrWord e,
      psw := setFld (k.psw &&& ~~~ (bitW 8)) 12 2 l.code },
    pipe := { c.pipe with mdepth := depth, dfDepth := if e.vec = 2 then some depth else c.pipe.dfDepth } }
  c'

/-- The bytes under the two pushes as they stood before an entry (R221). -/
def unpush (saved : List SavedByte) (c : Cabinet) : Cabinet :=
  { c with mems := { c.mems with data := saved.foldl Mem.restore c.mems.data } }

/-- One attempt at an entry. `false`: the stack check failed, or the vector entry could not be used, and the registers and the bytes
under the pushes stand as before (R219, R221). -/
def enterOnce (e : Exc) (l : Level) (run : Bool) (resume : Word) (c : Cabinet) : Cabinet × Bool :=
  let sp := getSp l c
  if !stackOk l sp.toNat then (c, false)
  else
    let undo : EntryUndo := {
      psw := c.core.psw, epc := c.core.epc, epsw := c.core.epsw, msp := c.core.msp, ksp := c.core.ksp,
      mdepth := c.pipe.mdepth, resume := resume, double := e.vec == 2, ranRun := run,
      saved := c.mems.data.save (sp.toNat - 8) 8 }
    let c1 := entryPush l (sp - 4) c.core.epsw (entryPush l sp c.core.epc c)
    let va := fld c.core.evb 8 9 * 256 + 4 * e.vec
    let r := popCheck va (countRead va c1)
    let v : Word := natAt (memRead r.1 va 4) 0
    if r.2 || fld v 18 14 ≠ 0 then (unpush undo.saved r.1, false)
    else
      let c2 := countEntry e.vec l (entryRegs e l run resume sp r.1)
      ({ c2 with core := { c2.core with pc := v }, pipe := { c2.pipe with fresh := some undo, fetchBuf := [] } }, true)

/-- The double fault (R219). -/
def doubleExc : Exc := { vec := 2 }

/-- The double fault of an exception that would have saved `resume`; one that cannot be entered, or that arises before the first
instruction of a double-fault handler has retired, stops the core (R220, R222). -/
def enterDouble (run : Bool) (resume : Word) (c : Cabinet) : Cabinet :=
  if c.pipe.dfDepth.isSome then coreStop c
  else
    let r := enterOnce doubleExc .machine run resume c
    if r.2 then r.1 else coreStop r.1

/-- TAKING AN EXCEPTION (R212): deferred writes take effect, then the entry, converted to a double fault where it fails. -/
def takeException (e : Exc) (l : Level) (run : Bool) (resume : Word) (c : Cabinet) : Cabinet :=
  let c := applyAllDeferred c
  if e.vec = 2 then enterDouble run resume c
  else
    let r := enterOnce e l run resume c
    if r.2 then r.1 else enterDouble run resume r.1

/-- An entry whose handler's first fetch fails is undone (R221). -/
def undoEntry (u : EntryUndo) (c : Cabinet) : Cabinet :=
  { unpush u.saved c with
    core := { c.core with psw := u.psw, epc := u.epc, epsw := u.epsw, msp := u.msp, ksp := u.ksp },
    pipe := { c.pipe with mdepth := u.mdepth, fresh := none, fault := none } }

/-- The selected cause is entered (R211, R221, R222). -/
def enterCause (x : Cause) (c : Cabinet) : Cabinet :=
  let c := clearPick x.pick (endWalk c)
  match c.pipe.fresh with
  | some u =>
    if x.pick == .fault && x.exc.acc == .fetch then enterDouble u.ranRun u.resume (undoEntry u c)
    else takeException x.exc x.level x.run c.core.pc c
  | none => takeException x.exc x.level x.run c.core.pc c

/-- EXCEPTION_ENTRY (R211, R212): the store buffer drains and the first cause in order is entered; with no cause nothing
happens. -/
def exceptionEntry (c : Cabinet) : Cabinet :=
  if !mayEnter c then c
  else
    let d := drainAll c
    match selectCause d with
    | none => c
    | some x => enterCause x d

/-! ## Return (R224 to R226) -/

/-- What level `r` may read for RETE's pops: memory only. -/
def popReach (c : Cabinet) (r : Level) (sp : Nat) : Bool :=
  (List.range 8).all (fun i =>
    match region (sp + i) with
    | .data => r != .user || userData c (sp + i) 1
    | .scratch => r != .user || userData c (sp + i) 1
    | .stack => r == .machine
    | _ => false)

/-- RETE (R127, R128, R224). -/
def reteBody (c : Cabinet) : Ret :=
  let sync : List Micro := [{ sync := true }]
  if c.frame.inRun then illegalY c
  else
    let r := c.level
    if r = .user then privileged c
    else
      let c := applyAllDeferred c
      let lvl := fld c.core.epsw 12 2
      if lvl = 2 ∨ lvl > r.code then Ret.faulted c { vec := 13 }
      else
        let sp := getSp r c
        if !popReach c r sp.toNat then Ret.faulted c doubleExc
        else
          let (c1, g1) := loadMem true .y sp.toNat 4 c
          match g1 with
          | .exc e => Ret.faulted c1 e
          | .held => { c := c1, stay := true }
          | .val w0 =>
            let (c2, g2) := loadMem true .y (sp.toNat + 4) 4 c1
            match g2 with
            | .exc e => Ret.faulted c2 e
            | .held => { c := c2, stay := true }
            | .val w1 =>
              let k := c2.core
              let target := k.epc
              let c3 := { c2 with
                core := { k with psw := k.epsw, epsw := natAt w0 0 &&& 0x001F371F, epc := natAt w1 0 &&& 0x3FFFF },
                pipe := { c2.pipe with mdepth := if r = .machine then c2.pipe.mdepth - 1 else c2.pipe.mdepth } }
              { c := setSp r (sp + 8) c3, jump := some target, ops := sync }

end Sys2Proof.Machine
end

