-- ==== Sys2Proof/Machine/Issue.lean ====
section
/-!
DEFINITION. How one instruction of the core runs whole (spec/05_pipeline_and_timing.md, spec/02_the_frame.md): whether the core
issues it, its fetch through the fetch buffer, the cache and the line buffer with the address and parity checks, its decoding, its
retirement, its fault or trap, and in a run its cycle count, the commit of DUTY and the end of the run.
-/
namespace Sys2Proof.Machine

/-! ## Cache, line buffer and fetch buffer (R173, R174, R178, R179, R434; 03 R101, R102) -/

/-- The cache line and the fetch group of a program address. -/
def lineOf (a : Nat) : Nat := a / 16
def groupOf (a : Nat) : Nat := a / 8

/-- The physical words of a line of the program store, and of a group, as they stand. -/
def storeLine (c : Cabinet) (line : Nat) : CacheLine := { line := line, words := (List.range 16).map (fun i => progWord c (16 * line + i)) }
def storeGroup (c : Cabinet) (g : Nat) : FetchGroup := { group := g, words := (List.range 8).map (fun i => progWord c (8 * g + i)) }

/-- The group of a line. -/
def CacheLine.take (l : CacheLine) (g : Nat) : FetchGroup := { group := g, words := (l.words.drop (8 * (g % 2))).take 8 }

/-- Every syllable of the line passes parity. -/
def CacheLine.good (l : CacheLine) : Bool := l.words.all (fun w => laneFails w == 0)

/-- The lines of the set of a line. -/
def cacheSet (c : Cabinet) (line : Nat) : CacheSet := (assocGet (line % 128) c.pipe.cache).getD []

/-- The line that the cache holds, if it does. -/
def cacheFind (c : Cabinet) (line : Nat) : Option CacheLine := (cacheSet c line).find? (fun l => l.line == line)

/-- The cache holds the line. -/
def cacheHas (c : Cabinet) (line : Nat) : Bool := (cacheFind c line).isSome

/-- The line becomes the most recently used of its set; a third line leaves (R178). -/
def cachePut (l : CacheLine) (c : Cabinet) : Cabinet :=
  let s := (l :: (cacheSet c l.line).filter (fun x => x.line != l.line)).take 2
  { c with pipe := { c.pipe with cache := assocPut (l.line % 128) s c.pipe.cache } }

/-- The line buffer holds the line. -/
def bufferHas (c : Cabinet) (line : Nat) : Bool := c.pipe.lineBuf.any (fun l => l.line == line)

/-- The line leaves the cache and the line buffer (13 R428), and the fetch buffer what it took from there. -/
def cacheDrop (line : Nat) (c : Cabinet) : Cabinet :=
  { c with pipe := { c.pipe with
      cache := assocPut (line % 128) ((cacheSet c line).filter (fun x => x.line != line)) c.pipe.cache,
      lineBuf := if bufferHas c line then none else c.pipe.lineBuf, fetchBuf := [] } }

/-- A line fill delivers its line: into the line buffer and the cache, unless a syllable fails parity (R179, R434). -/
def deliverLine (l : CacheLine) (c : Cabinet) : Cabinet :=
  let c := { c with pipe := { c.pipe with fill := none } }
  if l.good then cachePut l { c with pipe := { c.pipe with lineBuf := some l } }
  else { c with pipe := { c.pipe with lineBuf := if bufferHas c l.line then none else c.pipe.lineBuf } }

/-- Counts a line fill that starts (14 R449 0x07). -/
def countFill (a : Nat) (c : Cabinet) : Cabinet :=
  bump 0x07 1 { lvl := some (lvlAttr c), prog := some a, mst := some 0 } c

/-- A line fill for the line of `a` starts: it takes the line as the program store holds it (R179, R195). -/
def startFill (a : Nat) (c : Cabinet) : Cabinet :=
  let c := countFill a c
  { c with pipe := { c.pipe with fill := some { line := storeLine c (lineOf a), age := 0 } } }

/-- A redirect meets a line fill in progress (R653): one that has not delivered is abandoned, one that has is kept. -/
def redirectFill (c : Cabinet) : Cabinet :=
  match c.pipe.fill with
  | none => c
  | some f => if f.age < 8 then { c with pipe := { c.pipe with fill := none } } else deliverLine f.line c

/-- A line fill for the line of `a` is complete, and its line: the one in progress where it is for that line, else a new one. -/
def completeFill (a : Nat) (c : Cabinet) : Cabinet × CacheLine :=
  match c.pipe.fill with
  | some f =>
    if f.line.line == lineOf a then (deliverLine f.line c, f.line)
    else
      let c := countFill a (redirectFill c)
      (deliverLine (storeLine c (lineOf a)) c, storeLine c (lineOf a))
  | none =>
    let c := countFill a c
    (deliverLine (storeLine c (lineOf a)) c, storeLine c (lineOf a))

/-- The group of `a` where the loop store, the cache or the line buffer delivers it at once (R173, R178, R179). -/
def hitGroup (a : Nat) (c : Cabinet) : Option (Cabinet × FetchGroup) :=
  let g := groupOf a
  if a ≥ 0x20000 then some (c, storeGroup c g)
  else match cacheFind c (g / 2) with
    | some l => some (cachePut l c, l.take g)
    | none =>
      match c.pipe.lineBuf with
      | some l =>
        if l.line == g / 2 then some (bump 0x08 1 { lvl := some (lvlAttr c), prog := some a } c, l.take g) else none
      | none => none

/-- The group, fetched for the syllable at `a`, joins the fetch buffer, which holds 16 syllables (R173; 14 R449 0x06). -/
def bufPut (a : Nat) (x : FetchGroup) (c : Cabinet) : Cabinet :=
  bump 0x06 1 { lvl := some (lvlAttr c), prog := some a } { c with pipe := { c.pipe with fetchBuf := (c.pipe.fetchBuf ++ [x]).drop (c.pipe.fetchBuf.length - 1) } }

/-- The groups before `g` have left the fetch buffer, and none beyond the next one is in it. -/
def bufTrim (g : Nat) (c : Cabinet) : Cabinet :=
  { c with pipe := { c.pipe with fetchBuf := c.pipe.fetchBuf.filter (fun x => x.group == g || x.group == g + 1) } }

/-- The physical word of the syllable at `a` as fetch delivers it, from the fetch buffer, or with its group by a hit or a line fill; in
a run from the loop store, which nothing writes meanwhile. -/
def fetchWord (a : Nat) (c : Cabinet) : Cabinet × BitVec 16 :=
  if c.frame.inRun then (c, progWord c a)
  else
    match c.pipe.fetchBuf.find? (fun x => x.group == groupOf a) with
    | some x => (c, x.words[a % 8]?.getD 0)
    | none =>
      match hitGroup a c with
      | some (c, x) => (bufPut a x c, x.words[a % 8]?.getD 0)
      | none =>
        let r := completeFill a c
        let x := r.2.take (groupOf a)
        (bufPut a x r.1, x.words[a % 8]?.getD 0)

/-- Fetch goes on to the next sequential group of the row while the fetch buffer has room (R173, R174): a hit joins the buffer at
once, a miss starts a line fill. That it does so by the time an instruction is fetched is the model's choice (log 87). -/
def prefetch (g : Nat) (c : Cabinet) : Cabinet :=
  if c.frame.inRun || g + 1 == 0x4000 || (fetchFault (natAt (8 * (g + 1)) 0) c).isSome || c.pipe.fetchBuf.length ≥ 2 then c
  else match hitGroup (8 * (g + 1)) c with
    | some (c, x) => bufPut (8 * (g + 1)) x c
    | none => if c.pipe.fill.isSome then c else startFill (8 * (g + 1)) c

/-- The parity check of a syllable that fetch delivered (13 R427, R432). -/
def checkWord (a : Nat) (w : BitVec 16) (c : Cabinet) : Cabinet × Bool :=
  if laneFails w != 0 then
    (parUncorrect (if a < 0x20000 then 2 else if c.bank.active then 4 else 3) a (laneFails w) c, true)
  else (c, false)

/-- The machine check of a fetch. -/
def fetchCheck : Exc := { vec := 1, acc := .fetch }

/-- An instruction fetched: the cabinet after its fetch, its syllables, or the exception of the fetch (R228: a fetch fault comes before
a decode fault). -/
structure Fetch where
  c : Cabinet
  w1 : Syl
  w2 : Syl := 0
  exc : Option Exc := none

/-- The fault of the second syllable's address: the instruction's syllables lie in one row of R101, and a User instruction's in the
program window (R102, R106). -/
def secondFault (c : Cabinet) : Option Exc :=
  let a := curPc c + 1
  if a.toNat = 0x20000 then some { vec := 8, acc := .fetch, addr := a } else fetchFault a c

/-- The fetch of the second syllable of a long form. -/
def fetchSecond (w1 : Syl) (c : Cabinet) : Fetch :=
  match secondFault c with
  | some e => { c := c, w1 := w1, exc := some e }
  | none =>
    let a := (curPc c).toNat + 1
    let x := fetchWord a c
    let p := checkWord a x.2 x.1
    { c := p.1, w1 := w1, w2 := sylOf x.2, exc := if p.2 then some fetchCheck else none }

/-- The fetch of the instruction at the program counter. -/
def fetchInstr (c : Cabinet) : Fetch :=
  let a := (curPc c).toNat
  let x := fetchWord a (bufTrim (groupOf a) c)
  let p := checkWord a x.2 x.1
  let w1 := sylOf x.2
  if p.2 then { c := p.1, w1 := w1, exc := some fetchCheck }
  else
    let f : Fetch := if coreLen w1 = 2 then fetchSecond w1 p.1 else { c := p.1, w1 := w1 }
    { f with c := prefetch (groupOf a) f.c }

/-! ## Whether an instruction issues -/

/-- A cause held since a run is entered before any further instruction (R232). -/
def heldDue (c : Cabinet) : Bool := c.pipe.mdepth == 0 && (c.pipe.heldTrap.isSome || !c.pipe.heldViol.isEmpty)

/-- The core issues supervisory code now: nothing holds issue (R60, R65, R164), and no cause is selected or waits for the store
buffer (R211). An interrupt or an overrun that waits for the store buffer lets instructions retire, but for the first one after a run,
WAITF or WFI (R64, R65, R164). -/
def supReady (c : Cabinet) : Bool :=
  mayEnter c && c.pipe.hold == .none && c.pipe.fault.isNone && c.pipe.trap.isNone && c.pipe.runExc.isNone && !heldDue c &&
  (fetchFault c.core.pc c).isNone && ((!c.pipe.sbuf.isEmpty && !c.pipe.entryFirst) || (selectCause c).isNone)

/-- The core executes an instruction now: in a run always. -/
def ready (c : Cabinet) : Bool := if c.frame.inRun then c.clocksRun else supReady c

/-! ## The end of a run by an exception (R58, R231, R232) -/

/-- The run ends at an instruction that raises `e`: ENDEXC, the exception waits for entry, and a trap or violation held since
before the run stays behind it. `n` is RUNN. -/
def endRunExc (e : Exc) (n : Nat) (c : Cabinet) : Cabinet :=
  let p := c.pipe
  let c := { c with
    frame := { c.frame with stat := c.frame.stat ||| 0x20 },
    pipe := { p with
      runExc := some e, heldTrap := p.trap.or p.heldTrap, heldViol := p.heldViol ++ p.violation, trap := none, violation := [] } }
  endRun n c

/-! ## Retirement -/

/-- LAT, STALL and DLY of a sample (14 R463, R464): from the count of a run where one micro-operation is the instruction, else free
values, as is a STALL that R464 does not name (log 17). -/
def sampleTiming (t : Option Timing) (c : Cabinet) : Word :=
  let free := Config.sampleTiming c.id.val c.free
  match t with
  | none => free &&& 0xFFF0F3FF
  | some t =>
    let held := t.start - (t.issue + 1)
    let late := t.retire - (t.complete + 1)
    let stall := if late > held then natAt 7 12 else
      match t.cause with
      | some n => natAt (if held = 0 then 0 else n) 12
      | none => free &&& 0xF000
    natAt (min (t.retire - t.issue) 1023) 0 ||| stall ||| natAt (min (max held late) 4095) 20

/-- The instruction's class of sample and its syllables as fetched (14 R463): words 0 to 3 without SEQ. -/
def sampleWords (k : Cls) (w1 w2 : Syl) (t : Option Timing) (c : Cabinet) : List Word :=
  let pc := (curPc c).toNat
  [ natAt (pc % 2 ^ 18) 0 ||| natAt c.level.code 18 ||| boolAt c.frame.inRun 20,
    natAt w1.toNat 0 ||| (if coreLen w1 = 2 then natAt w2.toNat 16 ||| bitW 30 else 0),
    sampleTiming t c ||| natAt k.code 16,
    natAt (c.tmr.count.toNat % 2 ^ 24) 0 ]

/-- Counts and samples a retired instruction (14 R449, R462). -/
def countRetired (k : Cls) (w1 w2 : Syl) (t : Option Timing) (r : Ret) (c : Cabinet) : Cabinet :=
  let at' := insAttr k c
  let ws := sampleWords k w1 w2 t c
  let br : Attr := { at' with cls := none }
  let c := bump 0x02 1 at' (bump 0x01 1 at' r.c)
  let c := match r.branch with
    | some true => bump 0x04 1 br c
    | some false => bump 0x05 1 br c
    | none => if r.jump.isSome && k == Cls.b then bump 0x04 1 br c else c
  smpRetire at' ws c.takeFree

/-- The commit of a run's DUTY that retires with count `n` (02 R62, R67, R69): one beyond the deadline finds the guard acted. -/
def dutyRetired (mask : Nat) (vals : List Word) (n : Nat) (c : Cabinet) : Cabinet :=
  let c := if n > c.frame.deadline then frameGuard c else c
  let f := c.frame
  if f.acted then { c with frame := { f with stat := f.stat ||| 8 } }
  else if f.committed then { c with frame := { f with stat := f.stat ||| 4 } }
  else { c with frame := { f with committed := true, guarding := false, dutyN := min n 0x7FF, commit := .port mask vals } }

/-- An instruction that faults has issued (14 R449 0x02). -/
def countFaulted (k : Cls) (c d : Cabinet) : Cabinet := bump 0x02 1 (insAttr k c) d

/-- The cycles that a run's instruction waited are counted (14 R449; log 18). -/
def countWaits (k : Cls) (data : Option Nat) (old new : Waits) (pc : Nat) (c : Cabinet) : Cabinet :=
  let at' : Attr := { lvl := some 3, prog := some pc }
  let c := bump 0x0D (new.stop - old.stop) { at' with cls := some k.code } (bump 0x0E (new.serial - old.serial) at' c)
  let c := bump 0x0B (new.rob - old.rob) at' (bump 0x0C (new.station - old.station) at' c)
  bump 0x12 (new.overlap - old.overlap) { at' with data := data } (bump 0x13 (new.buffer - old.buffer) at' c)

/-- The address after the instruction. -/
def nextPc (len : Nat) (r : Ret) (pc : Word) : Word := r.jump.getD (pc + BitVec.ofNat 32 len)

/-- N of the run's commit where a younger load has moved it (R183). -/
def recountDuty (s : Sched) (c : Cabinet) : Cabinet :=
  match s.dutyCount with
  | some n => { c with frame := { c.frame with dutyN := min n 0x7FF } }
  | none => c

/-- The instruction is the run's commit: the record of the count remembers which one it is (R62). -/
def markDuty (c c1 : Cabinet) : Cabinet :=
  if c1.frame.committed && !c.frame.committed then
    { c1 with pipe := { c1.pipe with sched := { c1.pipe.sched with duty := some (c1.pipe.sched.hist.length - 1) } } }
  else c1

/-- An instruction of a run: its count, then its fault, its trap, or its retirement (R58, R205). -/
def finishRun (k : Cls) (w1 w2 : Syl) (c : Cabinet) (r : Ret) : Cabinet :=
  let len := coreLen w1
  let pc := c.core.runPc
  let tgt := r.jump.map (fun w => (w.toNat, r.delay))
  let isBranch := k == .b
  let p := c.pipe.sched.instr (pc.toNat + len - 1) (k == .u) isBranch r.ops tgt
  let n := p.2 + 1
  let waits := countWaits k ((r.ops.findSome? (·.load)).map (·.1)) c.pipe.sched.waits p.1.waits pc.toNat
  match r.fault with
  | some e => endRunExc e n (countFaulted k c (waits r.c))
  | none =>
    let c1 := waits (countRetired k w1 w2 (if r.ops.length = 1 then some p.1.timing else none) r c)
    let c1 := recountDuty p.1 { c1 with
      core := { c1.core with runPc := nextPc len r pc }, pipe := { c1.pipe with sched := p.1 } }
    let c1 := match r.duty with
      | some d => markDuty c (dutyRetired d.1 d.2 n c1)
      | none => c1
    match r.trap with
    | some e => endRunExc e n c1
    | none =>
      if r.ends then endRun n c1
      else match fetchFault c1.core.runPc c1 with
        | some e =>
          let q := p.1.instr c1.core.runPc.toNat false false [{ alu := true }] none
          endRunExc e (q.2 + 1) c1
        | none => c1

/-- A double-fault handler's first instruction has retired (R222). -/
def afterDouble (c : Cabinet) : Option Nat :=
  if c.level == .machine && c.pipe.dfDepth == some c.pipe.mdepth then none else c.pipe.dfDepth

/-- A supervisory instruction: its fault stays pending; otherwise it retires, deferred writes come nearer, and a trap becomes
pending, at the level at which the instruction ran (R126, R198, R208). A taken branch empties the fetch buffer (R175). -/
def finishSup (k : Cls) (w1 w2 : Syl) (c : Cabinet) (r : Ret) : Cabinet :=
  match r.fault with
  | some e => countFaulted k c { r.c with pipe := { r.c.pipe with fault := some e } }
  | none =>
    if r.stay then r.c
    else
      let c1 := countRetired k w1 w2 none r c
      let c1 := ageDeferred { c1 with
        core := { c1.core with pc := nextPc (coreLen w1) r c.core.pc },
        pipe := { c1.pipe with
          fresh := none, dfDepth := afterDouble c, entryFirst := r.first,
          fetchBuf := if r.jump.isSome then [] else c1.pipe.fetchBuf } }
      { c1 with pipe := { c1.pipe with trap := r.trap.map (fun e => { e with level := some c.level }) } }

/-- An instruction that has been fetched ends. -/
def finishInstr (k : Cls) (w1 w2 : Syl) (c : Cabinet) (r : Ret) : Cabinet :=
  if c.frame.inRun then finishRun k w1 w2 c r else finishSup k w1 w2 c r

/-- The core executes the instruction at the program counter, as the row `i` of cabinet `k` says, whole: its class and what its execution
does. Where the core executes nothing now, or the syllables there are another instruction, `i` does not happen and nothing changes
(log 7); a fetch that raises an exception, or syllables that are no instruction (R123), take its place (log 8). -/
def issue (k : Fin 16) (i : Instr) (cls : Cls) (body : Cabinet → Ret) (c : Cabinet) : Cabinet :=
  if !ready c then c
  else
    let f := fetchInstr c
    match f.exc with
    | some e => finishInstr .a f.w1 f.w2 f.c (Ret.faulted f.c e [{ alu := true }])
    | none =>
      match decodeCore k f.w1 f.w2 with
      | none => finishInstr .a f.w1 f.w2 f.c (illegal f.c)
      | some j => if j = coded i then finishInstr cls f.w1 f.w2 f.c (body f.c) else c

end Sys2Proof.Machine
end

