-- ==== Sys2Proof/Machine/Trig.lean ====
section
/-!
DEFINITION. SINCOS, ATAN2 and the transforms (spec/04_ezham_instruction_set.md R147, R152, R153). Each exact result is
evaluated in fixed point with 96 fraction bits; the delivered value is any Q1.31 value within 2^−26 of it, chosen by a free
value of Config (log 13). Exact cases the spec names (sector boundaries, +1, zero vectors) are decided exactly.
-/
namespace Sys2Proof.Machine

/-- Fraction bits of the fixed-point evaluation. -/
abbrev fpBits : Nat := 96
/-- One in fixed point. -/
abbrev fpOne : Int := 2 ^ 96
/-- π in fixed point. -/
abbrev fpPi : Int := 248902613312231085230521944622
/-- √3 in fixed point. -/
abbrev fpSqrt3 : Int := 137227202865029797602485611888

/-- Σ of an alternating power series: `t` is the current term, `x2` the square of the argument, `k` the term's power. -/
def fpSeries : Nat → Int → Int → Int → Int
  | 0, _, _, _ => 0
  | n + 1, t, x2, k => t + fpSeries n (-(t * x2 / fpOne) / ((k + 1) * (k + 2))) x2 (k + 2)

/-- sin of an angle in radians, in fixed point, for 0 ≤ x ≤ π/2. -/
def fpSinQ (x : Int) : Int := fpSeries 24 x (x * x / fpOne) 1
/-- cos of an angle in radians, in fixed point, for 0 ≤ x ≤ π/2. -/
def fpCosQ (x : Int) : Int := fpSeries 24 fpOne (x * x / fpOne) 0

/-- (sin, cos) in fixed point of an angle word (1.0 stands for π, R147). -/
def fpSinCos (t : Word) : Int × Int :=
  let q := t.toNat / 2 ^ 30
  let x := ((t.toNat % 2 ^ 30 : Nat) : Int) * fpPi / 2 ^ 31
  let s := fpSinQ x
  let c := fpCosQ x
  match q with
  | 0 => (s, c)
  | 1 => (c, -s)
  | 2 => (-s, -c)
  | _ => (-c, s)

/-- Σ (−1)^i z^(2i+1)/(2i+1) in fixed point, from power `k`. -/
def fpAtanSeries : Nat → Int → Int → Int → Int
  | 0, _, _, _ => 0
  | n + 1, p, z2, k => p / k + fpAtanSeries n (-(p * z2 / fpOne)) z2 (k + 2)

/-- z / (1 + √(1 + z²)): the tangent of half the angle. -/
def fpHalve (z : Int) : Int :=
  let r : Int := isqrt 98 (2 ^ 192 + (z * z).toNat)
  z * fpOne / (fpOne + r)

/-- atan of a fixed-point value in [0, 1], in radians. -/
def fpAtan01 (z : Int) : Int :=
  let z3 := fpHalve (fpHalve (fpHalve z))
  8 * fpAtanSeries 18 z3 (z3 * z3 / fpOne) 1

/-- atan2(y, x) divided by π in fixed point, in (−1, 1]; 0 for (0, 0) (R147). -/
def fpAtan2 (y x : Int) : Int :=
  let a : Int := y.natAbs
  let b : Int := x.natAbs
  if a = 0 && b = 0 then 0
  else
    let first :=
      if a ≤ b then fpAtan01 (a * fpOne / b) * fpOne / fpPi
      else fpOne / 2 - fpAtan01 (b * fpOne / a) * fpOne / fpPi
    let half := if x < 0 then fpOne - first else first
    if y < 0 then - half else half

/-- The nearest integer to a fixed-point value when it lies within 2^−40 of it. -/
def fpSnap (x : Int) : Int :=
  let r := (x + fpOne / 2) / fpOne * fpOne
  if (x - r).natAbs < 2 ^ 56 then r else x

/-- A value within 32 units of the fixed-point value `x` (2^−26 of full scale in units of 2^−31), picked by `choice`. -/
def fpPick (x : Int) (choice : Nat) : Int :=
  let x := fpSnap x
  let fl := x / fpOne
  let lo := if fl * fpOne = x then fl - 32 else fl - 31
  lo + ((choice % (fl + 32 - lo + 1).toNat : Nat) : Int)

/-- SINCOS: the sine and the cosine words, and whether one of them saturated (R147). -/
def sincos (t : Word) : Word × Word × Bool :=
  let p := fpSinCos t
  let one (x : Int) (res : Nat) : Int :=
    if x = fpOne then 2 ^ 31 else fpPick (x * 2 ^ 31) (Config.trigChoice 0 res t 0)
  let s := satS 32 (one p.1 0)
  let c := satS 32 (one p.2 1)
  (wordOfInt s.1, wordOfInt c.1, s.2 || c.2)

/-- ATAN2 of two words, as an angle word (R147). -/
def atan2W (y x : Word) : Word :=
  if y == 0 && x == 0 then 0
  else wordOfInt (fpPick (fpAtan2 y.toInt x.toInt * 2 ^ 31) (Config.trigChoice 1 0 y x))

/-- The results of a transform: the words of b, b+1, b+2, b+3 and whether SAT sets. -/
structure XformRes where
  b0 : Word
  b1 : Word
  b2 : Word
  b3 : Word
  sat : Bool
  deriving DecidableEq, Repr

/-- A saturated Q1.31 result within the error bound of a fixed-point value in units of 2^−31. -/
def xformOut (v res : Nat) (b0 b1 b2 b3 : Word) (x : Int) : Int × Bool :=
  satS 32 (fpPick x (Config.xformChoice v res b0 b1 b2 b3))

/-- A transform that delivers b and b+1 from their exact values in fixed point. -/
def xform2 (v : Nat) (b0 b1 b2 b3 : Word) (x y : Int) : XformRes :=
  let p := xformOut v 0 b0 b1 b2 b3 x
  let q := xformOut v 1 b0 b1 b2 b3 y
  { b0 := wordOfInt p.1, b1 := wordOfInt q.1, b2 := b2, b3 := b3, sat := p.2 || q.2 }

/-- CLARKE3 (R152). -/
def xformClarke3 (b0 b1 b2 b3 : Word) : XformRes :=
  xform2 0 b0 b1 b2 b3 ((2 * b0.toInt - b1.toInt - b2.toInt) * fpOne / 3) ((b1.toInt - b2.toInt) * fpSqrt3 / 3)

/-- CLARKE2 (R152): b keeps a, which is exact. -/
def xformClarke2 (b0 b1 b2 b3 : Word) : XformRes :=
  let q := xformOut 1 1 b0 b1 b2 b3 ((b0.toInt + 2 * b1.toInt) * fpSqrt3 / 3)
  { b0 := b0, b1 := wordOfInt q.1, b2 := b2, b3 := b3, sat := q.2 }

/-- The Park rotation of (b, b+1) by a sine and a cosine in fixed point. -/
def parkBy (v : Nat) (b0 b1 b2 b3 : Word) (s c : Int) : XformRes :=
  xform2 v b0 b1 b2 b3 (b0.toInt * c + b1.toInt * s) (- (b0.toInt * s) + b1.toInt * c)

/-- The inverse Park rotation. -/
def iparkBy (v : Nat) (b0 b1 b2 b3 : Word) (s c : Int) : XformRes :=
  xform2 v b0 b1 b2 b3 (b0.toInt * c - b1.toInt * s) (b0.toInt * s + b1.toInt * c)

/-- PARK from an angle (R152). -/
def xformPark (b0 b1 b2 b3 : Word) : XformRes := let p := fpSinCos b2; parkBy 2 b0 b1 b2 b3 p.1 p.2
/-- IPARK from an angle. -/
def xformIpark (b0 b1 b2 b3 : Word) : XformRes := let p := fpSinCos b2; iparkBy 3 b0 b1 b2 b3 p.1 p.2
/-- PARKSC from a sine and a cosine. -/
def xformParksc (b0 b1 b2 b3 : Word) : XformRes := parkBy 4 b0 b1 b2 b3 (b2.toInt * 2 ^ 65) (b3.toInt * 2 ^ 65)
/-- IPARKSC from a sine and a cosine. -/
def xformIparksc (b0 b1 b2 b3 : Word) : XformRes := iparkBy 5 b0 b1 b2 b3 (b2.toInt * 2 ^ 65) (b3.toInt * 2 ^ 65)

/-- The sector of a vector, 1 to 6; a boundary belongs to the higher sector; the zero vector is in sector 1 (R153). -/
def svtSector (va vb : Int) : Nat :=
  -- above60: vb ≥ √3 |va|, exactly
  let steep := decide (vb * vb ≥ 3 * va * va)
  if vb ≥ 0 then
    if va > 0 then (if steep then 2 else 1)
    else if va = 0 then (if vb = 0 then 1 else 2)
    else if vb = 0 then 4
    else if vb * vb > 3 * va * va then 2 else 3
  else
    if va < 0 then (if steep then 5 else 4)
    else if va = 0 then 5
    else if vb * vb > 3 * va * va then 5 else 6

/-- √3 m sin of the angle from the vector to the direction of `60° × s`, in fixed point: √3 (vα sin − vβ cos). -/
def svtTime (va vb : Int) (s : Nat) : Int :=
  -- (2 sin, 2 cos) of 60° s as (multiple of √3, integer)
  let p : Int × Int := match s % 6 with
    | 0 => (0, 2)
    | 1 => (1, 1)
    | 2 => (1, -1)
    | 3 => (0, -2)
    | 4 => (-1, -1)
    | _ => (-1, 1)
  (3 * va * p.1 * fpOne - vb * p.2 * fpSqrt3) / 2

/-- SVT (R153). -/
def xformSvt (b0 b1 b2 b3 : Word) : XformRes :=
  let va := b0.toInt
  let vb := b1.toInt
  if va = 0 && vb = 0 then { b0 := 0, b1 := 0, b2 := 1, b3 := 0x7FFFFFFF, sat := false }
  else
    let sec := svtSector va vb
    let t1 := svtTime va vb sec
    let t2 := - svtTime va vb (sec - 1)
    let full := (2 ^ 31 : Int) * fpOne
    if t1 + t2 > full then
      let x := t1 * ((2 ^ 31 - 1) * fpOne) / (t1 + t2)
      let u := min (max (fpPick x (Config.xformChoice 6 0 b0 b1 b2 b3)) 0) (2 ^ 31 - 1)
      { b0 := wordOfInt u, b1 := wordOfInt (2 ^ 31 - 1 - u), b2 := BitVec.ofNat 32 sec, b3 := 0, sat := true }
    else
      let out (res : Nat) (x : Int) : Word :=
        wordOfInt (min (max (fpPick x (Config.xformChoice 6 res b0 b1 b2 b3)) 0) (2 ^ 31 - 1))
      { b0 := out 0 t1, b1 := out 1 t2, b2 := BitVec.ofNat 32 sec, b3 := out 3 (full - t1 - t2), sat := false }

end Sys2Proof.Machine
end

