-- ==== Sys2Proof/Machine/AluBodies.lean ====
section
/-!
DEFINITION. What the register-to-register instructions do (spec/04_ezham_instruction_set.md R129 to R136, R143 to R149), one body for
each shape, over the operations of Flags, Float and Trig.
-/
namespace Sys2Proof.Machine

/-- The d input is read by an integer operation. -/
def AluOp.readsD : AluOp → Bool
  | .abs | .neg | .extb | .extbu | .exth | .exthu | .clz | .cls | .absqs | .negqs | .mov => false
  | _ => true

/-- The operation writes one of Z, N, C, V. -/
def AluOp.setsFlags : AluOp → Bool
  | .addqs | .subqs | .add2s | .sub2s | .absqs | .negqs | .shlqs | .add2 | .sub2 | .mov => false
  | _ => true

/-- The operation reads C. -/
def AluOp.readsC : AluOp → Bool
  | .addc | .subc => true
  | _ => false

/-- What the count needs of an integer operation of class A. -/
def aluMicro (op : AluOp) (rd : Fin 16) (src : List Res) : Micro :=
  { alu := true,
    src := src ++ (if op.readsD then [.d rd.val] else []) ++ (if op.readsC then [.flags] else []),
    dst := (if op.writes then [.d rd.val] else []) ++ (if op.setsFlags then [.flags] else []) }

/-- An integer operation on d[Rd] and the input `b` (R129 to R131, R135): result, flags and the overflow trap. -/
def aluBody (op : AluOp) (rd : Fin 16) (b : Word) (src : List Res) (c : Cabinet) : Ret :=
  let r := aluOp op (getD rd c) b (carry c)
  { c := putFlags r.upd (if op.writes then setD rd r.val c else c),
    trap := if r.ovf && op.traps && pswOve c then some { vec := 6 } else none,
    ops := [aluMicro op rd src] }

/-- The register form: `b` is d[Rs]. -/
def aluReg (op : AluOp) (rd rs : Fin 16) (c : Cabinet) : Ret := aluBody op rd (getD rs c) [.d rs.val] c

/-- The immediate form. -/
def aluImm (op : AluOp) (rd : Fin 16) (imm : Word) (c : Cabinet) : Ret := aluBody op rd imm [] c

/-- SHLQ.S (R135): sat(d[Rs] × 2^IMM5). -/
def shlqsBody (rd rs : Fin 16) (n : BitVec 5) (c : Cabinet) : Ret :=
  let r := aluOp .shlqs (getD rs c) (n.setWidth 32) false
  { c := putFlags r.upd (setD rd r.val c), ops := [{ alu := true, src := [.d rs.val], dst := [.d rd.val] }] }

/-- A result of class M or F in d[Rd] (R132, R135, R143). -/
def resBody (mac : Bool) (lat : Nat) (rd : Fin 16) (r : AluRes) (src dst : List Res) (c : Cabinet) : Ret :=
  { c := putFlags r.upd (setD rd r.val c),
    ops := [{ mac := mac, flt := !mac, lat := lat, src := src, dst := dst }] }

/-- MULQ.S and MUL2Q. -/
def mulBody (f : Word → Word → AluRes) (rd rs : Fin 16) (c : Cabinet) : Ret :=
  resBody true 2 rd (f (getD rd c) (getD rs c)) [.d rd.val, .d rs.val] [.d rd.val] c

/-- A multiply into an accumulator (R132, R134). -/
def macBody (op : MacOp) (x : Fin 2) (ra rb : Fin 16) (c : Cabinet) : Ret :=
  { c := setAcc x (macOp op (getAcc x c) (getD ra c) (getD rb c)) c,
    ops := [{ mac := true, lat := 2, src := [.acc x.val, .d ra.val, .d rb.val], dst := [.acc x.val] }] }

/-- A read of an accumulator (R133). -/
def accReadBody (op : AccRead) (rd : Fin 16) (x : Fin 2) (c : Cabinet) : Ret :=
  resBody true 2 rd (accRead op (getAcc x c)) [.acc x.val] [.d rd.val] c

/-- WRQ, WRI and CLR (R133). -/
def accWriteBody (v : Acc) (x : Fin 2) (src : List Res) (c : Cabinet) : Ret :=
  { c := setAcc x v c, ops := [{ mac := true, lat := 2, src := src, dst := [.acc x.val] }] }

/-- A float operation of two registers (R143). -/
def float2Body (f : Word → Word → AluRes) (rd rs : Fin 16) (c : Cabinet) : Ret :=
  resBody false 3 rd (f (getD rd c) (getD rs c)) [.d rd.val, .d rs.val] [.d rd.val] c

/-- A float operation in place (R143). -/
def float1Body (f : Word → AluRes) (rd : Fin 16) (c : Cabinet) : Ret :=
  resBody false 3 rd (f (getD rd c)) [.d rd.val] [.d rd.val] c

/-- FCMP: flags only (R144). -/
def fcmpBody (rd rs : Fin 16) (c : Cabinet) : Ret :=
  { c := putFlags (fcmp (getD rd c) (getD rs c)).upd c,
    ops := [{ flt := true, lat := 3, src := [.d rd.val, .d rs.val], dst := [.flags] }] }

/-- FMADD (R143). -/
def fmaddBody (rd rs rt : Fin 16) (c : Cabinet) : Ret :=
  resBody false 3 rd (fmadd (getD rd c) (getD rs c) (getD rt c)) [.d rd.val, .d rs.val, .d rt.val] [.d rd.val] c

/-- A long operation of class Sn with its result in d[Rd] (R146, R190). -/
def longBody (flt : Bool) (n : Nat) (rd : Fin 16) (r : AluRes) (src dst : List Res) (c : Cabinet) : Ret :=
  { c := putFlags r.upd (setD rd r.val c),
    ops := [{ mac := !flt, flt := flt, stall := n, afterBranch := true, src := src, dst := dst }] }

/-- DIV, DIVU, REM, REMU with their traps (R146, R148). -/
def divBody (op : DivOp) (rd rs : Fin 16) (c : Cabinet) : Ret :=
  let b := getD rs c
  let r := divOp op (getD rd c) b
  { longBody false 20 rd r [.d rd.val, .d rs.val] [.d rd.val, .flags] c with
    trap := if b == 0 && pswDze c then some { vec := 5 } else if r.ovf && pswOve c then some { vec := 6 } else none }

/-- SINCOS (R146, R147): an odd Rd is illegal. -/
def sincosBody (rd rs : Fin 16) (c : Cabinet) : Ret :=
  if rd.val % 2 = 1 then illegal c
  else
    let r := sincos (getD rs c)
    { c := putFlags { sticky := if r.2.2 then satFlag else 0 } (setD (rd + 1) r.2.1 (setD rd r.1 c)),
      ops := [{ mac := true, stall := 18, afterBranch := true, src := [.d rs.val], dst := [.d rd.val, .d (rd.val + 1)] }] }

/-- ATAN2 (R146, R147): an odd Rs is illegal. -/
def atan2Body (rd rs : Fin 16) (c : Cabinet) : Ret :=
  if rs.val % 2 = 1 then illegal c
  else longBody false 18 rd { val := atan2W (getD rs c) (getD (rs + 1) c) } [.d rs.val, .d (rs.val + 1)] [.d rd.val] c

/-- A move into d[Rd] (R136). -/
def moveD (rd : Fin 16) (v : Word) (src : List Res) (c : Cabinet) : Ret :=
  { c := setD rd v c, ops := [{ alu := true, src := src, dst := [.d rd.val] }] }

/-- A move into a[Ad]; a field of 8 or more is illegal (R125). -/
def moveA (ad : Nat) (v : Word) (src : List Res) (c : Cabinet) : Ret :=
  if ad ≥ 8 then illegal c else { c := setA ad v c, ops := [{ alu := true, src := src, dst := [.a ad] }] }

/-- MOVD: SRC names an address register (R125, R136). -/
def movdBody (rd ra : Fin 16) (c : Cabinet) : Ret :=
  if ra.val ≥ 8 then illegal c else moveD rd (getA ra.val c) [.a ra.val] c

/-- MOVAA: both fields name address registers. -/
def movaaBody (ad ra : Fin 16) (c : Cabinet) : Ret :=
  if ra.val ≥ 8 then illegal c else moveA ad.val (getA ra.val c) [.a ra.val] c

/-- MOV. -/
def movBody (rd rs : Fin 16) (c : Cabinet) : Ret := moveD rd (getD rs c) [.d rs.val] c

/-- MOVA. -/
def movaBody (ad rs : Fin 16) (c : Cabinet) : Ret := moveA ad.val (getD rs c) [.d rs.val] c

/-- ADDA (R136): a[Ad] + sext(IMM16). -/
def addaBody (ad : Fin 8) (imm : BitVec 16) (c : Cabinet) : Ret :=
  moveA ad.val (getA ad.val c + imm.signExtend 32) [.a ad.val] c

/-- MOVH (R136): the upper half is replaced. -/
def movhBody (rd : Fin 16) (imm : BitVec 16) (c : Cabinet) : Ret :=
  moveD rd ((imm.setWidth 32 <<< 16) ||| (getD rd c &&& 0xFFFF)) [.d rd.val] c

/-- WRQ (R133). -/
def wrqBody (x : Fin 2) (rd : Fin 16) (c : Cabinet) : Ret := accWriteBody (wrq (getD rd c)) x [.d rd.val] c

/-- WRI (R133). -/
def wriBody (x : Fin 2) (rd : Fin 16) (c : Cabinet) : Ret := accWriteBody (wri (getD rd c)) x [.d rd.val] c

/-- CLR (R133): a DST other than 0 is illegal (R125). -/
def clrBody (x : Fin 2) (dst : Fin 16) (c : Cabinet) : Ret := if dst.val = 0 then accWriteBody 0 x [] c else illegal c

/-- A long operation on d[Rs] (R146): SQRT, FSQRT. -/
def long1Body (flt : Bool) (n : Nat) (f : Word → AluRes) (rd rs : Fin 16) (c : Cabinet) : Ret :=
  longBody flt n rd (f (getD rs c)) [.d rs.val] [.d rd.val] c

/-- A long operation on d[Rd] and d[Rs] (R146): DIVQ, FDIV. -/
def long2Body (flt : Bool) (n : Nat) (f : Word → Word → AluRes) (rd rs : Fin 16) (c : Cabinet) : Ret :=
  longBody flt n rd (f (getD rd c) (getD rs c)) [.d rd.val, .d rs.val] [.d rd.val] c

end Sys2Proof.Machine
end

