-- ==== Sys2Proof/Machine/MemBodies.lean ====
section
/-!
DEFINITION. What loads, stores, branches, calls and the resumable instructions do (spec/04_ezham_instruction_set.md R137 to R142,
R154 to R159).
-/
namespace Sys2Proof.Machine

/-! ## Loads and stores (R137 to R139) -/

/-- What a load makes of the `n` bytes read. -/
def extendLoad (n : Nat) (signed : Bool) (v : Nat) : Word := if signed then wordOfInt (sextNat (8 * n) v) else natAt v 0

/-- A load of `n` bytes into d[Rd] (R116): nothing is written where it raises an exception. -/
def loadBody (n : Nat) (signed : Bool) (rd : Fin 16) (m : Mode) (an : Fin 8) (c : Cabinet) : Ret :=
  let a := m.ea n (getA an.val c)
  let g := load .l a n c
  let mic : Micro := { ls := true, lat := 2, src := [.a an.val],
                       dst := [.d rd.val] ++ (if (m.next an.val n c).isSome then [.a an.val] else []), load := some (a.toNat, n) }
  match g.2 with
  | .exc e => Ret.faulted g.1 e [mic]
  | .held => { c := g.1, stay := true }
  | .val v => { c := stepMode m an.val n (setD rd (extendLoad n signed v) g.1), ops := [mic] }

/-- A store of the low `n` bytes of d[Rd]. -/
def storeBody (n : Nat) (rd : Fin 16) (m : Mode) (an : Fin 8) (c : Cabinet) : Ret :=
  let a := m.ea n (getA an.val c)
  let mic : Micro := { ls := true, src := [.a an.val, .d rd.val],
                       dst := if (m.next an.val n c).isSome then [.a an.val] else [], store := some (a.toNat, n) }
  match accessFault a n .store c with
  | some e => Ret.faulted c e [mic]
  | none => { c := stepMode m an.val n (pushStore .l a n (getD rd c) c), ops := [mic] }

/-! ## Branches and calls (R140 to R142) -/

/-- What the count needs of a branch. -/
def branchMicro (cond : Nat) : Micro := { alu := true, src := if cond = 0 then [] else [.flags] }

/-- A conditional branch with its offset in syllables from its own address (R140, R141). -/
def bccBody (cond : Nat) (off : Word) (c : Cabinet) : Ret :=
  if cond = 0xF then illegal c
  else
    let t := condTaken cond (getFlags c)
    { c := c, branch := some t, jump := if t then some (curPc c + off) else none, ops := [branchMicro cond] }

/-- A call to `target`: the return address is pushed under R93. -/
def callBody (len : Nat) (target : Word) (src : List Res) (c : Cabinet) : Ret :=
  let l := c.level
  let sp := getSp l c - 4
  let mic : Micro := { alu := true, ls := true, src := .a 7 :: src, dst := [.a 7], store := some (sp.toNat, 4) }
  match accessFault sp 4 .store c with
  | some e => Ret.faulted c e [mic]
  | none =>
    { c := setSp l sp (pushStore .b sp 4 ((curPc c + BitVec.ofNat 32 len) &&& 0x3FFFF) c), jump := some target, ops := [mic] }

/-- RET: a word is popped under R93 and its bits [17:0] are the target. -/
def retBody (c : Cabinet) : Ret :=
  let l := c.level
  let sp := getSp l c
  let mic : Micro := { alu := true, ls := true, lat := 2, src := [.a 7], dst := [.a 7], load := some (sp.toNat, 4) }
  let g := popWordAt sp c
  match g.2 with
  | .exc e => Ret.faulted g.1 e [mic]
  | .held => { c := g.1, stay := true }
  | .val v => { c := setSp l (sp + 4) g.1, jump := some (natAt v 0 &&& 0x3FFFF), delay := 2, ops := [mic] }

/-- JMP (An). -/
def jmpBody (an : Fin 8) (c : Cabinet) : Ret :=
  { c := c, jump := some (getA an.val c), ops := [{ alu := true, src := [.a an.val] }] }

/-! ## Resumable instructions (R154 to R159) -/

/-- Elements performed one by one: the cabinet after `done` of them, and an exception of the element that follows. -/
structure Walk where
  c : Cabinet
  done : Nat
  exc : Option Exc := none
  held : Bool := false
  /-- The elements each of whose accesses was to frame scratch (R156). -/
  fast : Nat := 0
  /-- The words written. -/
  writes : List Nat := []

/-- What an element does: the cabinet after it, whether it completed, whether all its accesses were to frame scratch, and the word that
it wrote. -/
structure Elem where
  c : Cabinet
  got : Got
  fast : Bool := false
  wrote : Option Nat := none

/-- Performs up to `n` elements from `w`. -/
def walk (elem : Cabinet → Elem) : Nat → Walk → Walk
  | 0, w => w
  | n + 1, w =>
    let x := elem w.c
    match x.got with
    | .exc e => { w with c := x.c, exc := some e }
    | .held => { w with c := x.c, held := true }
    | .val _ => walk elem n { c := x.c, done := w.done + 1, fast := w.fast + x.fast.toNat, writes := x.wrote.toList ++ w.writes }

/-- An address lies in frame scratch. -/
def isScratch (a : Word) : Bool := decide (0x20000 ≤ a.toNat) && decide (a.toNat < 0x22000)

/-- One element of VMAC (R155). Where Ax and Ay are one register, both steps are made, Ax's first: the spec does not say how such a
register steps (DESIGN CHOICE, log 89; so for BMOVE and INTERP too). -/
def vmacElem (x : Fin 2) (ax ay : Fin 8) (c : Cabinet) : Elem :=
  let p := getA ax.val c
  let q := getA ay.val c
  let r := load .v p 4 c
  match r.2 with
  | .val u =>
    let r2 := load .v q 4 r.1
    match r2.2 with
    | .val v =>
      let acc := macOp .macQ (getAcc x r2.1) (natAt u 0) (natAt v 0)
      { c := stepMode .modInc ay.val 4 (stepMode .modInc ax.val 4 (setAcc x acc r2.1)), got := .val 0,
        fast := isScratch p && isScratch q }
    | g => { c := loadStops .v [p] q c, got := g }
  | g => { c := r.1, got := g }

/-- An element stores the word `v` at `q`, or faults there with no effect of its loads at `earlier`. -/
def elemStore (q v : Word) (earlier : List Word) (start c : Cabinet) : Cabinet × Got :=
  match accessFault q 4 .store c with
  | some e => (earlier.foldl (loadStarted .v) start, .exc e)
  | none => (pushStore .v q 4 v c, .val 0)

/-- One element of BMOVE (R155). -/
def bmoveElem (as' ad : Fin 8) (c : Cabinet) : Elem :=
  let p := getA as'.val c
  let q := getA ad.val c
  let r := load .v p 4 c
  match r.2 with
  | .val u =>
    let r2 := elemStore q (natAt u 0) [p] c r.1
    match r2.2 with
    | .val _ =>
      { c := stepMode .modInc ad.val 4 (stepMode .modInc as'.val 4 r2.1), got := .val 0, fast := isScratch p && isScratch q,
        wrote := some q.toNat }
    | g => { c := r2.1, got := g }
  | g => { c := r.1, got := g }

/-- The interpolation of R155, on signed table words; ties are rounded towards plus infinity (R113). -/
def interpWord (x t0 t1 : Word) : Word :=
  let f : Int := fld x 8 16
  wordOfInt (t0.toInt + ((t1.toInt - t0.toInt) * f + 2 ^ 15) / 2 ^ 16)

/-- One element of INTERP (R155). -/
def interpElem (as' ad at' : Fin 8) (c : Cabinet) : Elem :=
  let p := getA as'.val c
  let q := getA ad.val c
  let r := load .v p 4 c
  match r.2 with
  | .val u =>
    let x : Word := natAt u 0
    let t := getA at'.val c + natAt (4 * fld x 24 8) 0
    let r2 := load .v t 4 r.1
    match r2.2 with
    | .val v0 =>
      let r3 := load .v (t + 4) 4 r2.1
      match r3.2 with
      | .val v1 =>
        let r4 := elemStore q (interpWord x (natAt v0 0) (natAt v1 0)) [p, t, t + 4] c r3.1
        match r4.2 with
        | .val _ =>
          { c := stepMode .modInc ad.val 4 (stepMode .modInc as'.val 4 r4.1), got := .val 0,
            fast := isScratch p && isScratch t && isScratch (t + 4) && isScratch q, wrote := some q.toNat }
        | g => { c := r4.1, got := g }
      | g => { c := loadStops .v [p, t] (t + 4) c, got := g }
    | g => { c := loadStops .v [p] t c, got := g }
  | g => { c := r.1, got := g }

/-- A resumable instruction (R156 to R159, R165): `fixed` cycles and `fast` or `slow` for each element. In supervisory code it
starts at PRG.DONE when PRG.VALID is 1, or goes on where it stands, and `pause` says how many elements it has completed when the next
event falls; what then ends it (an interrupt, the discard) sets PRG (`endWalk`; log 91). In a run it starts at element 0. Its element
accesses hold no start of frame scratch against drains: the spec gives them no cycle (DESIGN CHOICE, log 90). -/
def resumeBody (fixed fast slow : Nat) (elem : Cabinet → Elem) (rn : Fin 16) (pause : Option Nat)
    (src dst : List Res) (c : Cabinet) : Ret :=
  let n := fld (getD rn c) 0 16
  if c.frame.inRun then
    let w := walk elem n { c := c, done := 0 }
    let mic : Micro := { ls := true, mac := true, vec := true, afterBranch := true, src := .d rn.val :: src, dst := dst,
                         stall := fixed + w.fast * fast + (w.done - w.fast) * slow, writes := w.writes }
    match w.exc with
    | some e => Ret.faulted w.c e [mic]
    | none => { c := w.c, ops := [mic] }
  else
    let start := c.pipe.walked.getD (if bit c.core.prg 16 then fld c.core.prg 0 16 else 0)
    let stop := match pause with
      | some k => min n (max k start)
      | none => n
    let w := walk elem (stop - start) { c := c, done := start }
    match w.exc with
    | some e => Ret.faulted (prgEnded w.done w.c) e
    | none =>
      if w.held then { c := prgEnded w.done w.c, stay := true }
      else if w.done < n then { c := { w.c with pipe := { w.c.pipe with walked := some w.done } }, stay := true }
      else { c := { w.c with core := { w.c.core with prg := 0 }, pipe := { w.c.pipe with walked := none } } }

/-- VMAC accX, (Ax), (Ay), Rn (R154 to R159). `pause`: the elements completed when the next event falls (R157). -/
def vmacBody (x : Fin 2) (ax ay : Fin 8) (rn : Fin 16) (pause : Option Nat) (c : Cabinet) : Ret :=
  resumeBody 3 1 2 (vmacElem x ax ay) rn pause [.acc x.val, .a ax.val, .a ay.val] [.acc x.val, .a ax.val, .a ay.val] c

/-- INTERP (As), (Ad), (At), Rn. -/
def interpBody (as' ad at' : Fin 8) (rn : Fin 16) (pause : Option Nat) (c : Cabinet) : Ret :=
  resumeBody 3 3 5 (interpElem as' ad at') rn pause [.a as'.val, .a ad.val, .a at'.val] [.a as'.val, .a ad.val] c

/-- BMOVE (As), (Ad), Rn. -/
def bmoveBody (as' ad : Fin 8) (rn : Fin 16) (pause : Option Nat) (c : Cabinet) : Ret :=
  resumeBody 2 1 2 (bmoveElem as' ad) rn pause [.a as'.val, .a ad.val] [.a as'.val, .a ad.val] c

/-- CALL (R141, R142): the target is relative to the address of the first syllable. -/
def callRelBody (off : BitVec 16) (c : Cabinet) : Ret := callBody 2 (curPc c + off.signExtend 32) [] c

/-- CALLR (An). With a7 the target is a7 before the push: the spec does not say which (DESIGN CHOICE, log 88). -/
def callRegBody (an : Fin 8) (c : Cabinet) : Ret := callBody 1 (getA an.val c) [.a an.val] c

end Sys2Proof.Machine
end

