-- ==== Sys2Proof/Machine/SystemBodies.lean ====
section
/-!
DEFINITION. What the loop-path, transform and system instructions do (spec/04_ezham_instruction_set.md R150 to R153, R162 to R164; spec/03
R96 to R98; spec/05 R194 to R199), and the events of instruction fetch (spec/05 R178 to R181, R653; spec/13 R428, R429).
-/
namespace Sys2Proof.Machine

/-! ## Loop path and transform (R150 to R153) -/

/-- Register b + p of group G. -/
def groupReg (g p : Fin 4) : Fin 16 := ⟨4 * g.val + p.val, by omega⟩

/-- SMPRD (R95, R150). -/
def smprdBody (rd : Fin 16) (n : Fin 4) (c : Cabinet) : Ret :=
  { c := setD rd c.core.s[n] c, ops := [{ alu := true, dst := [.d rd.val] }] }

/-- DUTY (R63, R151): its commit follows its retirement. -/
def dutyBody (g : Fin 4) (mask : Fin 16) (c : Cabinet) : Ret :=
  if !c.frame.inRun then illegal c
  else
    let src := (List.finRange 4).filter (fun p => mask.val / 2 ^ p.val % 2 = 1)
    { c := c, duty := some (mask.val, (List.finRange 4).map (fun p => getD (groupReg g p) c)),
      ops := [{ alu := true, src := src.map (fun p => .d (groupReg g p).val) }] }

/-- WAITF (R64, R65, R127). -/
def waitfBody (c : Cabinet) : Ret :=
  if c.frame.inRun then { c := c, ends := true, ops := [{ sync := true }] }
  else if c.level = .user then privileged c
  else if c.frame.running then { c := { c with pipe := { c.pipe with hold := .waitf } } }
  else { c := c }

/-- An XFORM variant (R152): `f` is its function, `n` its cycles, `ins` the number of its inputs, `outs` of its results. -/
def xformBody (f : Word → Word → Word → Word → XformRes) (n ins outs : Nat) (g : Fin 4) (c : Cabinet) : Ret :=
  let r (p : Fin 4) : Fin 16 := groupReg g p
  let x := f (getD (r 0) c) (getD (r 1) c) (getD (r 2) c) (getD (r 3) c)
  let c1 := setD (r 1) x.b1 (setD (r 0) x.b0 c)
  let c2 := if outs = 4 then setD (r 3) x.b3 (setD (r 2) x.b2 c1) else c1
  { c := putFlags { sticky := if x.sat then satFlag else 0 } c2,
    ops := [{ mac := true, stall := n, afterBranch := true,
              src := ((List.finRange 4).take ins).map (fun p => .d (r p).val),
              dst := ((List.finRange 4).take outs).map (fun p => .d (r p).val) }] }

/-! ## System (R162 to R164) -/

/-- NOP. -/
def nopBody (c : Cabinet) : Ret := { c := c, ops := [{ alu := true }] }

/-- SYS: vector 11 as a trap. -/
def sysBody (c : Cabinet) : Ret := { c := c, trap := some { vec := 11 }, ops := [{ sync := true }] }

/-- BRK: vector 12 as a fault. -/
def brkBody (c : Cabinet) : Ret := Ret.faulted c { vec := 12 } [{ sync := true }]

/-- SYNC.I (R128, R196): the cache, the line buffer and the fetch buffer are invalidated; a run is not affected. -/
def syncIBody (c : Cabinet) : Ret :=
  let ops : List Micro := [{ sync := true }]
  if c.frame.inRun then { c := c, ops := ops }
  else { c := { c with pipe := { c.pipe with cache := [], lineBuf := none, fill := none, fetchBuf := [] } }, ops := ops }

/-- SYNC.C (R127, R128, R199). -/
def syncCBody (c : Cabinet) : Ret :=
  let ops : List Micro := [{ sync := true }]
  if c.frame.inRun then { c := c, ops := ops }
  else if c.level = .user then privileged c
  else { c := applyAllDeferred c, ops := ops }

/-- The ICU holds a pending source that is enabled (R164). -/
def anyPending (c : Cabinet) : Bool := (List.finRange 128).any (fun n => c.icu.src[n].pend && c.icu.src[n].en)

/-- WFI (R127, R128, R164): it retires when an enabled source pends, and holds issue until then. -/
def wfiBody (c : Cabinet) : Ret :=
  if c.frame.inRun then illegalY c
  else if c.level = .user then privileged c
  else if anyPending c then { c := c, first := true }
  else { c := { c with pipe := { c.pipe with hold := .wfi } }, stay := true }

/-- The syllable of WFI. -/
def wfiSyl : Syl := 0x3E40

/-- A WFI that holds issue retires when an enabled source pends; a deliverable interrupt is taken before the next instruction (R164). -/
def wfiWake (c : Cabinet) : Cabinet :=
  if c.pipe.hold == .wfi && mayEnter c && anyPending c then
    finishSup .y wfiSyl 0 c { c := { c with pipe := { c.pipe with hold := .none } }, first := true }
  else c

/-- MTC (R96 to R98, R197). -/
def mtcBody (n : Fin 32) (rd : Fin 16) (c : Cabinet) : Ret :=
  let w := getD rd c
  let ops : List Micro := [{ alu := true, src := [.d rd.val], dst := if n.val = 0 then [.flags] else [] }]
  if c.frame.inRun then
    if n.val = 0 then { c := setFlags w c, ops := ops } else Ret.faulted c { vec := 3 } ops
  else if (ctlLowest n.val).isNone then { c := c, ops := ops }
  else if !ctlReach c.level n.val then privileged c
  else
    let old := ctlGet n.val c
    let w' := if n.val = 0 ∧ fld w 12 2 = 2 then setFld w 12 2 (fld old 12 2) else w
    if (ctlCard n.val).violates c.level old w' then privileged c
    else { c := ctlWrite n.val w c, ops := ops }

/-- MFC (R96, R97, R171). -/
def mfcBody (rd : Fin 16) (n : Fin 32) (c : Cabinet) : Ret :=
  if !ctlReach c.level n.val then privileged c
  else
    let v := if n.val = 0 then pswRead c else if (ctlLowest n.val).isNone then 0 else ctlGet n.val c
    { c := setD rd v c,
      ops := [{ alu := true, src := if n.val = 0 then [.flags] else if n.val = 8 then [.a 7] else [], dst := [.d rd.val], oldest := n.val == 0 }] }

/-- The physical word that PWRITE stores (R109, 13 R442). -/
def pwriteWord (c : Cabinet) (syl : BitVec 14) : BitVec 16 :=
  let w := physSyl syl
  if c.par.inj then
    BitVec.ofNat 16 (w.toNat % 256 + fld c.par.inject 4 1 * 2 ^ 8 + (w.toNat / 512 % 64) * 2 ^ 9 + fld c.par.inject 5 1 * 2 ^ 15)
  else w

/-- PWRITE (R163, R194). -/
def pwriteBody (an : Fin 8) (rd : Fin 16) (c : Cabinet) : Ret :=
  if c.frame.inRun then illegalY c
  else if c.level = .user then privileged c
  else
    let a := getA an.val c
    if a.toNat ≥ 0x20000 then Ret.faulted c { vec := 8, acc := .store, addr := a }
    else { c := setA an.val (a + 1) (progWrite a.toNat (pwriteWord c ((getD rd c).setWidth 14)) c) }

/-! ## Events of instruction fetch -/

/-- LINE_FILL_COMPLETE (R179; 13 R432, R434): the fill in progress delivers its line; a syllable at the program counter that
fails parity raises a machine check. -/
def lineFillComplete (c : Cabinet) : Cabinet :=
  match c.pipe.fill with
  | none => c
  | some f =>
    if !c.clocksRun then c
    else
      let c := deliverLine f.line c
      let pc := c.core.pc.toNat
      if supReady c && lineOf pc == f.line.line then
        let r := checkWord pc (f.line.words[pc % 16]?.getD 0) c
        if r.2 then { r.1 with pipe := { r.1.pipe with fault := some fetchCheck } } else r.1
      else c

/-- FETCH_REDIRECT (R653): an older fill that has not delivered is abandoned, one that has is kept, and a fill for the line at
the program counter starts where that line is not held. -/
def fetchRedirect (c : Cabinet) : Cabinet :=
  if !c.clocksRun || c.frame.inRun then c
  else
    let c := redirectFill c
    let c := { c with pipe := { c.pipe with fetchBuf := [] } }
    let pc := c.core.pc.toNat
    if pc < 0x20000 && !cacheHas c (lineOf pc) && !bufferHas c (lineOf pc) then startFill pc c else c

/-- CACHE_PARITY_REFETCH (13 R428, R429): a syllable of the instruction at the program counter fails parity in the cache or the
line buffer; the line is invalidated and filled again. `second`: the instruction's second syllable; `l8`, `l6` the failing
lanes; `leak`: a leak of the bucket falls in the same cycle. -/
def cacheRefetch (second l8 l6 leak : Bool) (c : Cabinet) : Cabinet :=
  let a := c.core.pc.toNat + second.toNat
  let line := lineOf a
  let inBuf := bufferHas c line && !cacheHas c line
  let short := coreLen (sylOf (fetchWord c.core.pc.toNat c).2) != 2
  if !supReady c || a ≥ 0x20000 || !(cacheHas c line || inBuf) || !(l8 || l6) || (second && short) then c
  else
    let c := parCorrect c.core.pc.toNat a l8 l6 inBuf leak (cacheDrop line c)
    let l := storeLine c line
    let r := checkWord a (l.words[a % 16]?.getD 0) (deliverLine l (countFill a c))
    if r.2 then { r.1 with pipe := { r.1.pipe with fault := some fetchCheck } } else r.1

end Sys2Proof.Machine
end

