-- ==== Sys2Proof/Machine/CustomBodies.lean ====
section
/-!
DEFINITION. The execution of a custom instruction (spec/07_custom_instructions.md R235 to R250): its micro-operations in sequence on a
private copy of the context, taken over when all have completed.
-/
namespace Sys2Proof.Machine

/-- The operand fields of a custom instruction (R236). -/
structure CxOps where
  rd : Nat
  rs : Nat
  rt : Nat
  imm4 : Nat
  deriving DecidableEq, Repr

/-- A custom instruction in progress: the cabinet (whose registers are still untouched), the private context and flags, the
temporaries, the stores to make, the count's micro-operations. `base` is what a fault leaves: the loads started, but no register has
been read (R126; log 84). -/
structure CxState where
  c : Cabinet
  base : Cabinet
  x : Ctx
  flags : Word
  u : Vector Word 4 := Vector.replicate 4 0
  st : List (Word × Word) := []
  ops : List Micro := []
  exc : Option Exc := none
  held : Bool := false

/-- The data register that a selector 0x0 to 0x5 names. -/
def cxReg (o : CxOps) (s : Nat) : Nat :=
  match s with
  | 0 => o.rd | 1 => o.rs | 2 => o.rt | 3 => o.rd + 1 | 4 => o.rs + 1 | _ => o.rt + 1

/-- The value that a selector delivers as an input (R236). -/
def cxIn (o : CxOps) (u : Uop) (k : CxState) (s : Nat) : Word :=
  if s ≤ 5 then k.x.d[Fin.ofNat 16 (cxReg o s)]
  else if s ≤ 9 then k.u[Fin.ofNat 4 (s - 6)]
  else if s = 0xA then wordOfInt (sextNat 16 u.imm)
  else if s = 0xB then natAt o.imm4 0
  else 0

/-- Writes the register or temporary that a selector names. -/
def cxOut (o : CxOps) (s : Nat) (v : Word) (k : CxState) : CxState :=
  if s ≤ 5 then { k with x := { k.x with d := k.x.d.set (Fin.ofNat 16 (cxReg o s)) v } }
  else if s ≤ 9 then { k with u := k.u.set (Fin.ofNat 4 (s - 6)) v }
  else k

/-- The accumulator of a selector. -/
def cxAcc (s : Nat) : Fin 2 := if s = 0xD then 1 else 0

/-- The resource of a selector, for the count. -/
def cxRes (o : CxOps) (s : Nat) : List Res :=
  if s ≤ 5 then [.d (cxReg o s)] else if s ≤ 9 then [.tmp (s - 6)] else if s = 0xC then [.acc 0] else if s = 0xD then [.acc 1] else []

/-- Flags and result of a micro-operation with a register result (R241). -/
def cxResult (o : CxOps) (u : Uop) (writes : Bool) (r : AluRes) (k : CxState) : CxState :=
  let upd := if u.wf then r.upd else r.upd.stickyOnly
  let k := { k with flags := upd.apply k.flags }
  if writes then cxOut o u.d r.val k else k

/-- The effective address of LDW and STW (R240). -/
def cxAddr (o : CxOps) (u : Uop) (k : CxState) : Word :=
  if u.rb then 0x00040000 + natAt u.imm 0 else cxIn o u k u.a + cxIn o u k u.b + wordOfInt (sextNat 16 u.imm)

/-- LDW: from an earlier store of the same instruction where there is one. A load from a register block is never forwarded (05 R187): it
reads the register before the instruction's own stores, which drain after its retirement (R249; log 84). -/
def cxLoad (o : CxOps) (u : Uop) (k : CxState) : CxState :=
  let a := cxAddr o u k
  match accessFault a 4 .load k.c with
  | some e => { k with exc := some e }
  | none =>
    match if isMem a.toNat then k.st.reverse.find? (fun s => s.1 == a) else none with
    | some s => cxOut o u.d s.2 k
    | none =>
      let g := load .u a 4 k.c
      let k := { k with c := g.1, base := loadStarted .u k.base a }
      match g.2 with
      | .exc e => { k with exc := some e }
      | .held => { k with held := true }
      | .val v => cxOut o u.d (natAt v 0) k

/-- STW. -/
def cxStore (o : CxOps) (u : Uop) (k : CxState) : CxState :=
  let a := cxAddr o u k
  match accessFault a 4 .store k.c with
  | some e => { k with exc := some e }
  | none => { k with st := k.st ++ [(a, cxIn o u k u.d)] }

/-- The effect of one micro-operation (R238 to R241). -/
def cxUop (o : CxOps) (u : Uop) (k : CxState) : CxState :=
  let a := cxIn o u k u.a
  let b := cxIn o u k u.b
  let res (r : AluRes) : CxState := cxResult o u true r k
  let acc (v : Acc) : CxState := { k with x := { k.x with acc := k.x.acc.set (cxAcc u.d) v } }
  match u.op with
  | .alu op => cxResult o u op.writes (aluOp op a b (bit k.flags pswC)) k
  | .mac op => acc (macOp op k.x.acc[cxAcc u.d] a b)
  | .mulqs => res (mulqs a b)
  | .mul2q => res (mul2q a b)
  | .accRead op => res (accRead op k.x.acc[cxAcc u.a])
  | .wrq => acc (wrq a)
  | .wri => acc (wri a)
  | .clr => acc 0
  | .ldw => cxLoad o u k
  | .stw => cxStore o u k
  | .fadd => res (fadd a b)
  | .fsub => res (fsub a b)
  | .fmul => res (fmul a b)
  | .fcmp => cxResult o u false (fcmp a b) k
  | .fmin => res (fminmax false a b)
  | .fmax => res (fminmax true a b)
  | .fmadd => res (fmadd (cxIn o u k u.d) a b)
  | .fneg => res (fneg b)
  | .fabs => res (fabs b)
  | .fcvtws => res (fcvtInt 0 b)
  | .fcvtsw => res (fcvtFloat 0 b)
  | .fcvtqs => res (fcvtInt 31 b)
  | .fcvtsq => res (fcvtFloat 31 b)

/-- The native operation sets Z, N, C or V (R241; 05 R170). -/
def UopOp.setsFlags : UopOp → Bool
  | .alu op => op.setsFlags
  | .fcmp => true
  | _ => false

/-- The station and latency of a micro-operation (R239), with its sources, results and memory access. -/
def cxMicro (o : CxOps) (u : Uop) (first : Bool) (k : CxState) : Micro :=
  let ab := cxRes o u.a ++ cxRes o u.b
  let fl (b : Bool) : List Res := if b then [.flags] else []
  let dst := cxRes o u.d ++ fl (u.wf && u.op.setsFlags)
  match u.op with
  | .alu op => { alu := true, src := ab ++ fl op.readsC, dst := dst, afterBranch := first }
  | .mac _ => { mac := true, lat := 2, src := ab ++ cxRes o u.d, dst := cxRes o u.d, afterBranch := first }
  | .mulqs | .mul2q | .accRead _ | .wrq | .wri | .clr => { mac := true, lat := 2, src := ab, dst := dst, afterBranch := first }
  | .ldw => { ls := true, lat := 2, src := ab, dst := dst, load := some ((cxAddr o u k).toNat, 4), afterBranch := first }
  | .stw => { ls := true, src := ab ++ cxRes o u.d, store := some ((cxAddr o u k).toNat, 4), afterBranch := first }
  | .fmadd => { flt := true, lat := 3, src := ab ++ cxRes o u.d, dst := dst, afterBranch := first }
  | _ => { flt := true, lat := 3, src := ab, dst := dst, afterBranch := first }

/-- Executes micro-operations until one faults or is held (R249). -/
def cxRun (o : CxOps) : Bool → List Uop → CxState → CxState
  | _, [], k => k
  | first, u :: t, k =>
    let k' := cxUop o u { k with ops := k.ops ++ [cxMicro o u first k] }
    if k'.exc.isSome || k'.held then k' else cxRun o false t k'

/-- The instruction's own record of a custom-instruction fault (R246). In a run a fault at decode counts as one ALU micro-operation, and one of
a micro-operation counts those up to it: the spec gives no count of a custom instruction that faults (DESIGN CHOICE, log 85). -/
def cxFault (slot reason : Nat) (c : Cabinet) : Ret :=
  Ret.faulted { c with dec := { c.dec with fault := natAt slot 0 ||| natAt reason 4 } } { vec := 9 } [{ alu := true }]

/-- A selector names a register beyond d15 (R246). -/
def cxBeyond (o : CxOps) (u : Uop) : Bool :=
  [u.d, u.a, u.b].any (fun s => decide (s ≤ 5) && decide (cxReg o s > 15))

/-- Microcode parity at decode (R247). -/
def cxParity (c : Cabinet) : Ret :=
  let c1 := raiseErr .dec 4 c
  let c2 := if c.frame.inRun then tripBy 4 { c1 with err := c1.err ||| bitW 7 } else c1
  Ret.faulted c2 { vec := 1, acc := .none } [{ alu := true }]

/-- A custom instruction (R245 to R249). What an LDW of a register block read before a micro-operation that faults is not taken: 04 R126 and
05 R187 pull apart there (DESIGN CHOICE, log 84). -/
def cxBody (slot : Fin 16) (o : CxOps) (c : Cabinet) : Ret :=
  let s := c.dec.slot[slot]
  if !s.valid then cxFault slot.val 1 c
  else if c.frame.inRun && !s.fs then cxFault slot.val 2 c
  else if (slotEntries s).any (uopBadParity c) then cxParity c
  else
    let us := (slotEntries s).filterMap (fun i => uopDecode (uopAt c i))
    if us.any (cxBeyond o) then cxFault slot.val 3 c
    else
      let k := cxRun o true us { c := c, base := c, x := ctx c, flags := getFlags c }
      match k.exc with
      | some e => Ret.faulted k.base e k.ops
      | none =>
        if k.held then { c := k.base, stay := true }
        else
          { c := k.st.foldl (fun c x => pushStore .u x.1 4 x.2 c) (setFlags k.flags (setCtx k.x k.c)), ops := k.ops }

/-- CX: Rt is DST and IMM4 is 0 (R236). -/
def cxShortBody (slot : Fin 16) (rd rs : Fin 8) (c : Cabinet) : Ret := cxBody slot ⟨rd.val, rs.val, rd.val, 0⟩ c

/-- CX.L. -/
def cxLongBody (slot rd rs rt imm4 : Fin 16) (c : Cabinet) : Ret := cxBody slot ⟨rd.val, rs.val, rt.val, imm4.val⟩ c

end Sys2Proof.Machine
end

