-- ==== Sys2Proof/Machine/Crypto.lean ====
section
/-!
DEFINITION. The algorithms that the spec takes from other standards: CRC-32 with the parameters of spec/15 R476, AES-128 and
AES-CMAC (spec/16 R508: RFC 4493), the key unwrap of RFC 3394 (spec/18 R586) and SHA-256 (spec/18 R576: FIPS 180-4).
-/
namespace Sys2Proof.Machine

/-! ## CRC-32 (15 R476) -/

/-- One bit of the reflected CRC. -/
def crcStep : Nat → Nat → Nat
  | 0, c => c
  | n + 1, c => crcStep n (if c % 2 = 1 then (c / 2).xor 0xEDB88320 else c / 2)

/-- CRC-32 of bytes. -/
def crc32 (bs : List Byte) : Nat := (bs.foldl (fun c b => crcStep 8 (c.xor b.toNat)) 0xFFFFFFFF).xor 0xFFFFFFFF

/-! ## AES-128 (FIPS 197) -/

/-- Multiplication by x in GF(2^8). -/
def xtime (a : Nat) : Nat := if a ≥ 128 then (2 * a).xor 0x11B else 2 * a

/-- Multiplication in GF(2^8): `n` bits of `b`. -/
def gmulN : Nat → Nat → Nat → Nat
  | 0, _, _ => 0
  | n + 1, a, b => (if b % 2 = 1 then a else 0).xor (gmulN n (xtime a) (b / 2))

/-- Multiplication in GF(2^8). -/
def gmul (a b : Nat) : Nat := gmulN 8 a b

/-- a^254, the inverse in GF(2^8) with 0 for 0. -/
def ginv (a : Nat) : Nat :=
  let a2 := gmul a a
  let a3 := gmul a2 a
  let a6 := gmul a3 a3
  let a12 := gmul a6 a6
  let a15 := gmul a12 a3
  let a30 := gmul a15 a15
  let a60 := gmul a30 a30
  let a120 := gmul a60 a60
  let a126 := gmul a120 a6
  let a127 := gmul a126 a
  gmul a127 a127

/-- A byte rotated left. -/
def rotl8 (n a : Nat) : Nat := (a * 2 ^ n) % 256 + a / 2 ^ (8 - n)

/-- The substitution box. -/
def sbox (a : Nat) : Nat :=
  let b := ginv a
  (((b.xor (rotl8 1 b)).xor (rotl8 2 b)).xor ((rotl8 3 b).xor (rotl8 4 b))).xor 0x63

/-- The inverse substitution box. -/
def sboxInv (a : Nat) : Nat := ginv (((rotl8 1 a).xor (rotl8 3 a)).xor ((rotl8 6 a).xor 5))

/-- Byte-wise exclusive or. -/
def xorL (a b : List Nat) : List Nat := List.zipWith Nat.xor a b

/-- The next round key. -/
def nextKey (k : List Nat) (rc : Nat) : List Nat :=
  let g (i : Nat) : Nat := k.getD i 0
  let t := [(sbox (g 13)).xor rc, sbox (g 14), sbox (g 15), sbox (g 12)]
  let w0 := xorL (k.take 4) t
  let w1 := xorL ((k.drop 4).take 4) w0
  let w2 := xorL ((k.drop 8).take 4) w1
  let w3 := xorL ((k.drop 12).take 4) w2
  w0 ++ w1 ++ w2 ++ w3

/-- The round keys after the first, from round constants. -/
def roundKeys (k : List Nat) : List Nat → List (List Nat)
  | [] => []
  | rc :: t => let k' := nextKey k rc; k' :: roundKeys k' t

/-- The eleven round keys. -/
def aesKeys (k : List Nat) : List (List Nat) := k :: roundKeys k [1, 2, 4, 8, 16, 32, 64, 128, 0x1B, 0x36]

/-- A permutation of the state's bytes. -/
def permute (p s : List Nat) : List Nat := p.map (fun i => s.getD i 0)

/-- ShiftRows and its inverse as permutations of the column-major state. -/
def shiftRows : List Nat := [0, 5, 10, 15, 4, 9, 14, 3, 8, 13, 2, 7, 12, 1, 6, 11]
def shiftRowsInv : List Nat := [0, 13, 10, 7, 4, 1, 14, 11, 8, 5, 2, 15, 12, 9, 6, 3]

/-- One column of MixColumns with the given first row of coefficients. -/
def mixColumn (a b c d : Nat) (s : List Nat) : List Nat :=
  let f (i : Nat) : Nat := s.getD (i % 4) 0
  (List.range 4).map (fun i =>
    ((gmul a (f i)).xor (gmul b (f (i + 1)))).xor ((gmul c (f (i + 2))).xor (gmul d (f (i + 3)))))

/-- MixColumns with the given coefficients. -/
def mixColumns (a b c d : Nat) (s : List Nat) : List Nat :=
  (List.range 4).flatMap (fun j => mixColumn a b c d ((s.drop (4 * j)).take 4))

/-- The rounds after the first key addition. -/
def aesRounds : List (List Nat) → List Nat → List Nat
  | [], s => s
  | [k], s => xorL (permute shiftRows (s.map sbox)) k
  | k :: t, s => aesRounds t (xorL (mixColumns 2 3 1 1 (permute shiftRows (s.map sbox))) k)

/-- AES-128 encryption of one block. -/
def aesEncrypt (key blk : List Nat) : List Nat :=
  match aesKeys key with
  | [] => blk
  | k :: t => aesRounds t (xorL blk k)

/-- The rounds of decryption, with the round keys from the last to the first. -/
def aesRoundsInv : List (List Nat) → List Nat → List Nat
  | [], s => s
  | [k], s => xorL ((permute shiftRowsInv s).map sboxInv) k
  | k :: t, s => aesRoundsInv t (mixColumns 14 11 13 9 (xorL ((permute shiftRowsInv s).map sboxInv) k))

/-- AES-128 decryption of one block. -/
def aesDecrypt (key blk : List Nat) : List Nat :=
  match (aesKeys key).reverse with
  | [] => blk
  | k :: t => aesRoundsInv t (xorL blk k)

/-! ## AES-CMAC (RFC 4493) -/

/-- A block doubled in GF(2^128). -/
def cmacDouble (b : List Nat) : List Nat :=
  let n := b.foldl (fun n x => n * 256 + x) 0
  let m := (2 * n) % 2 ^ 128
  let m := if n ≥ 2 ^ 127 then m.xor 0x87 else m
  (List.range 16).map (fun i => m / 2 ^ (8 * (15 - i)) % 256)

/-- The chain over whole blocks: `n` blocks before the last one. -/
def cmacChain (key : List Nat) : Nat → List Nat → List Nat → List Nat × List Nat
  | 0, x, m => (x, m)
  | n + 1, x, m => cmacChain key n (aesEncrypt key (xorL x (m.take 16))) (m.drop 16)

/-- AES-CMAC of a message. -/
def cmac (key msg : List Byte) : List Byte :=
  let k := key.map (·.toNat)
  let m := msg.map (·.toNat)
  let k1 := cmacDouble (aesEncrypt k (List.replicate 16 0))
  let n := (m.length - 1) / 16
  let (x, last) := cmacChain k n (List.replicate 16 0) m
  let padded := if last.length = 16 then xorL last k1
    else xorL (last ++ 0x80 :: List.replicate (15 - last.length) 0) (cmacDouble k1)
  (aesEncrypt k (xorL x padded)).map (BitVec.ofNat 8)

/-- The MAC of R508: the first 8 bytes. -/
def mac8 (key msg : List Byte) : List Byte := (cmac key msg).take 8

/-! ## Key unwrap (RFC 3394) -/

/-- One step of the unwrap for t, on A and the block R[i]. -/
def unwrapStep (key a r : List Nat) (t : Nat) : List Nat × List Nat :=
  let b := aesDecrypt key (xorL a (List.replicate 7 0 ++ [t]) ++ r)
  (b.take 8, b.drop 8)

/-- The six rounds of the unwrap of two blocks. -/
def unwrapRounds (key : List Nat) : Nat → List Nat → List Nat → List Nat → List Nat × List Nat × List Nat
  | 0, a, r1, r2 => (a, r1, r2)
  | j + 1, a, r1, r2 =>
    let (a, r2) := unwrapStep key a r2 (2 * j + 2)
    let (a, r1) := unwrapStep key a r1 (2 * j + 1)
    unwrapRounds key j a r1 r2

/-- The unwrapped 16-byte key, when the integrity check holds. -/
def keyUnwrap (key wrapped : List Byte) : Option (List Byte) :=
  let w := wrapped.map (·.toNat)
  let (a, r1, r2) := unwrapRounds (key.map (·.toNat)) 6 (w.take 8) ((w.drop 8).take 8) (w.drop 16)
  if a = List.replicate 8 0xA6 then some ((r1 ++ r2).map (BitVec.ofNat 8)) else none

/-! ## SHA-256 (FIPS 180-4) -/

/-- The first 32 bits of the fractional part of the cube root of `p`. -/
def cubeFrac (p : Nat) : Word :=
  let rec go : Nat → Nat → Nat
    | 0, lo => lo
    | n + 1, lo => if (lo + 2 ^ n) ^ 3 ≤ p * 2 ^ 96 then go n (lo + 2 ^ n) else go n lo
  BitVec.ofNat 32 (go 36 0)

/-- The first 32 bits of the fractional part of the square root of `p`. -/
def sqrtFrac (p : Nat) : Word := BitVec.ofNat 32 (isqrt 38 (p * 2 ^ 64))

/-- The first 64 primes. -/
def primes64 : List Nat :=
  [2, 3, 5, 7, 11, 13, 17, 19, 23, 29, 31, 37, 41, 43, 47, 53, 59, 61, 67, 71, 73, 79, 83, 89, 97, 101, 103, 107, 109, 113,
   127, 131] ++
  [137, 139, 149, 151, 157, 163, 167, 173, 179, 181, 191, 193, 197, 199, 211, 223, 227, 229, 233, 239, 241, 251, 257, 263,
   269, 271, 277, 281, 283, 293, 307, 311]

/-- The message schedule: `n` more words, the newest first. -/
def shaSchedule : Nat → List Word → List Word
  | 0, w => w
  | n + 1, w =>
    let g (i : Nat) : Word := w.getD i 0
    let x := g 14
    let y := g 1
    let s0 := x.rotateRight 7 ^^^ x.rotateRight 18 ^^^ (x >>> 3)
    let s1 := y.rotateRight 17 ^^^ y.rotateRight 19 ^^^ (y >>> 10)
    shaSchedule n ((g 15 + s0 + g 6 + s1) :: w)

/-- One round of the compression. -/
def shaRound (h : List Word) (kw : Word) : List Word :=
  match h with
  | [a, b, c, d, e, f, g, h] =>
    let s1 := e.rotateRight 6 ^^^ e.rotateRight 11 ^^^ e.rotateRight 25
    let t1 := h + s1 + ((e &&& f) ^^^ (~~~ e &&& g)) + kw
    let s0 := a.rotateRight 2 ^^^ a.rotateRight 13 ^^^ a.rotateRight 22
    [t1 + s0 + ((a &&& b) ^^^ (a &&& c) ^^^ (b &&& c)), a, b, c, d + t1, e, f, g]
  | x => x

/-- The big-endian words of bytes. -/
def wordsBE : List Byte → List Word
  | a :: b :: c :: d :: t => (a ++ b ++ c ++ d) :: wordsBE t
  | _ => []

/-- One block of 16 words. -/
def shaBlock (h blk : List Word) : List Word :=
  let w := (shaSchedule 48 blk.reverse).reverse
  List.zipWith (· + ·) h ((List.zipWith (· + ·) (primes64.map cubeFrac) w).foldl shaRound h)

/-- The chain over `n` blocks. -/
def shaChain : Nat → List Word → List Word → List Word
  | 0, h, _ => h
  | n + 1, h, m => shaChain n (shaBlock h (m.take 16)) (m.drop 16)

/-- SHA-256 of bytes. -/
def sha256 (bs : List Byte) : List Byte :=
  let n := bs.length
  let pad := bs ++ 0x80 :: List.replicate ((119 - n % 64) % 64) 0 ++ bytesBE 8 (8 * n)
  (shaChain (pad.length / 64) ((primes64.take 8).map sqrtFrac) (wordsBE pad)).flatMap (fun w => bytesBE 4 w.toNat)

end Sys2Proof.Machine
end

