-- ==== Sys2Proof/Machine/Lifecycle.lean ====
section
/-!
DEFINITION. The lifecycle commands of a cabinet and what follows them inside it: arming, running, parking and waking, trip
clear, self-test, reset (spec/01_cabinets_and_sideboard.md R32 to R35, R42 to R45; spec/16_command_packets.md R520, R521;
spec/19_power_reset_boot.md R606, R613 to R616), the bank swap (spec/02_the_frame.md R87) and PERF_CONFIG (16 R544). Each
takes the ticket of its command and answers it through the cabinet's messages to the sideboard.
-/
namespace Sys2Proof.Machine

/-- The check of the loop budget (02 R73): SMP_WIN_HI + LOOP_DEADLINE + 48 ≤ I. -/
def budgetOk (deadline : Nat) (c : Cabinet) : Bool :=
  decide (winHi c + deadline + 48 ≤ (if c.frame.dual then frameLen c / 2 else frameLen c))

/-- A pending transition is added (01 R32, R35). -/
def addPend (k : LifeCmd) (t : Nat) (c : Cabinet) : Cabinet := { c with pend := c.pend ++ [⟨k, some t⟩] }

/-- CAB_ARM (R32, R521): from LOADED it needs the budget of R73 and waits for calibration. -/
def cabArm (t : Nat) (c : Cabinet) : Cabinet :=
  match c.mode with
  | .running => addPend .rearm t c
  | .loaded =>
    if !budgetOk c.frame.deadline c then c.answer (some t) stDenied
    else if c.cnv.calDone then addPend .arm t c
    else ({ c with armWait := true }).answer (some t) stDeferred
  | _ => c.answer (some t) stMismatch

/-- CAB_RUN (R32). -/
def cabRun (t : Nat) (c : Cabinet) : Cabinet :=
  if c.mode == .armed then addPend .run t c else c.answer (some t) stMismatch

/-- CAB_PARK (R32, R35; 19 R613): from LOADED in this cycle, else at the next frame boundary. -/
def cabPark (t : Nat) (c : Cabinet) : Cabinet :=
  match c.mode with
  | .loaded => (keepPending (beginPark (some t) c)).note .heartbeat
  | .armed => addPend .park t c
  | .running => addPend .park t c
  | _ => c.answer (some t) stMismatch

/-- The wake starts (19 R615): clocks restart and the analog blocks are powered. -/
def beginWake (c : Cabinet) : Cabinet := { c with park := .waking }

/-- CAB_WAKE (R32; 19 R615): during the parking sequence it waits for its end. -/
def cabWake (t : Nat) (c : Cabinet) : Cabinet :=
  if c.mode != .parked || c.wakeTicket.isSome then c.answer (some t) stMismatch
  else
    match c.park with
    | .entering => { c with wakeTicket := some t }
    | .stopped => beginWake { c with wakeTicket := some t }
    | _ => c.answer (some t) stMismatch

/-- PARK_COMPLETE (19 R613): a run still in progress is ended by the guard (R66), the core's stores drain, a dump in progress
completes (14 R467), the comparators power down (08 R296) and the clocks stop. Then a waiting wake starts, or a waiting test
(01 R32). `inst` is the length of a run that is ended here. -/
def parkComplete (c : Cabinet) : Cabinet :=
  if c.mode != .parked || c.park != .entering then c
  else
    let c := runOverrun (overrunLength c.frame.lastHalf c.cnv.instant c) c
    let c := dumpComplete (discardAll c)
    let c := { c with
      park := .stopped, cmpr := { c.cmpr with stat := 0 }, pipe := { c.pipe with issueStop := false } }
    let c := ({ c with parkTicket := none }).answer c.parkTicket stOK
    if c.wakeTicket.isSome then beginWake c else startDeferredTest c

/-- WAKE_RESTORE (19 R615): every block has restored its shelf; cache and buffers are invalidated, the time base steps to
`ring` (12 R398), a stale position is marked (10 R364), outputs follow what was committed (18 R581). -/
def wakeRestore (ring : BitVec 64) (c : Cabinet) : Cabinet :=
  if c.park != .waking then c
  else
    let c := { c with
      park := .restored, pipe := { c.pipe with cache := [], lineBuf := none, fetchBuf := [], fill := none } }
    settlePairs (drwWake (fbkWake (stepTo ring c)))

/-- The calibrations of a wake (08 R283). -/
def wakeCal (target : CabMode) (c : Cabinet) : Cabinet :=
  if target == .loaded && !c.cnv.calDone then startInitCal c else spareRestart c

/-- WAKE_COMPLETE (19 R615; 01 R32): the cabinet enters its state; the entry to ARMED is a frame boundary (02 R656; 09 R335). A pending
swap takes place now in LOADED, and at the first frame boundary otherwise (02 R83). -/
def wakeComplete (c : Cabinet) : Cabinet :=
  if c.park != .restored then c
  else
    let t := c.wakeTicket
    let target : CabMode := if c.latch || c.selftest then .tripped else if c.parkLoaded then .loaded else .armed
    let c := wakeCal target { c with park := .none, wakeTicket := none }
    if target == .armed then
      let cnt := c.prf.cnt
      let c := setMode .armed c
      let c := { c with frame := { c.frame with running := true, pos := 0, hbCount := 0, due := none, sampling := false } }
      (boundaryEvents false true cnt c).answer t stOK
    else if target == .loaded then (trySwap (enterMode target c)).answer t stOK
    else
      (enterMode target { c with bank := { c.bank with atBoundary := c.bank.req != c.bank.active } }).answer t stOK

/-- CAB_TRIP_CLEAR (01 R32; 09 R331). -/
def cabTripClear (t : Nat) (c : Cabinet) : Cabinet :=
  if c.mode != .tripped then c.answer (some t) stMismatch
  else if c.corestop || tripAct c != 0 then c.answer (some t) stDenied
  else
    let c := { c with latch := false, err := 0, pwm := { c.pwm with tripsrc := 0, first := 0xF } }
    (enterMode .loaded c).answer (some t) stOK

/-- CAB_TEST (01 R32; 08 R284; 16 R521). A test asked for while the parking sequence is in progress starts when it has ended; during
a wake the command is refused (log 29). -/
def cabTest (t : Nat) (c : Cabinet) : Cabinet :=
  match c.mode with
  | .loaded => (beginTest false { c with testTicket := some t, deftest := false }).note .heartbeat
  | .parked =>
    match c.park with
    | .stopped => beginTest true { c with testTicket := some t, deftest := false }
    | .entering => if c.testTicket.isSome then c.answer (some t) stMismatch else { c with testTicket := some t, deftest := true }
    | _ => c.answer (some t) stMismatch
  | .armed => ({ spareRestart c with deftest := true }).answer (some t) stDeferred
  | .running => ({ spareRestart c with deftest := true }).answer (some t) stDeferred
  | .tripped => ({ spareRestart c with deftest := true }).answer (some t) stDeferred
  | _ => c.answer (some t) stMismatch

/-- SELF_TEST_COMPLETE (08 R285; 09 R336; 01 R32): `cnv` and `pwm` are the failures of the checks, in the bits of CNV_TESTRES and
PWM_TESTRES; `refFail` and `calFail` are the converters whose calibration after the checks failed under 08 R271 and R272. From PARKED it
replaces only the trims on the shelf (19 R616; log 93). Sides still asserted act once the cabinet has left TEST (`leaveTest`). -/
def selfTestComplete (cnv pwm : Word) (refFail calFail : BitVec 5) (c : Cabinet) : Cabinet :=
  if c.mode != .test then c
  else
    let cnv := cnv &&& 0x1FFFFF
    let pwm := pwm &&& 0xFFFF
    let fail := cnv != 0 || pwm != 0
    let t := c.testTicket
    let c : Cabinet := { c with
      testTicket := none, err := if fail then c.err ||| 0x20000 else c.err
      cnv := { c.cnv with testres := cnv }, pwm := { c.pwm with testres := pwm } }
    let data : List Byte := [if fail then 1 else 0]
    let c :=
      if c.testParked then backToPark (newTrims (fun i => !(refFail ||| calFail).getLsbD i.val) c)
      else keepPending (initCalEnd refFail calFail (startInitCal (enterMode (if fail then .tripped else .loaded) c)))
    c.answer t stOK data

/-- The sides that are asserted when the cabinet leaves TEST act (08 R285); back in PARKED none is. `old`: the cabinet before. -/
def leaveTest (old c : Cabinet) : Cabinet :=
  if old.mode == .test && c.mode != .test && c.mode != .parked then sidesAct c else c

/-! ## Clocks (01 R42 to R45) -/

/-- REFERENCE_CLOCK_LOSS: the PLL enters holdover (R42). A switch back that waited does not take place: the reference it followed is
gone. The internal oscillator, where it clocks the cabinet, goes on (log 27). -/
def clockLoss (c : Cabinet) : Cabinet :=
  let c := if c.clockSwitch == some false then { c with clockSwitch := none } else c
  if c.hold then c else ({ c with hold := true }).note (.health 0x24)

/-- A clock switch at the next frame boundary, or at once where no frame runs (log 27). -/
def switchClock (free : Bool) (c : Cabinet) : Cabinet :=
  let c := { c with clockSwitch := some free }
  if c.frame.running then c else applyClockSwitch c

/-- FREE_RUN_SWITCH: after 10 ms in holdover (R43). -/
def freeRunSwitch (c : Cabinet) : Cabinet := if c.hold then switchClock true c else c

/-- RELOCK: the reference has returned and stayed for 1 ms (R45). -/
def relock (c : Cabinet) : Cabinet := if c.hold || c.freeRun then switchClock false c else c

/-! ## Bank swap, PERF_CONFIG, maintenance writes -/

/-- The reply byte of CAB_BANK_SWAP: CAB_BANKSEL [7:0]. -/
def bankByte (c : Cabinet) : List Byte := [BitVec.ofNat 8 (bankselWord c.bank).toNat]

/-- CAB_BANK_SWAP (02 R87). -/
def bankSwap (t : Nat) (c : Cabinet) : Cabinet :=
  if c.bank.req != c.bank.active then c.answer (some t) stOK (bankByte c)
  else if !(if c.bank.active then c.bank.validA else c.bank.validB) then c.answer (some t) stDenied
  else
    let c := { c with bank := { c.bank with req := !c.bank.active } }
    if c.mode == .parked then c.answer (some t) stOK (bankByte c)
    else trySwap { c with swapTickets := c.swapTickets ++ [t] }

/-- PERF_CONFIG (16 R544): at event 8 of the next frame boundary while the frame runs, at once otherwise. -/
def perfConfig (t : Nat) (ws : List (Nat × Word)) (c : Cabinet) : Cabinet :=
  if c.mode == .parked then c.answer (some t) stMismatch
  else
    let c := { c with perfWait := c.perfWait ++ [(t, ws)] }
    if c.frame.running then c else applyPerf c

/-- REG_READ of a cabinet: the words from `a` on, without side effects (16 R544). -/
def maintRead (a n : Nat) (c : Cabinet) : List Byte :=
  (List.range n).flatMap (fun i => bytesOf 4 (regPeek (a + 4 * i) c).toNat)

/-- Words written in address order with Machine-level authority (16 R544; 00 R12). -/
def maintWriteAll (a : Nat) (ws : List Word) (c : Cabinet) : Cabinet :=
  (List.range ws.length).foldl (fun c i => regWrite .machine (a + 4 * i) (ws.getD i 0) c) c

/-- REG_WRITE of a cabinet (00 R12; 16 R544): one that would change a P2 field changes nothing. -/
def maintWrite (t a : Nat) (ws : List Word) (c : Cabinet) : Cabinet :=
  if c.mode == .parked then c.answer (some t) stMismatch
  else if (List.range ws.length).any (fun i => regTouchesP2 (a + 4 * i) (ws.getD i 0) c) then c.answer (some t) stDenied (bytesOf 2 0)
  else (maintWriteAll a ws c).answer (some t) stOK (bytesOf 2 ws.length)

/-! ## Protected settings (18 R581) -/

/-- A confirmed commit's cabinet items: at event 2 of the next frame boundary while the frame runs, at once otherwise. -/
def protCommit (ws : List (Nat × Word)) (c : Cabinet) : Cabinet :=
  let c := { c with protWait := c.protWait ++ ws }
  if c.frame.running then c else applyProtected c

/-! ## Reset of class C (00 R15; 19 R606) -/

/-- Every command that waits in the cabinet is answered STATE_MISMATCH (R606; a self-test in progress as well, log 29). -/
def dropWaiting (c : Cabinet) : Cabinet :=
  let ts := c.pend.filterMap (·.ticket) ++ c.swapTickets ++ c.parkTicket.toList ++ c.wakeTicket.toList ++ c.testTicket.toList ++
    c.perfWait.map (·.1)
  ts.foldl (fun c t => c.answer (some t) stMismatch) c

/-- The core after a reset of class C: fields without a reset value keep theirs (log 1). -/
def coreReset (k : Core) : Core :=
  { sup := k.sup, frm := k.frm, frmFlags := k.frmFlags, pc := k.pc, runPc := k.runPc, ksp := k.ksp, usp := k.usp }

/-- An output pair after a reset of class C: an output that is active stays so until the safe pattern ends it (09 R334). -/
def Pair.reset (q : Pair) : Pair := { a := { active := q.a.active, safe := q.a.active }, b := { active := q.b.active, safe := q.b.active } }

/-- The fields of class C take their reset values (R15); those of class P, the memories, the ring descriptors, the pins' levels
and live conditions stay. -/
def classC (c : Cabinet) : Cabinet :=
  let c := decReset (prfReset (drwReset (ordReset c)))
  moveLevels c.cmpr {
    id := c.id, hold := c.hold, freeRun := c.freeRun, clockSwitch := c.clockSwitch
    core := coreReset c.core, mems := c.mems
    frame := { deadline := c.frame.deadline, fallback := c.frame.fallback, ovtrip := c.frame.ovtrip }
    cnv := { trim := c.cnv.trim, vd := c.cnv.vd }
    cmpr := { cfg := c.cmpr.cfg, stat := c.cmpr.stat, move := c.cmpr.move }
    pwm := { safe := c.pwm.safe, tripN := c.pwm.tripN, enN := c.pwm.enN, pair := c.pwm.pair.map Pair.reset }
    fbk := fbkAdopt { hall := c.fbk.hall, tooth := c.fbk.tooth }
    drw := c.drw
    tmr := { count := c.tmr.count, before := c.tmr.before, tested := c.tmr.tested, delivered := c.tmr.delivered }
    prf := c.prf, dec := c.dec, ord := c.ord
    ordRings := c.ordRings, repRings := c.repRings
    protWait := c.protWait, ioOk := c.ioOk, chipSafe := c.chipSafe, free := c.free, rdata := c.rdata, notes := c.notes }

/-- CAB_RESET (R606; 09 R332; 12 R398; 18 R581): `ring` is ring time. Waiting commands are answered, the class C fields are reset,
confirmed items stand against them, active trip sources set the latch again, and a heartbeat follows. -/
def cabReset (ring : BitVec 64) (c : Cabinet) : Cabinet :=
  let c := classC (dropWaiting c)
  let c := settlePairs (applyProtected (stepTo ring c))
  (retrip c).note .heartbeat

/-- A cabinet after a reset of class P (R15): the class P fields as well; memories, ring descriptors, general pin levels and the
counter of free values stay. `powerOn`: chip power-on, after which no memory contents and no trims are given (13 R440). `keep`: the outputs
go on driving what they drive (R601). -/
def cabResetP (powerOn keep : Bool) (c : Cabinet) : Cabinet :=
  let c := classC { c with protWait := [], notes := [], chipSafe := false }
  let old := c.cmpr
  let c : Cabinet := moveLevels old { c with
    frame := {}, cmpr := { c.cmpr with cfg := ({} : Cmpr).cfg }
    pwm := { tripN := c.pwm.tripN, enN := c.pwm.enN, pair := if keep then c.pwm.pair else ({} : Pwm).pair }
    tmr := {}, hold := false, freeRun := false, clockSwitch := none, notes := [] }
  let c : Cabinet := if powerOn then { c with
      mems := { epoch := c.mems.epoch + 1 }, dec := { c.dec with uopSet := [], uopBad := [] },
      cnv := { c.cnv with trim := ({} : Cnv).trim }, cmpr := {},
      drw := { c.drw with dr := c.drw.dr.map (fun _ => {}) } }
    else c
  retrip c

end Sys2Proof.Machine
end

