-- ==== Sys2Proof/Machine/Chip.lean ====
section
/-!
DEFINITION. The whole chip: sixteen cabinets and the sideboard (spec/01_cabinets_and_sideboard.md), with the shared operations
of the sideboard: health counters (spec/19 R621, R623), sessions, ring time, replies and what leaves by a ring or by the bench
port (spec/16 R506; spec/15 R480).
-/
namespace Sys2Proof.Machine

/-- The chip without the queue of commands. -/
structure Chip where
  cabs : Vector Cabinet 16 := Vector.ofFn (fun k => { id := k })
  side : Side := {}
  deriving DecidableEq, Repr

/-- Replaces a cabinet. -/
def Chip.setCab (k : Fin 16) (c : Cabinet) (ch : Chip) : Chip := { ch with cabs := ch.cabs.set k c }

/-- Changes the sideboard. -/
def Chip.onSide (f : Side → Side) (ch : Chip) : Chip := { ch with side := f ch.side }

/-- A cabinet by number; numbers beyond 15 do not occur. -/
def cabOf (k : Nat) : Fin 16 := Fin.ofNat 16 k

/-! ## Health counters (19 R621, R623) -/

/-- A counter's selection word takes an event with its qualifier; QUAL 0xFF counts every instance. -/
def healthTakes (ev : Nat) (qual : Option Nat) (sel : Word) : Bool :=
  ev != 0 && fld sel 0 8 == ev && (fld sel 8 8 == 0xFF || qual == some (fld sel 8 8))

/-- Counts `m` occurrences of an event (R621): saturating at 2^64 − 1. -/
def countHealth (ev : Nat) (qual : Option Nat) (m : Nat) (s : Side) : Side :=
  { s with health := { s.health with
      count := Vector.ofFn (fun n =>
        if healthTakes ev qual s.health.sel[n] then min (s.health.count[n] + m) (2 ^ 64 - 1) else s.health.count[n]) } }

/-- The counters' values are written to MRAM. -/
def saveHealth (s : Side) : Side := { s with health := { s.health with saved := s.health.count } }

/-- The event codes that R623 gives. -/
def healthCodes : List Nat :=
  [0x00, 0x01, 0x02, 0x03, 0x04, 0x05, 0x06, 0x07, 0x08, 0x09, 0x0A, 0x10, 0x11, 0x12, 0x18, 0x19, 0x1A, 0x1B] ++
  [0x20, 0x21, 0x22, 0x23, 0x24, 0x28, 0x29, 0x2A, 0x2B, 0x30, 0x31, 0x32, 0x33, 0x34]

/-- A write of SBD_HSELn (19 R621 and its card): an unknown event is stored as 0, and counter n becomes 0. -/
def hselWrite (n : Fin 32) (v : Word) (s : Side) : Side :=
  let v := v &&& 0xFFFF
  let v := if healthCodes.contains (fld v 0 8) then v else v &&& 0xFF00
  { s with health := { sel := s.health.sel.set n v, count := s.health.count.set n 0, saved := s.health.saved.set n 0 } }

/-! ## Ring ends -/

/-- The end of a ring. -/
def Side.ring (s : Side) : RingId → RingEnd
  | .a => s.ringA
  | .b => s.ringB

/-- Replaces the end of a ring. -/
def Side.setRing (s : Side) (r : RingId) (e : RingEnd) : Side :=
  match r with
  | .a => { s with ringA := e }
  | .b => { s with ringB := e }

/-- The device is joined to the ring. -/
def Side.joined (s : Side) (r : RingId) : Bool := (s.ring r).phase == .joined

/-- The device is in the ring: it forwards and sends HOP frames (15 R491 step 2). -/
def RingEnd.inRing (e : RingEnd) : Bool :=
  match e.phase with
  | .inserted => true
  | .announced _ => true
  | .joined => true
  | _ => false

/-- The device is joined to at least one ring. -/
def Side.joinedAny (s : Side) : Bool := s.joined .a || s.joined .b

/-- Appends a reply to the queue of a ring. -/
def RingEnd.addReply (f : JFrame) (e : RingEnd) : RingEnd := { e with replyq := e.replyq ++ [f] }

/-- Appends an order notice to the queue of a ring. -/
def RingEnd.addNotice (f : JFrame) (e : RingEnd) : RingEnd := { e with noticeq := e.noticeq ++ [f] }

/-! ## Ring time (15 R486, R490) -/

/-- Ring time in units of 2^−16 tick. -/
def Side.fineTime (s : Side) : Nat := s.time / 1000000

/-- Ring time in ticks. -/
def Side.ticks (s : Side) : BitVec 64 := BitVec.ofNat 64 (s.fineTime / 65536)

/-- One CCLK cycle of a ring end's times (15 R484, R488, R491). -/
def RingEnd.advance (e : RingEnd) : RingEnd :=
  { e with
    syncAge := min (e.syncAge + 1) 960000, window := e.window - 1, rest := e.rest - 1,
    unheard := if e.rest = 0 then min (e.unheard + 1) 2560000 else 0,
    steady := if e.inFault || !e.lastRxOk then 0 else min (e.steady + 1) 64000000 }

/-- One CCLK cycle of the sideboard: half a tick of ring time at the present rate. -/
def Side.advance (s : Side) : Side :=
  { s with
    time := s.time + (32768 * (1000000 + s.rate)).toNat, usedAge := min (s.usedAge + 1) 960000,
    ringA := s.ringA.advance, ringB := s.ringB.advance }

/-! ## Sessions (16 R510) -/

/-- The context of a session. -/
def Side.session (s : Side) (n : Nat) : Session := (assocGet n s.sessions).getD {}

/-- Replaces the context of a session. -/
def Side.setSession (s : Side) (n : Nat) (x : Session) : Side := { s with sessions := assocPut n x s.sessions }

/-- Changes the context of a session. -/
def Side.onSession (n : Nat) (f : Session → Session) (s : Side) : Side := s.setSession n (f (s.session n))

/-! ## Replies (16 R506, R508; 15 R480) -/

/-- The reply to a packet (R506), with a MAC where a key is given. -/
def replyBytes (p : Packet) (status : Nat) (data : List Byte) (key : Option (List Byte)) : List Byte :=
  let head := bytesOf 1 (if key.isSome then 0x81 else 0x91) ++ bytesOf 1 p.opc ++ bytesOf 2 p.session ++ bytesOf 4 p.seq.toNat ++
    bytesOf 1 p.cab ++ bytesOf 1 p.ring ++ bytesOf 2 data.length ++ bytesOf 4 p.tag.toNat
  let msg := head ++ bytesOf 1 status ++ data
  msg ++ (match key with
    | none => []
    | some k => mac8 k msg)

/-- A reply leaves: on the ring opposite to the one that delivered its command, or as the bench port's reply. -/
def sendReply (p : Port) (bytes : List Byte) (s : Side) : Side :=
  match p with
  | .bench => { s with bench := { s.bench with replies := s.bench.replies ++ [bytes], busy := false } }
  | .ring r node =>
    let f : JFrame := { dst := node, src := (s.ring r.other).node, kind := 2, payload := bytes }
    s.setRing r.other ((s.ring r.other).addReply f)

/-- The key of a reply: the session key of an open session (R508). -/
def replyKey (p : Packet) (s : Side) : Option (List Byte) :=
  if p.unauth then none
  else
    let x := s.session p.session
    if x.isOpen then x.ks else none

/-- Answers a packet at once under its session's key; NO_ROOM replies are counted (19 R623). -/
def answerPacket (p : Packet) (status : Nat) (data : List Byte) (s : Side) : Side :=
  let s := if status = stNoRoom then countHealth 0x12 none 1 s else s
  sendReply p.port (replyBytes p status data (replyKey p s)) s

/-- Answers a packet without authentication (R509); AUTH_FAIL replies are counted. -/
def answerBare (p : Packet) (status : Nat) (s : Side) : Side :=
  let s := if status = stAuthFail then countHealth 0x10 none 1 s else s
  sendReply p.port (replyBytes p status [] none) s

/-! ## The device accepts commands -/

/-- Packets are processed: firmware runs, the recovery scan has ended, no chip safe state and no reset (19 R608; 15 R501). -/
def Side.serving (s : Side) : Bool :=
  s.booted && !s.ledger.scan && s.safe.isNone && s.reset.isNone

end Sys2Proof.Machine
end

