-- ==== Sys2Proof/Machine/State.lean ====
section
/-!
DEFINITION. The state of the block: the chip (sixteen cabinets and the sideboard) and the queue of the commands that wait, with the
reasons for which a step can stop.
-/
namespace Sys2Proof.Machine

/-- Reasons of a fault. There is none: the spec gives every command an effect in every state, and what it calls an exception of
the core is taken by the core (06), which is an effect on the state. No step raises a fault (safe). -/
inductive Fault where
  deriving DecidableEq, Repr

/-- Reasons of a refusal. -/
inductive Refusal where
  /-- The command has no meaning in this model yet, raised by the dispatch alone; no command is in this case (safe: no state
  follows). -/
  | notModelled (mnemonic : String)
  deriving DecidableEq, Repr

/-- The whole state: what the spec gives the chip, and the commands that wait, first in, first out. -/
structure State where
  chip : Chip := {}
  pending : List Instr := []
  deriving DecidableEq, Repr

/-- The state at the end of a power-on reset (19 R599, R601): every cabinet EMPTY, the core stopped, the recovery scan and the
boot still to come, MRAM and the image store as manufactured, no command waiting (log 39). Each field holds the value that its
structure names as its default. -/
def State.reset : State := {}

end Sys2Proof.Machine
end

