-- ==== Sys2Proof/Machine/Loader.lean ====
section
/-!
DEFINITION. The loader path of a cabinet: image loads (spec/16_command_packets.md R523; spec/18_protection_and_updates.md R592,
R593) and bank stages (16 R525; spec/02_the_frame.md R88 to R90).
-/
namespace Sys2Proof.Machine

/-- Little-endian 16-bit words of bytes. -/
def halves : List Byte → List (BitVec 16)
  | a :: b :: t => (b ++ a) :: halves t
  | _ => []

/-- The little-endian value of `n` bytes from `o`. -/
def leAt (bs : List Byte) (o n : Nat) : Nat := natOfBytes ((bs.drop o).take n)

/-! ## The image format (18 R592, R593) -/

/-- A section: its type, its address and its data. -/
structure Section where
  kind : Nat
  addr : Nat
  data : List Byte
  deriving DecidableEq, Repr

/-- The section lies inside its target. -/
def Section.fits (kind addr len : Nat) : Bool :=
  match kind with
  | 1 => len % 2 == 0 && decide (addr + len / 2 ≤ 0x20000)
  | 2 => len % 2 == 0 && decide (addr + len / 2 ≤ 0x4000)
  | 3 => len % 2 == 0 && decide (addr + len / 2 ≤ 0x4000)
  | 4 => addr % 4 == 0 && len % 4 == 0 && decide (addr + len ≤ 0x20000)
  | 5 => addr % 4 == 0 && len % 4 == 0 && decide (0x20000 ≤ addr) && decide (addr + len ≤ 0x21F00)
  | 6 => addr == 0 && len == 2112
  | _ => false

/-- Reads `n` sections; `none` where one is malformed or bytes follow the last one. -/
def parseSections : Nat → List Byte → Option (List Section)
  | 0, bs => if bs.isEmpty then some [] else none
  | n + 1, bs =>
    let kind := leAt bs 0 1
    let addr := leAt bs 4 4
    let len := leAt bs 8 4
    let whole := 12 + (len + 3) / 4 * 4
    if bs.length < whole ∨ leAt bs 1 3 ≠ 0 ∨ !Section.fits kind addr len then none
    else (parseSections n (bs.drop whole)).map (fun t => ⟨kind, addr, (bs.drop 12).take len⟩ :: t)

/-- A parsed image: EVB, the active bank and the sections. -/
structure Image where
  evb : Word
  bank : Bool
  secs : List Section
  deriving DecidableEq, Repr

/-- The image format of R592 with the checks of R593. -/
def parseImage (bs : List Byte) : Option Image :=
  if bs.length < 16 ∨ leAt bs 0 4 ≠ 0x42434C44 ∨ leAt bs 4 1 ≠ 1 ∨ leAt bs 5 1 > 1 ∨ leAt bs 12 4 ≠ 0 then none
  else
    match parseSections (leAt bs 6 2) (bs.drop 16) with
    | none => none
    | some ss =>
      let bank := leAt bs 5 1 == 1
      if ss.any (fun x => x.kind == (if bank then 3 else 2)) then some ⟨natAt (leAt bs 8 4) 0, bank, ss⟩ else none

/-! ## Writing an image -/

/-- Loader writes: one a syllable or a word (14 R449 0x36; log 19). -/
def countLoader (n : Nat) (c : Cabinet) : Cabinet := bump 0x36 n { mst := some 3 } c

/-- The loader writes a word of data memory or frame scratch with computed parity (13 R442; 14 R449 0x17, 0x19). -/
def loadWord (a : Nat) (bs : List Byte) (c : Cabinet) : Cabinet :=
  bump (if a < 0x20000 then 0x17 else 0x19) 1 { mst := some 3, data := some a } (countLoader 1 (memWrite false a bs c))

/-- The loader writes the words of data memory or frame scratch from `a` on. -/
def loadBytes (a : Nat) (bs : List Byte) (c : Cabinet) : Cabinet :=
  (List.range (bs.length / 4)).foldl (fun c i => loadWord (a + 4 * i) ((bs.drop (4 * i)).take 4) c) c

/-- Writes syllables with computed parity from offset `o` of a loop-store bank; offsets beyond the bank are left out. -/
def bankWriteAt (b : Bool) (o : Nat) (syls : List (BitVec 16)) (c : Cabinet) : Cabinet :=
  let m := (List.range syls.length).foldl (fun m i =>
    if o + i < 0x4000 then assocPut (0x20000 + o + i) (physSyl ((syls.getD i 0).setWidth 14)) m else m)
    (if b then c.mems.bankB else c.mems.bankA)
  countLoader syls.length { c with mems := if b then { c.mems with bankB := m } else { c.mems with bankA := m } }

/-- Writes syllables of the program store with computed parity. -/
def progLoad (a : Nat) (syls : List (BitVec 16)) (c : Cabinet) : Cabinet :=
  (List.range syls.length).foldl (fun c i => progWrite (a + i) (physSyl ((syls.getD i 0).setWidth 14)) c) (countLoader syls.length c)

/-- The slots of a decode-table section (07 R251, R253): every slot is invalidated, the entries and the slots are written, and each
slot marked valid is validated; the first failing slot. -/
def loadDecode (bs : List Byte) (c : Cabinet) : Cabinet × Option Nat :=
  let c := (List.finRange 16).foldl (fun c n => setSlot c n { c.dec.slot[n] with valid := false }) (countLoader 528 c)
  let c := (List.finRange 256).foldl (fun c i =>
    uopWrite true i true (natAt (leAt bs (8 * i.val + 4) 4 % 2 ^ 16) 0) (uopWrite true i false (natAt (leAt bs (8 * i.val) 4) 0) c)) c
  let c := (List.finRange 16).foldl (fun c n => slotWrite true n (natAt (leAt bs (2048 + 4 * n.val) 4) 0 &&& 0x11FFF) c) c
  (c, (List.finRange 16).find? (fun n => bit (natAt (leAt bs (2048 + 4 * n.val) 4) 0) 16 && !(c.dec.slot[n]).valid) |>.map (·.val))

/-- Writes a section; for a decode table the first slot that fails. -/
def loadSection (x : Section) (c : Cabinet) : Cabinet × Option Nat :=
  match x.kind with
  | 1 => (progLoad x.addr (halves x.data) c, none)
  | 2 => (bankWriteAt false x.addr (halves x.data) c, none)
  | 3 => (bankWriteAt true x.addr (halves x.data) c, none)
  | 6 => loadDecode x.data c
  | _ => (loadBytes x.addr x.data c, none)

/-- Writes the sections in order; the first slot that fails. -/
def loadSections : List Section → Cabinet → Cabinet × Option Nat
  | [], c => (c, none)
  | x :: t, c =>
    let r := loadSection x c
    let q := loadSections t r.1
    (q.1, r.2.or q.2)

/-- The stored word of a syllable reads back with its data and parity (13 R439). -/
def readsBack (w : BitVec 16) (stored : Option (BitVec 16)) : Bool :=
  match stored with
  | none => false
  | some x => sylOf x == w.setWidth 14 && laneFails x == 0

/-- Readback of the syllables of a section, against what later sections of the image may have written over them. -/
def sectionReadback (x : Section) (c : Cabinet) : Bool :=
  let ws := halves x.data
  (List.range ws.length).all (fun i =>
    match x.kind with
    | 1 => ((assocGet (x.addr + i) c.mems.prog).map (fun y => laneFails y == 0)).getD false
    | 2 => ((assocGet (0x20000 + x.addr + i) c.mems.bankA).map (fun y => laneFails y == 0)).getD false
    | 3 => ((assocGet (0x20000 + x.addr + i) c.mems.bankB).map (fun y => laneFails y == 0)).getD false
    | _ => true)

/-! ## Load commands (16 R523) -/

/-- The open stage closes as aborted: the bank's valid mark stays clear. -/
def abortStage (c : Cabinet) : Cabinet := { c with stage := none, bank := { c.bank with staging := false } }

/-- CAB_LOAD_BEGIN: `slot` holds the image of the named slot of the image store, when it is verified and not being written. -/
def loadBegin (t source length crc : Nat) (slot : Option (List Byte)) (c : Cabinet) : Cabinet :=
  if c.mode != .empty && c.mode != .loaded then c.answer (some t) stMismatch
  else if source > 2 then c.answer (some t) stDenied
  else if source ≠ 0 ∧ slot.isNone then c.answer (some t) stMismatch
  else if c.load.isSome then c.answer (some t) stMismatch
  else
    let bs := if source = 0 then [] else slot.getD []
    let c := abortStage (drainAll c)
    ({ c with
      load := some { source := source, length := length, crc := crc, bytes := bs },
      pipe := { c.pipe with stopped := true, hold := .none, fault := none } }).answer (some t) stOK

/-- CAB_LOAD_DATA. -/
def loadData (t offset : Nat) (bs : List Byte) (c : Cabinet) : Cabinet :=
  if c.mode != .empty && c.mode != .loaded then c.answer (some t) stMismatch
  else match c.load with
  | none => c.answer (some t) stMismatch
  | some l =>
    if l.source ≠ 0 then c.answer (some t) stMismatch
    else if offset ≠ l.bytes.length then c.answer (some t) stMismatch (bytesOf 4 l.bytes.length)
    else
      let l := { l with bytes := l.bytes ++ bs }
      ({ c with load := some l }).answer (some t) stOK (bytesOf 4 l.bytes.length)

/-- The core starts (03 R100; 05 R181): caches invalid, PSW 0x0000_3000, at the address in entry 0 of the vector table,
read with no check of its parity: R100 does not speak of one (DESIGN CHOICE, log 104). -/
def coreStart (c : Cabinet) : Cabinet :=
  let va := fld c.core.evb 8 9 * 256
  { c with
    core := { c.core with psw := 0x3000, pc := natAt (memRead c va 4) 0 },
    pipe := { stopped := false, sbuf := c.pipe.sbuf } }

/-- What a verified image sets beside the memories it wrote (18 R593). -/
def imageSets (i : Image) (c : Cabinet) : Cabinet :=
  let wrote (k : Nat) : Bool := i.secs.any (fun x => x.kind == k)
  ctlSetNow 1 (i.evb &&& 0x1FF00)
    { c with bank := { c.bank with active := i.bank, req := i.bank, validA := wrote 2, validB := wrote 3, swapAtRunEnd := false, atBoundary := false } }

/-- A verified image: the cabinet enters LOADED, calibration and the core start; a set latch trips it in the same cycle (09 R332). -/
def enterLoaded (i : Image) (c : Cabinet) : Cabinet :=
  let c := coreStart (startInitCal ((setMode .loaded (imageSets i c)).note .heartbeat))
  if c.latch then (setMode .tripped c).note .heartbeat else c

/-- CAB_LOAD_END (16 R523): length and format, CRC, readback, slot validation. The sections reach the memories once length, format
and CRC are right (log 30). -/
def loadEnd (t : Nat) (c : Cabinet) : Cabinet :=
  if c.mode != .empty && c.mode != .loaded then c.answer (some t) stMismatch
  else match c.load with
  | none => c.answer (some t) stMismatch
  | some l =>
    let c := { c with load := none }
    let fail (r s : Nat) (c : Cabinet) : Cabinet := c.answer (some t) stDenied [BitVec.ofNat 8 r, BitVec.ofNat 8 s]
    if l.source = 0 ∧ l.bytes.length ≠ l.length then fail 4 0 c
    else match parseImage l.bytes with
    | none => fail 4 0 c
    | some i =>
      if l.source = 0 ∧ crc32 l.bytes ≠ l.crc then fail 1 0 c
      else
        let r := loadSections i.secs c
        if !i.secs.all (fun x => sectionReadback x r.1) then fail 2 0 r.1
        else match r.2 with
        | some n => fail 3 n r.1
        | none => (enterLoaded i r.1).answer (some t) stOK

/-! ## Bank stages (16 R525; 02 R88 to R90) -/

/-- CAB_BANK_STAGE Open. -/
def stageOpen (t length crc : Nat) (c : Cabinet) : Cabinet :=
  if c.mode == .parked then c.answer (some t) stMismatch
  else if length = 0 ∨ length > 16384 then c.answer (some t) stDenied
  else if c.bank.req != c.bank.active then c.answer (some t) stDenied
  else if c.stage.isSome ∨ c.load.isSome then c.answer (some t) stMismatch
  else
    let b := c.bank
    ({ c with
      stage := some { length := length, crc := crc },
      bank := { b with staging := true, validA := b.validA && !b.active, validB := b.validB && b.active } }).answer (some t) stOK

/-- CAB_BANK_STAGE Data: the syllables reach the inactive bank without waiting (01 R25). -/
def stageData (t offset : Nat) (ws : List (BitVec 16)) (c : Cabinet) : Cabinet :=
  if c.mode == .parked then c.answer (some t) stMismatch
  else match c.stage with
  | none => c.answer (some t) stMismatch
  | some s =>
    if offset ≠ s.syls.length then c.answer (some t) stMismatch (bytesOf 4 s.syls.length)
    else
      let c := bankWriteAt (!c.bank.active) offset ws c
      let s := { s with syls := s.syls ++ ws }
      ({ c with stage := some s }).answer (some t) stOK (bytesOf 4 s.syls.length)

/-- Readback of the staged syllables (13 R439). -/
def stageReadback (s : Stage) (c : Cabinet) : Bool :=
  let m := if c.bank.active then c.mems.bankA else c.mems.bankB
  (List.range s.syls.length).all (fun i => readsBack (s.syls.getD i 0) (assocGet (0x20000 + i) m))

/-- The first check that fails at Close: length, CRC, readback. -/
def stageReason (s : Stage) (c : Cabinet) : Nat :=
  if s.syls.length ≠ s.length then 4
  else if crc32 (s.syls.flatMap (fun w => bytesOf 2 w.toNat)) ≠ s.crc then 1
  else if !stageReadback s c then 2
  else 0

/-- CAB_BANK_STAGE Close. -/
def stageClose (t : Nat) (c : Cabinet) : Cabinet :=
  if c.mode == .parked then c.answer (some t) stMismatch
  else match c.stage with
  | none => c.answer (some t) stMismatch
  | some s =>
    let r := stageReason s c
    let c := abortStage c
    if r ≠ 0 then c.answer (some t) stDenied [BitVec.ofNat 8 r]
    else
      let b := c.bank
      (trySwap { c with bank := { b with validA := b.validA || b.active, validB := b.validB || !b.active } }).answer (some t) stOK [0]

/-- CAB_BANK_STAGE Abort. -/
def stageAbort (t : Nat) (c : Cabinet) : Cabinet :=
  if c.mode == .parked then c.answer (some t) stMismatch
  else if c.stage.isNone then c.answer (some t) stMismatch
  else (abortStage c).answer (some t) stOK

end Sys2Proof.Machine
end

