-- ==== Sys2Proof/Machine/Ledger.lean ====
section
/-!
DEFINITION. The ledger (spec/17_ledger_and_delivery.md): entries and their sequences, allocation and room, the writes of a
commit, retirement, the ledger's part in resets, and LEDGER_QUERY. Every change is judged against the view: the ledger with
the writes of the commits that wait already made (R553).
-/
namespace Sys2Proof.Machine

/-- The state code of an entry (R546). -/
def LState.code : LState → Nat
  | .free => 0 | .accepted => 1 | .dispatched => 2 | .executed => 3 | .held => 4 | .indeterminate => 5 | .cancelled => 6
  | .retired => 7

/-- The entry is HELD or INDETERMINATE: it stops the later entries of its ring (R560). -/
def LState.blocks (x : LState) : Bool := x == .held || x == .indeterminate

/-- The states that count towards an order ring's depth (16 R528). -/
def LState.occupies (x : LState) : Bool := x == .accepted || x == .dispatched || x.blocks

/-- The entry is an order's. -/
def Entry.isOrder (e : Entry) : Bool := e.opc == 0x30 || e.opc == 0x31

/-! ## Commits: their writes and the view (R551, R553) -/

/-- Sets the generation counts of a run: each entry of the run has the generation of its head (R558). -/
def genPut (i run gen : Nat) (gens : List (Nat × Nat)) : List (Nat × Nat) :=
  (List.range (run + 1)).foldl (fun g j => assocPut (i + j) gen g) gens

/-- One write of a commit. -/
def applyWrite (s : Side) (w : LWrite) : Side :=
  match w with
  | .put i e taken =>
    let l := s.ledger
    { s with ledger := { l with
        entries := assocPut i e (taken.foldl (fun es j => assocErase j es) l.entries), gens := genPut i e.run e.gen l.gens } }
  | .sessE n x => s.onSession n (fun t => { t with e := x })
  | .sessLrs n x => s.onSession n (fun t => { t with lrs := x })

/-- All writes of a commit. -/
def applyWrites (ws : List LWrite) (s : Side) : Side := ws.foldl applyWrite s

/-- The sideboard as it is once every queued commit is complete. -/
def Side.view (s : Side) : Side := s.ledger.commits.foldl (fun t c => applyWrites c.writes t) s

/-- Adds a commit to the queue. -/
def enqueue (ws : List LWrite) (rs : List Release) (confirms : Option Nat) (s : Side) : Side :=
  { s with ledger := { s.ledger with commits := s.ledger.commits ++ [{ writes := ws, releases := rs, confirms := confirms }] } }

/-! ## Sequences and look-up (R550) -/

/-- The full sequence of an entry of a session with next expected sequence `e` (R550). -/
def fullSeq (e : Word) (seql : Nat) : Word :=
  let m := (e - 1).toNat
  e - 1 - BitVec.ofNat 32 ((m + 2 ^ 24 - seql % 2 ^ 24) % 2 ^ 24)

/-- The entries of a session. -/
def sessionEntries (n : Nat) (s : Side) : List (Nat × Entry) := s.ledger.entries.filter (fun x => x.2.session == n)

/-- The entry of a sequence of a session that is not retired. -/
def entryOf (n : Nat) (seq : Word) (s : Side) : Option (Nat × Entry) :=
  (sessionEntries n s).find? (fun x => x.2.state != .retired && fullSeq (s.session n).e x.2.seql == seq)

/-- The entry of a sequence of a session, a retired one not yet reused included. -/
def entryOfAny (n : Nat) (seq : Word) (s : Side) : Option (Nat × Entry) :=
  (entryOf n seq s).or ((sessionEntries n s).find? (fun x => fullSeq (s.session n).e x.2.seql == seq))

/-- The orders of a cabinet's ring that are not retired, in the order of their acceptance (R555). -/
def ringOrders (cab ring : Nat) (s : Side) : List (Nat × Entry) :=
  sortBy (fun x => x.2.place) (s.ledger.entries.filter (fun x =>
    x.2.isOrder && !x.2.chip && x.2.cab == cab && x.2.ring == ring && x.2.state != .retired))

/-! ## Allocation and room (R547, R558, R559) -/

/-- The number of entries of the ledger (R545). -/
abbrev ledgerSize : Nat := 524288

/-- The entries of the reserve (R559). -/
abbrev ledgerReserve : Nat := 1024

/-- Continuation entries of an order of `w` bytes (R547). -/
def contEntries (w : Nat) : Nat := (w - 8 + 15) / 16

/-- The run of entries from `i` on, `n` long, meets no entry of the list and no withdrawn index. -/
def runClear (i n : Nat) (es : List (Nat × Entry)) (gone : List Nat) : Bool :=
  decide (i + n ≤ ledgerSize) && es.all (fun x => decide (i + n ≤ x.1) || decide (x.1 + x.2.run < i)) &&
  gone.all (fun j => decide (j < i) || decide (i + n ≤ j))

/-- Where a search for a run starts: index 0 and the index after each obstacle. -/
def runStarts (es : List (Nat × Entry)) (gone : List Nat) : List Nat :=
  0 :: ((es.map (fun x => x.1 + x.2.run + 1)) ++ gone.map (· + 1))

/-- The index of a run of `n` entries (R558): a FREE run first, then RETIRED runs, oldest retirement first; which FREE run is taken
is open (log 32). -/
def allocate (n : Nat) (l : Ledger) : Option Nat :=
  let hint := Config.ledgerIndex l.allocs % ledgerSize
  let busy := l.entries.filter (fun x => x.2.state != .retired)
  let old := sortBy (fun x => x.2.gone) (l.entries.filter (fun x => x.2.state == .retired))
  if runClear hint n l.entries l.withdrawn then some hint
  else ((runStarts l.entries l.withdrawn).find? (fun i => runClear i n l.entries l.withdrawn)).or
    ((old.map (·.1) ++ runStarts busy l.withdrawn).find? (fun i => runClear i n busy l.withdrawn))

/-- FREE and RETIRED entries, continuations included (LDG_FREE). -/
def Ledger.freeCount (l : Ledger) : Nat :=
  ledgerSize - l.withdrawn.length -
    ((l.entries.filter (fun x => x.2.state != .retired)).map (fun x => x.2.run + 1)).foldl (· + ·) 0

/-- Entries that commands in process will take: those that wait for a cabinet. -/
def Side.reserved (s : Side) : Nat := s.waiting.length + s.prot.waits.length

/-- A session's entries that are neither FREE nor RETIRED, continuations included (R559). -/
def sessionCount (n : Nat) (s : Side) : Nat :=
  (((sessionEntries n s).filter (fun x => x.2.state != .retired)).map (fun x => x.2.run + 1)).foldl (· + ·) 0

/-- The sequence lies too far beyond the session's oldest entry (R550). -/
def spanTooWide (n : Nat) (seq : Word) (s : Side) : Bool :=
  (sessionEntries n s).any (fun x =>
    x.2.state != .retired && decide ((seq - fullSeq (s.session n).e x.2.seql).toNat ≥ 2 ^ 24 - 1))

/-- Room for a command of `n` entries (R516 step 7; R550, R559), `s` the view. -/
def hasRoom (p : Packet) (n : Nat) (s : Side) : Bool :=
  !spanTooWide p.session p.seq s && decide (n + s.reserved + ledgerReserve ≤ s.ledger.freeCount) &&
  decide (sessionCount p.session s + n ≤ s.ledger.quota) && (allocate n s.ledger).isSome

/-- The generation of a run at `i` (16 R540; R558): one more than the index had last, 0 at its first use. -/
def nextGen (i : Nat) (l : Ledger) : Nat :=
  match assocGet i l.gens with
  | none => 0
  | some g => (g + 1) % 2 ^ 13

/-- The heads that a run of `n` entries at `i` replaces. -/
def replaced (i n : Nat) (l : Ledger) : List Nat :=
  (l.entries.filter (fun x => decide (x.1 < i + n) && decide (i ≤ x.1 + x.2.run))).map (·.1)

/-- The first 8 payload bytes, padded with zeros (R546). -/
def paramOf (bs : List Byte) : List Byte := (bs ++ List.replicate 8 0).take 8

/-- The order bytes and the state mask of an order's payload (16 R526). -/
def orderOf (p : Packet) : List Byte × Nat :=
  (if p.opc = 0x30 then (p.payload.drop 4).take 8 else (p.payload.drop 4).take (natOfBytes ((p.payload.drop 2).take 2)),
   (p.payload.getD 0 0).toNat)

/-- The head of a command (R546..R548). -/
def headOf (p : Packet) (st : LState) (status : Nat) (data : List Byte) : Entry :=
  let chip := p.cab == 0xFF
  let order := p.opc == 0x30 || p.opc == 0x31
  let ob := orderOf p
  { chip := chip, opc := p.opc, session := p.session, seql := p.seq.toNat % 2 ^ 24, tag := p.tag, state := st, rstat := status,
    rdata := data, cab := if chip then 0 else p.cab, ring := if chip then 0 else p.ring,
    mask := if order then ob.2 &&& 0x1C else 0, order := if order then ob.1 else [],
    param := paramOf (if order then ob.1 else p.payload) }

/-- The commit that journals a command with its status: its head where an index is free, and the session's next E. The entry's
place is the next one of the ledger. -/
def journal (p : Packet) (e : Entry) (run : Nat) (rs : List Release) (s : Side) : Side :=
  let v := s.view.ledger
  let ws : List LWrite := match allocate (run + 1) v with
    | none => []
    | some i => [.put i { e with run := run, gen := nextGen i v, place := s.ledger.placed } (replaced i (run + 1) v)]
  let s := enqueue (ws ++ [.sessE p.session (p.seq + 1)]) rs none s
  { s with ledger := { s.ledger with placed := s.ledger.placed + 1, allocs := s.ledger.allocs + 1 } }

/-- Changes the state of an entry in a commit. -/
def putEntry (i : Nat) (e : Entry) : LWrite := .put i e []

/-! ## Retirement (R557) -/

/-- How far an ACK may go beyond the last retired sequence (R557): the limit and the first blocking entry. -/
def ackReach (n : Nat) (a : Word) (s : Side) : Nat :=
  let x := s.session n
  let lim := (x.e - 1 - x.lrs).toNat
  let d := (a - x.lrs).toNat
  let lim := if d < lim then d else lim
  let lim := if d ≥ 2 ^ 31 then 0 else lim
  (sessionEntries n s).foldl (fun m y =>
    let o := (fullSeq x.e y.2.seql - x.lrs).toNat
    if y.2.state != .retired && y.2.state != .executed && y.2.state != .cancelled && decide (1 ≤ o) then min m (o - 1) else m) lim

/-- The entries that an ACK retires, in sequence order, with the new last retired sequence. -/
def ackWrites (n : Nat) (a : Word) (s : Side) : List LWrite × Word :=
  let x := s.session n
  let reach := ackReach n a s
  let off (y : Nat × Entry) : Nat := (fullSeq x.e y.2.seql - x.lrs).toNat
  let ys := sortBy off ((sessionEntries n s).filter (fun y =>
    y.2.state != .retired && decide (1 ≤ off y) && decide (off y ≤ reach)))
  let ws := (ys.zip (List.range ys.length)).map (fun y =>
    putEntry y.1.1 { y.1.2 with state := .retired, gone := s.ledger.retired + y.2 })
  let lrs := x.lrs + BitVec.ofNat 32 reach
  (if reach = 0 then [] else ws ++ [.sessLrs n lrs], lrs)

/-! ## Resets (R562) -/

/-- What a reset makes of an entry it covers. -/
def resetEntry (e : Entry) : Entry :=
  match e.state with
  | .accepted => { e with state := .held, hrsn := 1 }
  | .dispatched => { e with state := .indeterminate, hrsn := 1 }
  | _ => e

/-- The writes of a CAB_RESET of cabinet `k` (R562). -/
def cabResetWrites (k : Nat) (s : Side) : List LWrite :=
  (s.ledger.entries.filter (fun x =>
    !x.2.chip && x.2.cab == k && (x.2.state == .accepted || x.2.state == .dispatched))).map (fun x => putEntry x.1 (resetEntry x.2))

/-- An order's delivery that has not taken place is taken out of a commit. -/
def Commit.dropDeliver (k : Nat) (c : Commit) : Commit :=
  { c with releases := c.releases.filter (fun r =>
      match r with
      | .deliver j _ => j.val != k
      | _ => true) }

/-- The ledger's part of a CAB_RESET: what waits to be delivered to the cabinet is not, and the entries change. -/
def ledgerCabReset (k : Nat) (s : Side) : Side :=
  let ws := cabResetWrites k s.view
  let s := { s with ledger := { s.ledger with commits := s.ledger.commits.map (Commit.dropDeliver k) } }
  if ws.isEmpty then s else enqueue ws [] none s

/-- The commit engine has started this commit. -/
def Commit.started (c : Commit) : Bool := c.stage != .waiting

/-- The commit delivers an order. -/
def Commit.delivers (c : Commit) : Bool :=
  c.releases.any (fun r =>
    match r with
    | .deliver _ _ => true
    | _ => false)

/-! ## LEDGER_QUERY (R569, R570) -/

/-- The reply record of an entry. -/
def queryRecord (seq : Word) (e : Entry) : List Byte :=
  bytesOf 4 seq.toNat ++ bytesOf 4 e.tag.toNat ++ bytesOf 1 e.state.code ++ bytesOf 1 (if e.chip then 0xFF else e.cab) ++
  bytesOf 1 e.ring ++ bytesOf 1 e.opc ++ bytesOf 1 e.rstat ++ bytesOf 1 e.mask ++ bytesOf 1 e.hrsn ++
  bytesOf 1 (e.order.length / 4) ++ e.param

/-- The entry meets the query's filters. -/
def queryMatch (p : List Byte) (e : Entry) : Bool :=
  let b (i : Nat) : Nat := (p.getD i 0).toNat
  e.state != .free && b 3 / 2 ^ e.state.code % 2 == 1 &&
  (b 4 == 0xFF || (if e.chip then b 4 == 0xFE else b 4 == e.cab)) && (b 5 == 0xFF || (b 5 == e.ring))

/-- The reply data of a LEDGER_QUERY, `s` the view: the matching entries in sequence order from the start sequence up to
E − 1. -/
def queryReply (p : List Byte) (s : Side) : List Byte :=
  let n := natOfBytes (p.take 2)
  let x := s.session n
  let start := natAt (natOfBytes ((p.drop 8).take 4)) 0
  let span := (x.e - start).toNat
  let off (y : Nat × Entry) : Nat := (fullSeq x.e y.2.seql - start).toNat
  let ys := sortBy off ((sessionEntries n s).filter (fun y =>
    queryMatch p y.2 && decide (off y < span) && decide (span < 2 ^ 31)))
  let m := min ys.length (p.getD 2 0).toNat
  bytesOf 4 x.e.toNat ++ bytesOf 4 x.lrs.toNat ++ bytesOf 1 m ++ bytesOf 1 (if m < ys.length then 1 else 0) ++ bytesOf 2 0 ++
    (ys.take m).flatMap (fun y => queryRecord (fullSeq x.e y.2.seql) y.2)

/-! ## The layout in MRAM (R545 to R548) -/

/-- The 64-bit header of a head (R545, R546). -/
def Entry.header (e : Entry) : BitVec 64 :=
  BitVec.ofNat 64 (e.session % 2 ^ 14 + e.state.code * 2 ^ 14 + e.seql % 2 ^ 24 * 2 ^ 17 + e.cab % 16 * 2 ^ 41 + e.ring % 128 * 2 ^ 45 +
    e.opc % 256 * 2 ^ 52 + e.mask / 4 % 8 * 2 ^ 60 + e.chip.toNat * 2 ^ 63)

/-- A head of 16 bytes: the header and the parameter (R545). -/
def Entry.headBytes (e : Entry) : List Byte := bytesOf 8 e.header.toNat ++ e.param

/-- Continuation `j` of an order: its next 16 bytes, padded with zeros (R547). -/
def Entry.contBytes (j : Nat) (e : Entry) : List Byte := (((e.order.drop (8 + 16 * j)).take 16) ++ List.replicate 16 0).take 16

/-- The index record of an entry (R548). -/
def Entry.indexRecord (e : Entry) : BitVec 128 :=
  BitVec.ofNat 128 (e.tag.toNat + e.gen % 2 ^ 13 * 2 ^ 32 + e.run % 64 * 2 ^ 45 + e.hrsn % 4 * 2 ^ 51 + e.rstat % 256 * 2 ^ 56 +
    natOfBytes (e.rdata.take 8) * 2 ^ 64)

/-! ## Counts for the LDG_ registers (R571) -/

/-- Heads in a state. -/
def Ledger.headsIn (st : LState) (l : Ledger) : Nat := (l.entries.filter (fun x => x.2.state == st)).length

end Sys2Proof.Machine
end

