-- ==== Sys2Proof/Machine/Packets.lean ====
section
/-!
DEFINITION. Command packets (spec/16_command_packets.md R504 to R520): their layout, the opcode table, the checks of R516 steps 1
to 4, authentication, the permission map (spec/18_protection_and_updates.md R573).
-/
namespace Sys2Proof.Machine

/-! ## The opcode table (R520) -/

/-- The kinds of opcodes: journaled, sequenced, unsequenced, and SESSION_OPEN (R511). -/
inductive OpKind where
  | j | s | u | open
  deriving DecidableEq, Repr

/-- The targets an opcode allows. -/
inductive OpTarget where
  | cab | chip | both
  deriving DecidableEq, Repr

/-- A row of the opcode table: target, kind, and whether it names a ring. -/
structure OpRow where
  code : Nat
  target : OpTarget
  kind : OpKind
  ringed : Bool := false
  deriving DecidableEq, Repr

/-- The opcode table of R520. -/
def opRows : List OpRow :=
  [⟨0x00, .both, .u, false⟩, ⟨0x01, .chip, .open, false⟩, ⟨0x02, .chip, .s, false⟩, ⟨0x03, .chip, .u, false⟩,
   ⟨0x04, .chip, .u, false⟩, ⟨0x10, .cab, .j, false⟩, ⟨0x11, .cab, .j, false⟩, ⟨0x12, .cab, .j, false⟩,
   ⟨0x13, .cab, .j, false⟩, ⟨0x14, .cab, .j, false⟩, ⟨0x15, .cab, .j, false⟩, ⟨0x16, .cab, .j, false⟩] ++
  [⟨0x17, .cab, .j, false⟩, ⟨0x18, .cab, .j, false⟩, ⟨0x19, .cab, .j, false⟩, ⟨0x1A, .cab, .j, false⟩,
   ⟨0x1B, .cab, .j, false⟩, ⟨0x1C, .cab, .u, false⟩, ⟨0x30, .cab, .j, true⟩, ⟨0x31, .cab, .j, true⟩,
   ⟨0x32, .cab, .j, true⟩, ⟨0x33, .cab, .j, true⟩, ⟨0x34, .cab, .j, true⟩, ⟨0x35, .cab, .u, true⟩] ++
  [⟨0x50, .both, .u, false⟩, ⟨0x51, .both, .j, false⟩, ⟨0x60, .chip, .j, false⟩, ⟨0x61, .chip, .j, false⟩,
   ⟨0x62, .chip, .j, false⟩, ⟨0x63, .chip, .j, false⟩, ⟨0x70, .cab, .j, false⟩, ⟨0x71, .chip, .u, false⟩,
   ⟨0x72, .chip, .u, false⟩, ⟨0xE0, .chip, .j, false⟩, ⟨0xE1, .chip, .j, false⟩, ⟨0xE2, .chip, .j, false⟩]

/-- The row of an opcode. -/
def opRow (opc : Nat) : Option OpRow := opRows.find? (fun r => r.code == opc)

/-- The kind of an opcode; unknown ones are taken as unsequenced. -/
def opKind (opc : Nat) : OpKind :=
  match opRow opc with
  | none => .u
  | some r => r.kind

/-- CAB is one that the row allows. -/
def OpRow.cabOk (r : OpRow) (cab : Nat) : Bool :=
  match r.target with
  | .cab => decide (cab ≤ 15)
  | .chip => cab == 0xFF
  | .both => decide (cab ≤ 15) || cab == 0xFF

/-- R516 step 3 but for VF: the opcode is in the table, CAB and RING are allowed. -/
def headerOk (p : Packet) : Bool :=
  match opRow p.opc with
  | none => false
  | some r => r.cabOk p.cab && (if r.ringed then decide (p.ring ≤ 127) else p.ring == 0)

/-! ## Payload lengths (R516 step 4; R520) -/

/-- The little-endian value of payload bytes. -/
def payAt (p : List Byte) (o n : Nat) : Nat := natOfBytes ((p.drop o).take n)

/-- The payload of a stage command (R525, R589): items of `unit` bytes, at most `most`; a bad function or a bad head byte
needs only bytes 0 to 3. -/
def stagePayOk (unit most : Nat) (fw : Bool) (p : List Byte) : Bool :=
  let f := payAt p 0 1
  let bad := f == 0 || decide (f > 4) || payAt p 2 2 != 0 || (if fw then decide (payAt p 1 1 > 2) else payAt p 1 1 != 0)
  if p.length < 4 then false
  else if bad then true
  else if f = 1 then p.length == 12
  else if f = 2 then decide (8 + unit ≤ p.length) && decide (p.length ≤ 8 + unit * most) && (p.length - 8) % unit == 0
  else p.length == 4

/-- R516 step 4: the payload's length and counts. -/
def payloadOk (opc : Nat) (p : List Byte) : Bool :=
  let n := p.length
  match opc with
  | 0x01 => n == 10
  | 0x03 => n == 4
  | 0x10 => n == 9
  | 0x11 => decide (5 ≤ n) && decide (n ≤ 1020)
  | 0x18 => stagePayOk 2 506 false p
  | 0x30 => n == 12
  | 0x31 => let w := payAt p 2 2
            decide (4 ≤ n) && w % 4 == 0 && decide (8 ≤ w) && decide (w ≤ 1016) && n == 4 + w
  | 0x32 => n == 4
  | 0x33 => n == 4
  | 0x34 => n == 6
  | 0x35 => n == 5 && decide (1 ≤ payAt p 4 1) && decide (payAt p 4 1 ≤ 64)
  | 0x50 => n == 6 && decide (1 ≤ payAt p 4 2) && decide (payAt p 4 2 ≤ 256)
  | 0x51 => decide (8 ≤ n) && decide (n ≤ 1024) && n % 4 == 0
  | 0x60 => decide (1 ≤ payAt p 0 1) && decide (payAt p 0 1 ≤ 16) && n == 36 + 8 * payAt p 0 1
  | 0x61 => n == 36
  | 0x62 => n == 4
  | 0x63 => n == 60
  | 0x70 => decide (1 ≤ payAt p 0 2) && decide (payAt p 0 2 ≤ 127) && n == 2 + 8 * payAt p 0 2
  | 0x71 => n == 2 && decide (1 ≤ payAt p 1 1) && decide (payAt p 0 1 + payAt p 1 1 ≤ 32)
  | 0x72 => n == 12 && decide (1 ≤ payAt p 2 1) && decide (payAt p 2 1 ≤ 43)
  | 0xE1 => stagePayOk 1 1016 true p
  | 0xE2 => n == 4
  | _ => n == 0

/-! ## Parsing (R504, R505) -/

/-- The packet of received bytes, whose payload runs at most to their end. -/
def parsePacket (port : Port) (bs : List Byte) : Packet :=
  { port := port, opc := payAt bs 1 1, session := payAt bs 2 2, seq := natAt (payAt bs 4 4) 0, cab := payAt bs 8 1,
    ring := payAt bs 9 1, tag := natAt (payAt bs 12 4) 0, unauth := payAt bs 0 1 / 16 % 2 == 1,
    payload := (bs.drop 16).take (payAt bs 10 2) }

/-- R516 step 1: the packet's length, PLEN, and the PLEN of a SESSION_OPEN. -/
def lengthOk (bs : List Byte) : Bool :=
  let plen := payAt bs 10 2
  let unauth := payAt bs 0 1 / 16 % 2 == 1
  decide (plen ≤ 1024) && bs.length == 16 + plen + (if unauth then 0 else 8) && !(payAt bs 1 1 == 1 && plen != 10)

/-- The header byte VF is as R504 gives, but for UNAUTH. -/
def vfOk (bs : List Byte) : Bool := payAt bs 0 1 % 16 == 1 && payAt bs 0 1 / 32 == 0

/-! ## Authentication (R505, R508, R509, R511) -/

/-- The key of a slot that holds one. -/
def slotKey (slot : Nat) (s : Side) : Option (List Byte) :=
  if h : slot < 32 then
    let k := s.prot.slots[slot]
    if k.full then some k.key else none
  else none

/-- The key that a packet's MAC takes, where the packet may have one. -/
def packetKey (p : Packet) (s : Side) : Option (List Byte) :=
  if p.session ≥ 10240 then none
  else if p.opc = 0x01 then slotKey (payAt p.payload 0 1) s
  else
    let x := s.session p.session
    if x.isOpen then x.ks else none

/-- The packet names a context and a key, or may be unauthenticated (R505, R509, R511). -/
def authOk (p : Packet) (s : Side) : Bool :=
  if p.unauth then (p.opc == 0x00 || p.opc == 0x04) && p.session == 0 && p.seq == 0
  else (packetKey p s).isSome

/-- The packet's MAC is right (R508). -/
def macOk (bs : List Byte) (p : Packet) (s : Side) : Bool :=
  if p.unauth then true
  else
    let n := 16 + p.payload.length
    match packetKey p s with
    | none => false
    | some k => mac8 k (bs.take n) == bs.drop n

/-! ## The permission map (18 R573) -/

/-- The principal of the packet's session. -/
def principal (p : Packet) (s : Side) : Nat := (s.session p.session).prin

/-- The permission word of a principal. -/
def permWord (q : Nat) (s : Side) : Word := s.prot.perm[Fin.ofNat 32 q]

/-- R516 step 6. -/
def permitted (p : Packet) (s : Side) : Bool :=
  let w := permWord (principal p s) s
  match p.opc with
  | 0x00 => true
  | 0x01 => true
  | 0x02 => true
  | 0x03 => true
  | 0x04 => true
  | 0x72 =>
    let q := payAt p.payload 0 2
    if q ≥ 10240 then false else if q = p.session then true else bit w 19
  | 0x60 => bit s.prot.plist (principal p s)
  | 0x61 => bit s.prot.plist (principal p s)
  | 0x62 => bit s.prot.plist (principal p s)
  | 0x63 => bit s.prot.plist (principal p s)
  | 0xE1 => bit w 18
  | 0xE2 => bit w 18
  | _ =>
    if p.cab > 15 then bit w 17
    else if [0x10, 0x11, 0x12, 0x18, 0x19].contains p.opc then bit w p.cab && bit w 16
    else bit w p.cab

end Sys2Proof.Machine
end

