-- ==== Sys2Proof/Machine/Rings.lean ====
section
/-!
DEFINITION. The Jetik ring ports (spec/15_jetik_ring_and_hinge.md R470 to R498): frames put on an output, forwarded, turned at a
wrap and removed; hop supervision and wrap healing; ring time; joining and leaving with the hinge's keep-alive. Hop `r` is the
cable with the input of ring `r` and the output of the other ring.
-/
namespace Sys2Proof.Machine

/-! ## Frames on an output (R477 to R479, R483) -/

/-- Changes one ring end. -/
def Side.onRing (r : RingId) (f : RingEnd → RingEnd) (s : Side) : Side := s.setRing r (f (s.ring r))

/-- A frame is put on the output of a ring. -/
def putLine (r : RingId) (f : JFrame) (s : Side) : Side := s.onRing r (fun e => { e with line := e.line ++ [f] })

/-- The frame is the device's own and has come round: SRC is its node and WRAP is 0 (R477). -/
def ownReturned (e : RingEnd) (f : JFrame) : Bool := f.src == e.node && !f.wrap

/-- An own frame is removed; one that was not a broadcast is counted as undelivered. -/
def removeOwn (r : RingId) (f : JFrame) (s : Side) : Side :=
  if f.dst = 0xFF then s else countHealth 0x06 (some r.num) 1 s

/-- The stream towards the output of ring `r`: at a wrapped hop the frame is turned, with WRAP inverted, into the input processing of
the other ring, which removes it or forwards it (R477, R479, R483). Where both hops are wrapped it is turned twice: an own frame has
then come round, another is lost. -/
def emit (r : RingId) (f : JFrame) (s : Side) : Side :=
  let q := r.other
  if !(s.ring q).wrapped then putLine r f s
  else
    let g := { f with wrap := !f.wrap }
    if ownReturned (s.ring q) g then removeOwn q g s
    else if (s.ring r).wrapped then (if ownReturned (s.ring r) f then removeOwn r f s else s)
    else putLine q g s

/-- An arriving frame goes on, when the device is in the ring (R477). -/
def forward (r : RingId) (f : JFrame) (s : Side) : Side := if (s.ring r).inRing then emit r f s else s

/-- A frame with the device's own node as its source restarts the 4 ms of listening (R491 step 1). -/
def hearOwn (r : RingId) (src : Nat) (s : Side) : Side :=
  let e := s.ring r
  if e.phase == .listening && src == e.node then s.setRing r { e with unheard := 0 } else s

/-- The frame arrives at a receiver that listens or is in the ring. -/
def RingEnd.listens (e : RingEnd) : Bool := e.phase != .out

/-- FRAME_FORWARD: a frame that the device takes no part in, or one whose CRC fails or that carries K30.7. It is removed or
forwarded under R477; a bad one leaves with K30.7 and is counted (R478). -/
def frameForward (r : RingId) (f : JFrame) (crcFail : Bool) (s : Side) : Side :=
  let e := s.ring r
  if !e.listens then s
  else
    let s := if f.bad then countHealth 0x02 (some r.num) 1 s
      else if crcFail then countHealth 0x01 (some r.num) 1 s
      else hearOwn r f.src s
    let f := { f with bad := f.bad || crcFail }
    if f.dst = e.node ∨ f.dst = 0xFD ∨ !e.inRing then s
    else if ownReturned e f then removeOwn r f s
    else emit r f s

/-- DISCARDED_FRAME (R474): a frame addressed to the device with an unknown type or a LEN out of range. -/
def discardedFrame (r : RingId) (s : Side) : Side :=
  if s.joined r then countHealth 0x07 (some r.num) 1 s else s

/-- A REPLY or REPORT frame addressed to the device: it is taken and removed; a LEN out of range is counted (R474). -/
def takeFrame (r : RingId) (src lo hi len : Nat) (s : Side) : Side :=
  let s := if (s.ring r).listens then hearOwn r src s else s
  if decide (lo ≤ len) && decide (len ≤ hi) then s else discardedFrame r s

/-! ## HOP frames, faults and wraps (R481 to R484) -/

/-- The HOP frame on the output of ring `r`: RXOK and WRAPPED of its hop. -/
def hopFrame (r : RingId) (s : Side) : JFrame :=
  let h := s.ring r.other
  { dst := 0xFD, src := (s.ring r).node, kind := 0x0C, payload := bytesOf 1 ((!h.inFault).toNat + 2 * h.wrapped.toNat) }

/-- HOP_TIMER: a HOP frame waits for each ring output the device drives. -/
def hopTimer (s : Side) : Side :=
  let one (r : RingId) (s : Side) : Side :=
    if (s.ring r).inRing then s.onRing r (fun e => { e with hopq := e.hopq ++ [hopFrame r s] }) else s
  one .b (one .a s)

/-- Declares a fault on the input of hop `r`. -/
def inputFault (r : RingId) (s : Side) : Side :=
  let e := s.ring r
  if e.inFault || !e.listens then s else countHealth 0x03 (some r.num) 1 (s.setRing r { e with inFault := true, steady := 0 })

/-- HOP from the neighbour of hop `r` (R482, R484): the input is alive; RXOK = 0 with WRAPPED = 1, or a second RXOK = 0 running,
declares a fault on the output of the hop. -/
def hopReceived (r : RingId) (rxok wrapped : Bool) (s : Side) : Side :=
  let e := s.ring r
  if !e.listens then s
  else
    let n := if rxok then 0 else e.notOk + 1
    let bad := !rxok && (wrapped || decide (n ≥ 2))
    let s := s.setRing r { e with
      notOk := n, lastRxOk := rxok, nbrWrapped := wrapped, inFault := false, outFault := !rxok && (e.outFault || bad),
      steady := if rxok && wrapped == e.nbrWrapped then e.steady else 0 }
    if bad && !e.outFault then countHealth 0x04 (some r.num) 1 s else s

/-- WRAP at hop `r` (R483). -/
def wrapHop (r : RingId) (s : Side) : Side :=
  let e := s.ring r
  if (e.inFault || e.outFault) && !e.wrapped && e.inRing then countHealth 0x05 (some r.num) 1 (s.setRing r { e with wrapped := true })
  else s

/-- UNWRAP at hop `r` (R484): the hop has been sound for 100 ms, and a join window is open (log 60). -/
def unwrapHop (r : RingId) (s : Side) : Side :=
  let e := s.ring r
  let window := decide (0 < s.ringA.window) || decide (0 < s.ringB.window)
  if e.wrapped && !e.inFault && !e.outFault && e.lastRxOk && decide (64000000 ≤ e.steady) && window then
    s.setRing r { e with wrapped := false }
  else s

/-! ## Hop delays (R487) -/

/-- The hop delay in use: the mean of the last 8 measurements, in 2^−16 tick. -/
def RingEnd.delay (e : RingEnd) : Nat :=
  if e.delays.isEmpty then 0 else e.delays.foldl (· + ·) 0 / e.delays.length

/-- A stamp of ring time in 2^−16 tick: the stamps resolve 1/8 tick. -/
def Side.stamp (s : Side) : Nat := s.fineTime / 8192 * 8192 % 2 ^ 64

/-- DELAY_MEASURE of the input hop of ring `r`: a DELAY_REQ for the output of the other ring, which must not be wrapped; it is stamped
when it is sent. -/
def delayMeasure (r : RingId) (s : Side) : Side :=
  let q := r.other
  if (s.ring q).inRing && !(s.ring r).wrapped then
    let f : JFrame := { dst := 0xFD, src := (s.ring q).node, kind := 0x09 }
    s.onRing q (fun e => { e with hopq := e.hopq ++ [f] })
  else s

/-- DELAY_REQ at the input of ring `r` from the neighbour: a DELAY_RESP for the output of the other ring, which holds the stamp of the
request's arrival until it is sent. -/
def delayReq (r : RingId) (t1 : Nat) (s : Side) : Side :=
  let q := r.other
  if (s.ring q).inRing && !(s.ring r).wrapped then
    let f : JFrame := { dst := 0xFD, src := (s.ring q).node, kind := 0x0A, payload := bytesOf 8 t1 ++ bytesOf 8 s.stamp }
    s.onRing q (fun e => { e with hopq := e.hopq ++ [f] })
  else s

/-- A hop-local frame as it is sent (R487): DELAY_REQ carries T1, DELAY_RESP carries TURN. -/
def stampFrame (f : JFrame) (s : Side) : JFrame :=
  if f.kind = 0x09 then { f with payload := bytesOf 8 s.stamp }
  else if f.kind = 0x0A then
    { f with payload := f.payload.take 8 ++ bytesOf 8 ((s.stamp + 2 ^ 64 - natOfBytes (f.payload.drop 8)) % 2 ^ 64) }
  else f

/-- A hop-local frame goes to the output of ring `r` itself, a HOP frame also where the hop is wrapped (R483). -/
def sendHop (r : RingId) (f : JFrame) (s : Side) : Side :=
  if f.kind ≠ 0x0C ∧ (s.ring r.other).wrapped then s
  else
    let s' := putLine r (stampFrame f s) s
    if f.kind = 0x09 then s'.onRing r.other (fun e => { e with asked := some s.stamp }) else s'

/-- DELAY_RESP at the input of ring `r`: half of T4 − T1 − TURN is one measurement. -/
def delayResp (r : RingId) (t1 turn : Nat) (s : Side) : Side :=
  let e := s.ring r
  if e.asked == some t1 then
    let d := ((s.stamp + 2 ^ 64 - t1 % 2 ^ 64) % 2 ^ 64 - turn) / 2
    s.setRing r { e with asked := none, delays := (d :: e.delays).take 8 }
  else s

/-! ## SYNC (R485, R486, R490) -/

/-- The SYNC frame that goes on: CORR grows by the hop delay and the residence time (R485). -/
def syncForward (r : RingId) (src : Nat) (wrap : Bool) (mtime corr residence : Nat) (s : Side) : Side :=
  let f : JFrame :=
    { dst := 0xFF, src := src, kind := 0x08, wrap := wrap
      payload := bytesOf 8 mtime ++ bytesOf 8 (corr + (s.ring r).delay + residence) }
  if ownReturned (s.ring r) f then s else forward r f s

/-- The device uses a SYNC frame of ring `r` (R486): those of ring B while ring A has delivered none for 1.5 ms, and none less than
0.9 ms after the last used. -/
def usesSync (r : RingId) (s : Side) : Bool := (r == .a || decide (960000 ≤ s.ringA.syncAge)) && decide (576000 ≤ s.usedAge)

/-- Ring time takes a used SYNC (R486): `value` is the time of its arrival in 2^−16 tick. More than 16 ticks off it steps, else its
rate changes, to a value within ±200 ppm that the spec leaves open (log 34). -/
def syncUse (value : Nat) (s : Side) : Side :=
  let own := s.fineTime
  let off := if own ≤ value then value - own else own - value
  let s := { s with syncOk := true, syncs := s.syncs + 1, usedAge := 0 }
  if off > 16 * 65536 then { s with time := value * 1000000 }
  else { s with rate := (Config.syncRate s.syncs % 401 : Nat) - 200 }

/-- A ring end after a SYNC frame: its join window opens (R488). One that listens counts two SYNC frames 0.9 ms to 1.1 ms apart, one that
is inserted the windows (R491; log 101). -/
def RingEnd.hearSync (e : RingEnd) : RingEnd :=
  let n := match e.phase with
    | .listening =>
      if e.rest ≠ 0 then 0 else if 576000 ≤ e.syncAge ∧ e.syncAge ≤ 704000 ∧ e.heardSync ≠ 0 then 2 else max 1 e.heardSync
    | .inserted => e.heardSync + 1
    | _ => e.heardSync
  { e with heardSync := n, syncAge := 0, window := 15360 }

/-- SYNC on ring `r` (R485, R486, R488). -/
def syncReceived (r : RingId) (src : Nat) (wrap : Bool) (mtime corr residence : Nat) (s : Side) : Side :=
  let e := s.ring r
  if !e.listens then s
  else
    let s := hearOwn r src s
    let s := if usesSync r s && s.joinedAny then syncUse (mtime * 65536 + corr + e.delay) s else s
    syncForward r src wrap mtime corr residence (s.onRing r RingEnd.hearSync)

/-- SYNC_TIMEOUT (R490): 4 ms without a used SYNC while joined. -/
def syncTimeout (s : Side) : Side := if s.joinedAny then countHealth 0x0A none 1 { s with syncOk := false } else s

/-! ## Joining and leaving (R491 to R493, R495, R496) -/

/-- The device starts to listen on a ring it is out of (R475, R491 step 1). -/
def tryListen (r : RingId) (s : Side) : Side :=
  let e := s.ring r
  if s.booted && decide (s.node ≤ 0xF9) && !s.conflict && s.safe.isNone && s.resetAfter.isNone &&
      (e.phase == .out || e.phase == .listening) then
    s.setRing r { e with phase := .listening, node := s.node, heardSync := 0, unheard := 0, leaving := none }
  else s

/-- A write of RNG_NODE (16 R544): a number above 0xF9 is stored as 0xFE; CONFLICT clears. -/
def nodeWrite (v : Word) (s : Side) : Side :=
  let n := fld v 0 8
  let s := { s with node := if n ≤ 0xF9 then n else 0xFE, conflict := false }
  let stop (r : RingId) (s : Side) : Side :=
    if (s.ring r).phase == .listening then s.onRing r (fun e => { e with phase := .out }) else s
  tryListen .b (tryListen .a (stop .b (stop .a s)))

/-- A join window is open, and 2 µs of it have passed (R491, R493). -/
def RingEnd.switches (e : RingEnd) : Bool := decide (0 < e.window) && decide (e.window ≤ 14080)

/-- JOIN_INSERT (R491 step 2): after two SYNC frames and 4 ms without a frame of its own number the keep-alive starts in a join window,
and the device forwards. -/
def joinInsert (r : RingId) (s : Side) : Side :=
  let e := s.ring r
  if e.phase == .listening && decide (2 ≤ e.heardSync) && decide (2560000 ≤ e.unheard) && e.switches then
    s.setRing r { e with phase := .inserted, keepAlive := true, heardSync := 0 }
  else s

/-- The JOIN frame of the device. -/
def joinFrame (r : RingId) (s : Side) : JFrame :=
  { dst := 0xFF, src := (s.ring r).node, kind := 0x10, payload := bytesOf 8 Config.identity.toNat }

/-- JOIN_ANNOUNCE (R491 step 3): after the next join window JOIN waits to be sent. -/
def joinAnnounce (r : RingId) (s : Side) : Side :=
  let e := s.ring r
  if e.phase == .inserted && decide (1 ≤ e.heardSync) && e.window == 0 then
    s.setRing r { e with phase := .announced 1, joinq := e.joinq ++ [joinFrame r s] }
  else s

/-- The LEAVE frame of the device. -/
def leaveFrame (e : RingEnd) (reason : Nat) : JFrame := { dst := 0xFF, src := e.node, kind := 0x11, payload := bytesOf 1 reason }

/-- The device begins to leave a ring with a reason: LEAVE waits to be sent (R479, R493); a ring it is not in is only left alone. -/
def beginLeave (r : RingId) (reason : Nat) (s : Side) : Side :=
  let e := s.ring r
  let s := if reason ≥ 3 then countHealth 0x09 (some r.num) 1 s else s
  if e.inRing then
    s.onRing r (fun e => if e.leaving.isSome then e else { e with leaving := some reason, joinq := e.joinq ++ [leaveFrame e reason] })
  else s.onRing r (fun e => { e with phase := .out, heardSync := 0 })

/-- JOIN_RETRY (R491): twice more, then the device leaves with reason 0x04. -/
def joinRetry (r : RingId) (s : Side) : Side :=
  let e := s.ring r
  match e.phase with
  | .announced n =>
    if e.leaving.isSome then s
    else if n < 3 then s.setRing r { e with phase := .announced (n + 1), joinq := e.joinq ++ [joinFrame r s] }
    else beginLeave r 4 s
  | _ => s

/-- A conflict of node numbers (R492). -/
def nodeConflict (r : RingId) (s : Side) : Side := beginLeave r 3 { s with conflict := true }

/-- JOIN on ring `r` (R491 step 4, R492, R477). -/
def joinReceived (r : RingId) (src : Nat) (wrap : Bool) (identity : BitVec 64) (s : Side) : Side :=
  let e := s.ring r
  if !e.listens then s
  else
    let f : JFrame := { dst := 0xFF, src := src, kind := 0x10, wrap := wrap, payload := bytesOf 8 identity.toNat }
    if src ≠ e.node then forward r f s
    else if identity != Config.identity then
      let s := if wrap then forward r f s else s
      nodeConflict r s
    else if wrap then forward r f (hearOwn r src s)
    else
      match e.phase with
      | .announced _ => countHealth 0x08 (some r.num) 1 (s.setRing r { e with phase := .joined })
      | _ => hearOwn r src s

/-- LEAVE of another node on ring `r`: forwarded (R477). -/
def leaveReceived (r : RingId) (src : Nat) (wrap : Bool) (reason : Nat) (s : Side) : Side :=
  let e := s.ring r
  let f : JFrame := { dst := 0xFF, src := src, kind := 0x11, wrap := wrap, payload := bytesOf 1 reason }
  if !e.listens then s else if ownReturned e f then hearOwn r src s else forward r f (hearOwn r src s)

/-- The keep-alive of ring `r` stops (R493); where the device may, it listens again, after a failed join 100 ms later (R491). -/
def stopKeepAlive (r : RingId) (reason : Nat) (s : Side) : Side :=
  tryListen r (s.onRing r (fun e => { e with
    phase := .out, keepAlive := false, leaving := none, wrapped := false, hopq := [], joinq := [], heardSync := 0,
    rest := if reason = 4 then 64000000 else 0 }))

/-- LEAVE has not been sent yet. -/
def RingEnd.leaveWaits (e : RingEnd) : Bool := e.joinq.any (fun f => f.kind == 0x11)

/-! ## Own frames (R479) -/

/-- A reply frame as it is sent: bytes 8 to 15 of a TIME_QUERY's data are ring time at its SD (16 R520), under a MAC made anew (log 107). -/
def stampReply (f : JFrame) (s : Side) : JFrame :=
  let b := f.payload
  if payAt b 1 1 = 0x04 ∧ payAt b 16 1 = stOK ∧ payAt b 10 2 = 17 then
    let m := b.take 25 ++ bytesOf 8 s.ticks.toNat ++ (b.drop 33).take 1
    let mac := if b.length ≤ 34 then [] else ((s.session (payAt b 2 2)).ks.map (fun k => mac8 k m)).getD []
    { f with payload := m ++ mac }
  else f

/-- OWN_FRAME_TRANSMIT on ring `r`, outside its join window (R488): hop-local frames first, then JOIN and LEAVE, then replies, then
order notices; replies and notices only once joined (R498). -/
def ownTransmit (r : RingId) (s : Side) : Side :=
  let e := s.ring r
  if !e.inRing || decide (0 < e.window) then s
  else
    match e.hopq with
    | f :: t => sendHop r f (s.setRing r { e with hopq := t })
    | [] =>
      match e.joinq with
      | f :: t => emit r f (s.setRing r { e with joinq := t })
      | [] =>
        if e.phase != .joined then s
        else
          match e.replyq with
          | f :: t => emit r (stampReply f s) (s.setRing r { e with replyq := t })
          | [] =>
            match e.noticeq with
            | f :: t => emit r f (s.setRing r { e with noticeq := t })
            | [] => s

/-- LEAVE_RING on ring `r` (R493): LEAVE is sent as the device's next own frame; once it has left, the keep-alive stops in a join window. -/
def leaveRing (r : RingId) (reason : Nat) (s : Side) : Side :=
  let s := if (s.ring r).leaving.isSome then s else beginLeave r reason s
  let e := s.ring r
  if !e.inRing then s
  else if e.leaveWaits then (if e.hopq.isEmpty then ownTransmit r s else s)
  else if e.switches then stopKeepAlive r reason s
  else s

/-- The hinge output of a ring (R495, R496): none, high impedance, in a power-on or RESET_N reset; else whether it carries the
keep-alive, at other times low. -/
def hingeDrive (r : RingId) (s : Side) : Option Bool :=
  if s.reset == some .powerOn || s.reset == some .resetN then none else some (s.ring r).keepAlive

/-- A report may leave on the ring: no join window is open (R488), and nothing of higher rank waits (R38, R479). -/
def RingEnd.quiet (e : RingEnd) : Bool := e.window == 0 && e.hopq.isEmpty && e.joinq.isEmpty && e.replyq.isEmpty && e.noticeq.isEmpty

/-- The ring towards a node for replies' and reports' sake (R480): opposite to the one that last delivered a command from it,
ring A where none has. -/
def ringTo (node : Nat) (s : Side) : RingId :=
  match assocGet node s.nodeRing with
  | none => .a
  | some r => r.other

end Sys2Proof.Machine
end

