-- ==== Sys2Proof/Machine/Reports.lean ====
section
/-!
DEFINITION. Reports leaving the device: REPORT frames under weighted round robin (spec/01 R38; spec/16 R507, R534), REPORT_PULL
(16 R535), order notices (16 R531), heartbeats (spec/01 R30).
-/
namespace Sys2Proof.Machine

/-- The header of a report (R507). -/
def reportHead (auth : Bool) (kind session rseq cab ring blen frame : Nat) : List Byte :=
  bytesOf 1 (if auth then 0x41 else 0x51) ++ bytesOf 1 kind ++ bytesOf 2 session ++ bytesOf 4 rseq ++ bytesOf 1 cab ++
  bytesOf 1 ring ++ bytesOf 2 blen ++ bytesOf 4 frame

/-- A report of a report ring without its MAC. -/
def reportBody (cab ring : Nat) (x : RepRing) (r : Report) : List Byte :=
  let body := r.body.flatMap (fun w => bytesOf 4 w.toNat)
  reportHead (x.session != 0xFFFF) r.kind x.session r.rseq.toNat cab ring body.length r.frame.toNat ++ body

/-- The key of a session that is open. -/
def sessionKey (n : Nat) (s : Side) : Option (List Byte) :=
  let x := s.session n
  if x.isOpen then x.ks else none

/-- A report as it is transmitted; none where its session has no key for its MAC (log 35). -/
def reportBytes (cab ring : Nat) (x : RepRing) (r : Report) (s : Side) : Option (List Byte) :=
  let b := reportBody cab ring x r
  if x.session = 0xFFFF then some b else (sessionKey x.session s).map (fun k => b ++ mac8 k b)

/-! ## Weighted round robin (01 R38) -/

/-- The report of cabinet `k` that would leave next, with the ring it takes: the oldest of its SEND rings in push order, where that
ring is joined and nothing of higher rank waits on it. -/
def reportReady (k : Fin 16) (ch : Chip) : Option (Nat × RingId × Nat × List Byte) :=
  let c := ch.cabs[k]
  match c.sendQ with
  | [] => none
  | r :: _ =>
    match assocGet r c.repRings with
    | none => none
    | some x =>
      match x.reports with
      | [] => none
      | rep :: _ =>
        let q := ringTo x.dest ch.side
        match reportBytes k.val r x rep ch.side with
        | none => none
        | some b => if ch.side.joined q && (ch.side.ring q).quiet then some (r, q, x.dest, b) else none

/-- The report of cabinet `k` leaves and is released (R534). -/
def reportLeave (k : Fin 16) (r : Nat) (q : RingId) (dest : Nat) (b : List Byte) (ch : Chip) : Chip :=
  let c := ch.cabs[k]
  let c := releaseReports r 1 { c with sendQ := c.sendQ.drop 1 }
  let f : JFrame := { dst := dest, src := (ch.side.ring q).node, kind := 3, payload := b }
  (ch.setCab k (icuSync c)).onSide (emit q f)

/-- The place in the round moves to the next cabinet; a new round takes the weights as they stand. -/
def wrrNext (s : Side) : Side :=
  if s.wrrCab ≥ 15 then { s with wrrCab := 0, wrrSent := 0, wrrWeight := s.weight }
  else { s with wrrCab := s.wrrCab + 1, wrrSent := 0 }

/-- REPORT_TRANSMIT: the round visits cabinets in order, each with up to its weight of report frames; at most two rounds are looked
through for one that has a report to send. -/
def reportTransmit : Nat → Chip → Chip
  | 0, ch => ch
  | n + 1, ch =>
    let k := cabOf ch.side.wrrCab
    if ch.side.wrrSent < ch.side.wrrWeight[k] then
      match reportReady k ch with
      | some (r, q, dest, b) =>
        reportLeave k r q dest b (ch.onSide (fun s => { s with wrrSent := s.wrrSent + 1 }))
      | none => reportTransmit n (ch.onSide wrrNext)
    else reportTransmit n (ch.onSide wrrNext)

/-! ## REPORT_PULL (R535) -/

/-- How many reports at the front have RSEQ below `r`, modulo 2^32 within 2^31. -/
def reportsBelow (r : Word) : List Report → Nat
  | [] => 0
  | x :: t => if (r - x.rseq).toNat ≠ 0 ∧ (r - x.rseq).toNat < 2 ^ 31 then reportsBelow r t + 1 else 0

/-- As many whole reports as fit. -/
def takeWhole : Nat → List (List Byte) → List Byte
  | _, [] => []
  | room, b :: t => if b.length ≤ room then b ++ takeWhole (room - b.length) t else []

/-- Removes the first `n` occurrences of a ring from the send queue. -/
def dropSends (r : Nat) : Nat → List Nat → List Nat
  | _, [] => []
  | 0, q => q
  | n + 1, x :: t => if x = r then dropSends r n t else x :: dropSends r (n + 1) t

/-- REPORT_PULL of ring `ring`: releases what lies below R, then gives the reports still held. A ring that is not configured holds
none. -/
def reportPull (cab ring : Nat) (r : Word) (count : Nat) (c : Cabinet) : Cabinet × List Byte :=
  match assocGet ring c.repRings with
  | none => (c, [])
  | some x =>
    let n := reportsBelow r x.reports
    let c := { releaseReports ring n c with sendQ := dropSends ring n c.sendQ }
    (c, takeWhole 1055 (((x.reports.drop n).take count).map (reportBody cab ring x)))

/-! ## Order notices (R531) -/

/-- An order notice for an entry that found the cabinet in a state: to the node that last delivered a command of the session, not for
the bench port, and not where the session has no key. It is no report of a ring, so its RSEQ is open (log 35). -/
def sendNotice (seq : Word) (e : Entry) (cabState : Nat) (s : Side) : Side :=
  let x := s.session e.session
  match x.lastPort, sessionKey e.session s with
  | some (.ring _ node), some k =>
    let body := bytesOf 4 seq.toNat ++ bytesOf 4 e.tag.toNat ++ bytesOf 1 stMismatch ++ bytesOf 1 cabState ++ bytesOf 2 0
    let frame := (s.copies[cabOf e.cab]).framecnt.toNat
    let b := reportHead true 0xF1 e.session (Config.noticeSeq s.notices).toNat e.cab e.ring body.length frame ++ body
    let q := ringTo node s
    let f : JFrame := { dst := node, src := (s.ring q).node, kind := 3, payload := b ++ mac8 k b }
    { s.setRing q ((s.ring q).addNotice f) with notices := s.notices + 1 }
  | _, _ => s

/-! ## Heartbeats (01 R30) -/

/-- The content of a heartbeat. -/
def heartbeatOf (c : Cabinet) : Heartbeat :=
  { state := cabStateWord c, err := c.err, framecnt := c.frame.count, framestat := c.frame.stat,
    tripsrc := tripsrcWord c, banksel := bankselWord c.bank,
    ordOpen := c.ord.openTags.length, ordDelivered := c.ord.delivered.length + c.ord.avail.length }

/-- A heartbeat is on its way to the sideboard. -/
def sendHeartbeat (k : Fin 16) (h : Heartbeat) (s : Side) : Side := { s with sent := s.sent.set k (s.sent[k] ++ [h]) }

/-- The state in the sideboard's copy. -/
def Side.copyState (s : Side) (k : Fin 16) : Nat := fld (s.copies[k]).state 0 3

end Sys2Proof.Machine
end

