-- ==== Sys2Proof/Machine/Orders.lean ====
section
/-!
DEFINITION. Orders in the sideboard (spec/16_command_packets.md R526 to R532; spec/17_ledger_and_delivery.md R553 to R555, R567,
R568): acceptance, dispatch, holding, cancelling and resuming, confirmations and refusals from the ports, RING_CONFIG.
-/
namespace Sys2Proof.Machine

/-- How a command of kind J or S ends (R517): with a status and reply data, as an order accepted or accepted behind a held one, with a
reset to follow its reply (R522), or later, when a cabinet answers. -/
inductive Verdict where
  | done (status : Nat) (data : List Byte)
  | order (held : Bool)
  | restart (fw : Bool)
  | waits
  deriving DecidableEq, Repr

/-- An order ring of a cabinet is configured, with this depth (R527). -/
def ringDepth (cab ring : Nat) (ch : Chip) : Option Nat := assocGet ring (ch.cabs[cabOf cab]).ordRings

/-- The opcode names an order ring (R527). -/
def namesOrderRing (opc : Nat) : Bool := [0x30, 0x31, 0x32, 0x33].contains opc

/-- Bit `n` of a state mask. -/
def maskHas (mask n : Nat) : Bool := mask / 2 ^ n % 2 == 1

/-- A state mask is one that R526 allows: bits 2, 3 and 4 only, at least one of them. -/
def maskOk (mask : Nat) : Bool := decide (mask ≠ 0) && mask % 4 == 0 && decide (mask < 32)

/-- Some entry of the ring is HELD or INDETERMINATE. -/
def ringBlocked (cab ring : Nat) (s : Side) : Bool := (ringOrders cab ring s).any (fun x => x.2.state.blocks)

/-- The ring has no room for one more order (R528). -/
def ringFull (cab ring depth : Nat) (s : Side) : Bool :=
  decide (((ringOrders cab ring s).filter (fun x => x.2.state.occupies)).length ≥ depth)

/-- ORDER_PUT and ORDER_PUT_LONG at R516 step 8 (R526, R530). -/
def orderPut (p : Packet) (s : Side) : Verdict :=
  let k := cabOf p.cab
  let mask := (orderOf p).2
  if !maskOk mask then .done stDenied []
  else if !maskHas mask (s.copyState k) || s.lost[k] then .done stMismatch []
  else .order (ringBlocked p.cab p.ring s.view)

/-- The entry that ORDER_CANCEL and ORDER_RESUME name (R568). -/
def namedEntry (p : Packet) (s : Side) : Option (Nat × Entry) :=
  match entryOfAny p.session (natAt (payAt p.payload 0 4) 0) s with
  | none => none
  | some x => if !x.2.chip && x.2.cab == p.cab && x.2.ring == p.ring then some x else none

/-- An entry's change by a command, with the reply of R568. -/
def changeNamed (p : Packet) (allowed : LState → Bool) (st : LState) (s : Side) : Side × Verdict :=
  match namedEntry p s.view with
  | none => (s, .done stMismatch [0])
  | some (i, e) =>
    if allowed e.state then (enqueue [putEntry i { e with state := st, hrsn := 0 }] [] none s, .done stOK [BitVec.ofNat 8 st.code])
    else (s, .done stMismatch [BitVec.ofNat 8 e.state.code])

/-- ORDER_CANCEL (R568). -/
def orderCancel (p : Packet) (s : Side) : Side × Verdict :=
  changeNamed p (fun x => x == .accepted || x.blocks) .cancelled s

/-- ORDER_RESUME (R568): the entry keeps its place. -/
def orderResume (p : Packet) (s : Side) : Side × Verdict := changeNamed p LState.blocks .accepted s

/-- The tag of an order (R540). -/
def orderTag (i gen : Nat) : Word := BitVec.ofNat 32 (i + gen * 2 ^ 19)

/-- The order as it goes to the port. -/
def portOrder (i : Nat) (e : Entry) : PortOrder :=
  { ring := e.ring, tag := orderTag i e.gen, mask := e.mask, words :=
      (List.range (e.order.length / 4)).map (fun j => natAt (payAt e.order (4 * j) 4) 0) }

/-- ORDER_DISPATCH of a cabinet's ring (R529, R530): its oldest ACCEPTED entry, with no HELD or INDETERMINATE one ahead. Where the
copy lies outside its mask it is held with a notice; otherwise it is dispatched once no order of the ring is unconfirmed. -/
def orderDispatch (cab : Fin 16) (ring : Nat) (s : Side) : Side :=
  if !s.serving then s
  else
    let live := (ringOrders cab.val ring s.view).filter (fun x => x.2.state.occupies)
    match live.find? (fun x => x.2.state != .dispatched) with
    | none => s
    | some (i, e) =>
      if e.state != .accepted then s
      else if !maskHas e.mask (s.copyState cab) then
        enqueue [putEntry i { e with state := .held, hrsn := 3 }] [.notice i (s.copyState cab)] none s
      else if live.any (fun x => x.2.state == .dispatched) then s
      else enqueue [putEntry i { e with state := .dispatched }] [.deliver cab (portOrder i e)] none s

/-- The dispatched entry of a tag, in the view. -/
def dispatchedOf (tag : Word) (s : Side) : Option (Nat × Entry) :=
  let i := tag.toNat % 2 ^ 19
  match assocGet i s.view.ledger.entries with
  | none => none
  | some e => if e.gen = tag.toNat / 2 ^ 19 ∧ e.state = .dispatched then some (i, e) else none

/-- A confirmation reaches the sideboard (R538): once the commit of a chip safe state has started, it is lost (17 R563). -/
def orderConfirmed (cab : Nat) (tag : Word) (s : Side) : Side :=
  if s.safe.isSome || s.reset.isSome then s
  else
    match dispatchedOf tag s with
    | none => s
    | some (i, e) => enqueue [putEntry i { e with state := .executed }] [] (some cab) s

/-- The port refused an order (R529, R530). -/
def orderRefused (tag : Word) (cabState : Nat) (s : Side) : Side :=
  if s.safe.isSome || s.reset.isSome then s
  else
    match dispatchedOf tag s with
    | none => s
    | some (i, e) => enqueue [putEntry i { e with state := .held, hrsn := 2 }] [.notice i cabState] none s

/-! ## RING_CONFIG (R527) -/

/-- The values of RING_CONFIG's payload are among those R527 gives. -/
def ringConfigOk (p : List Byte) : Bool :=
  let kind := payAt p 0 1
  let depth := payAt p 1 1
  let ses := payAt p 4 2
  decide (15 ≤ depth) &&
  (if kind = 1 then payAt p 2 4 == 0
   else kind == 2 && decide (payAt p 2 1 ≤ 1) && decide (payAt p 3 1 ≤ 0xF9) && (decide (ses < 10240) || ses == 0xFFFF))

/-- RING_CONFIG. -/
def ringConfig (p : Packet) (ch : Chip) : Chip × Verdict :=
  let k := cabOf p.cab
  let c := ch.cabs[k]
  let w := p.payload
  if !ringConfigOk w then (ch, .done stDenied [])
  else if payAt w 0 1 = 1 then
    if !(ringOrders p.cab p.ring ch.side.view).isEmpty then (ch, .done stMismatch [])
    else (ch.setCab k { c with ordRings := assocPut p.ring (payAt w 1 1 + 1) c.ordRings }, .done stOK [])
  else if ((assocGet p.ring c.repRings).map (fun x => !x.reports.isEmpty)).getD false then (ch, .done stMismatch [])
  else
    let x : RepRing := { depth := payAt w 1 1 + 1, hold := payAt w 2 1 == 1, dest := payAt w 3 1, session := payAt w 4 2 }
    (ch.setCab k { c with repRings := assocPut p.ring x c.repRings }, .done stOK [])

end Sys2Proof.Machine
end

