-- ==== Sys2Proof/Machine/ImageStore.lean ====
section
/-!
DEFINITION. The image store (spec/18_protection_and_updates.md R588 to R591): its bytes, FW_STAGE, FW_COMMIT and the choice of the
boot slot; IMGACC of the test access port (spec/20_electrical_and_package.md R644). Store slots 0 and 1 hold firmware, 2 and 3 the
cabinet images 1 and 2.
-/
namespace Sys2Proof.Machine

/-- The size of a slot. -/
abbrev slotSize : Nat := 0x100000

/-- A byte of the store; one that nothing has written is open (log 33). -/
def storeByte (a : Nat) (st : Store) : Byte := (assocGet a st.bytes).getD (Config.imageByte a)

/-- Writes bytes from an address on. -/
def storeWrite (a : Nat) : List Byte → Store → Store
  | [], st => st
  | b :: t, st => storeWrite (a + 1) t { st with bytes := assocPut a b st.bytes }

/-- The first `n` bytes of a slot. -/
def slotBytes (slot n : Nat) (st : Store) : List Byte := (List.range n).map (fun i => storeByte (slot * slotSize + i) st)

/-- The written bytes of a slot, by address. -/
def slotCells (slot : Nat) (st : Store) : List (Nat × Byte) := st.bytes.filter (fun x => x.1 / slotSize == slot)

/-- Both signatures of a firmware slot check (R590). -/
def slotSigned (slot : Nat) (st : Store) : Bool := Config.firmwareSigned slot (slotCells slot st)

/-- The store slot that a target of FW_STAGE names (R588, R589): 0 is the firmware slot that does not run. -/
def stageSlot (target : Nat) (st : Store) : Nat := if target = 0 then 1 - st.active else target + 1

/-- Whether a slot is verified, with the length of its image. -/
def Store.verifiedLen (st : Store) (slot : Nat) : Option Nat := st.verified[Fin.ofNat 4 slot]

/-- Marks a slot. -/
def Store.mark (st : Store) (slot : Nat) (v : Option Nat) : Store := { st with verified := st.verified.set (Fin.ofNat 4 slot) v }

/-- A CAB_LOAD_BEGIN on some cabinet is reading the cabinet slot (R589). -/
def slotRead (slot : Nat) (ch : Chip) : Bool :=
  decide (slot ≥ 2) && (List.finRange 16).any (fun k => ((ch.cabs[k].load).map (fun l => l.source + 1 == slot)).getD false)

/-- The image of a cabinet slot that a load may take (16 R523): verified, and not being written. -/
def loadSource (source : Nat) (st : Store) : Option (List Byte) :=
  if source = 0 then none
  else
    let slot := source + 1
    if (st.stage.map (fun g => g.slot == slot)).getD false then none
    else (st.verifiedLen slot).map (fun n => slotBytes slot n st)

/-- The first check that fails at Close (R589): length, CRC, readback, signature; the store reads back what was written. -/
def closeReason (g : FwStage) (st : Store) : Nat :=
  if g.bytes.length ≠ g.length then 4
  else if crc32 g.bytes ≠ g.crc then 1
  else if slotBytes g.slot g.length st ≠ g.bytes then 2
  else if g.slot < 2 ∧ !slotSigned g.slot st then 3
  else 0

/-- FW_STAGE at step 8 of R516 (R589). -/
def fwStage (p : List Byte) (ch : Chip) : Chip × Verdict :=
  let st := ch.side.store
  let f := payAt p 0 1
  let keep (st : Store) : Chip := ch.onSide (fun s => { s with store := st })
  if f = 0 ∨ f > 4 ∨ payAt p 1 1 > 2 ∨ payAt p 2 2 ≠ 0 then (ch, .done stDenied [])
  else if f = 1 then
    let n := payAt p 4 4
    let slot := stageSlot (payAt p 1 1) st
    if n = 0 ∨ n > slotSize then (ch, .done stDenied [])
    else if st.stage.isSome ∨ slotRead slot ch then (ch, .done stMismatch [])
    else (keep { st.mark slot none with stage := some { slot := slot, length := n, crc := payAt p 8 4 } }, .done stOK [])
  else
    match st.stage with
    | none => (ch, .done stMismatch [])
    | some g =>
      if stageSlot (payAt p 1 1) st ≠ g.slot then (ch, .done stMismatch [])
      else if f = 2 then
        let bs := p.drop 8
        if payAt p 4 4 ≠ g.bytes.length then (ch, .done stMismatch (bytesOf 4 g.bytes.length))
        else
          let fit := bs.take (slotSize - g.bytes.length)
          let st := storeWrite (g.slot * slotSize + g.bytes.length) fit st
          let g := { g with bytes := g.bytes ++ bs }
          (keep { st with stage := some g }, .done stOK (bytesOf 4 g.bytes.length))
      else if f = 3 then
        let r := closeReason g st
        if r = 0 then (keep { st.mark g.slot (some g.length) with stage := none }, .done stOK [0])
        else (keep { st with stage := none }, .done stDenied [BitVec.ofNat 8 r])
      else (keep { st with stage := none }, .done stOK [])

/-- FW_COMMIT (R591): the verified other slot becomes the boot slot and the image starts after the reply (16 R522). -/
def fwCommit (p : List Byte) (ch : Chip) : Chip × Verdict :=
  let st := ch.side.store
  let slot := 1 - st.active
  if (st.verifiedLen slot).isNone then (ch, .done stMismatch [])
  else if payAt p 0 4 ≠ Config.firmwareVersion slot (slotCells slot st) then (ch, .done stDenied [])
  else (ch.onSide (fun s => { s with store := { st with boot := slot } }), .restart true)

/-- The boot ROM's choice (R590, R591): the boot slot where it verifies, else the other; none where neither does (19 R611). -/
def bootChoice (st : Store) : Option (Nat × Bool) :=
  if slotSigned st.boot st then some (st.boot, false)
  else if slotSigned (1 - st.boot) st then some (1 - st.boot, true)
  else none

/-- IMGACC at Update-DR (20 R644): OP 1 writes, 2 reads; refused while UP is 1. -/
def imgacc (op addr : Nat) (data : Word) (s : Side) : Side :=
  if op ≠ 1 ∧ op ≠ 2 then s
  else if s.booted then { s with tap := { s.tap with denied := true, done := false } }
  else
    let a := addr % 2 ^ 20 * 4
    if op = 1 then
      { s with store := storeWrite a (bytesOf 4 data.toNat) s.store, tap := { s.tap with done := true, denied := false } }
    else
      let w := natOfBytes ((List.range 4).map (fun i => storeByte (a + i) s.store))
      { s with tap := { s.tap with data := natAt w 0, done := true, denied := false } }

end Sys2Proof.Machine
end

