-- ==== Sys2Proof/Machine/Protect.lean ====
section
/-!
DEFINITION. Two-party protection (spec/18_protection_and_updates.md R575 to R587): proposals, their checks, confirmation by a
principal or by KEY_N, abort and expiry, key installation.
-/
namespace Sys2Proof.Machine

/-! ## Proposals (R575 to R577, R586) -/

/-- The item of a PROTECT_PROPOSE at position `j`, with its reserved byte. -/
def itemAt (p : List Byte) (j : Nat) : Item × Nat :=
  let o := 36 + 8 * j
  (⟨payAt p o 1, payAt p (o + 1) 1, payAt p (o + 2) 1, natAt (payAt p (o + 4) 4) 0⟩, payAt p (o + 3) 1)

/-- The bits of a setting that are not reserved. -/
def itemMask (code : Nat) : Word :=
  match code with
  | 1 => (cnvCard 0x100).p2
  | 2 => 0xF1FFFFFF
  | 3 => 0x33FF
  | 4 => 1
  | 5 => 0xFFFFF
  | 6 => 0xFFFFFFFF
  | 7 => 0x3F01
  | _ => 0

/-- The item names a setting of R575, with CAB and IDX in range and reserved bits at 0 (R577). -/
def itemOk (x : Item) : Bool :=
  (x.value &&& ~~~ (itemMask x.code)) == 0 && decide (1 ≤ x.code) && decide (x.code ≤ 7) &&
  (if x.code ≤ 4 then decide (x.cab ≤ 15) else x.cab == 0xFF) &&
  (if x.code = 1 then decide (x.idx ≤ 7) else if x.code = 5 then decide (x.idx ≤ 31) else x.idx == 0)

/-- The number of open proposals allows one more (R577). -/
def proposalRoom (keyOk : Bool) (s : Side) : Bool :=
  decide (s.prot.proposals.length < 8) && !(keyOk && s.prot.proposals.any (·.keyOk))

/-- A proposal is recorded (R577, R578). -/
def record (p : Packet) (keyOk : Bool) (digest : List Byte) (ch : Change) (s : Side) : Side × Verdict :=
  let t := s.prot
  let q : Proposal :=
    { number := t.next, prin := principal p s, keyOk := keyOk, digest := digest, change := ch, win := fld t.pcfg 8 6 }
  ({ s with prot := { t with proposals := t.proposals ++ [q], next := t.next + 1 } }, .done stTwoParty (bytesOf 4 t.next))

/-- PROTECT_PROPOSE (R576, R577). -/
def propose (p : Packet) (s : Side) : Side × Verdict :=
  let w := p.payload
  let items := (List.range (payAt w 0 1)).map (itemAt w)
  let keyOk := payAt w 1 1 == 1
  let good := decide (payAt w 1 1 ≤ 1) && payAt w 2 2 == 0 && sha256 (w.drop 36) == (w.drop 4).take 32 &&
    items.all (fun x => itemOk x.1 && x.2 == 0)
  if good && proposalRoom keyOk s then record p keyOk ((w.drop 4).take 32) (.items (items.map (·.1))) s
  else (s, .done stDenied [])

/-- KEY_INSTALL (R586). -/
def keyInstall (p : Packet) (s : Side) : Side × Verdict :=
  let w := p.payload
  let erase := payAt w 2 1 % 2 == 1
  let keyOk := payAt w 2 1 / 2 % 2 == 1
  let wrapped := w.drop 36
  let good := decide (payAt w 0 1 ≤ 31) && decide (payAt w 1 1 ≤ 31) && decide (payAt w 2 1 ≤ 3) && payAt w 3 1 == 0 &&
    sha256 wrapped == (w.drop 4).take 32 && (!erase || wrapped.all (· == 0))
  let wrapKey := (slotKey (s.session p.session).slot s).getD []
  if good && proposalRoom keyOk s then
    record p keyOk ((w.drop 4).take 32) (.key (payAt w 0 1) (payAt w 1 1) erase wrapped wrapKey) s
  else (s, .done stDenied [])

/-! ## Closing (R579, R582, R584) -/

/-- A proposal closes with an outcome: 1 committed by a principal, 2 by KEY_N, 3 expired, 4 aborted, 5 abandoned. -/
def closeProposal (n out : Nat) (s : Side) : Side :=
  let t := s.prot
  { s with prot := { t with
      proposals := t.proposals.filter (fun q => q.number != n), prop := n, out := out
      expired := if out = 3 then t.expired ++ [n] else t.expired } }

/-- The open proposal of a number. -/
def openProposal (n : Nat) (s : Side) : Option Proposal := s.prot.proposals.find? (fun q => q.number == n)

/-- PROTECT_ABORT (R582). -/
def protectAbort (p : Packet) (s : Side) : Side × Verdict :=
  let n := payAt p.payload 0 4
  if (openProposal n s).isSome then (closeProposal n 4 s, .done stOK []) else (s, .done stMismatch [])

/-- CONFIRMATION_WINDOW_EXPIRY (R578, R579). -/
def windowExpiry (n : Nat) (s : Side) : Side := if (openProposal n s).isSome then closeProposal n 3 s else s

/-- A CAB_RESET abandons every open proposal with an item for the cabinet (R582). -/
def abandonFor (k : Nat) (s : Side) : Side :=
  (s.prot.proposals.filter (fun q =>
    match q.change with
    | .items xs => xs.any (fun x => decide (x.code ≤ 4) && x.cab == k)
    | .key _ _ _ _ _ => false)).foldl (fun s q => closeProposal q.number 5 s) s

/-! ## The checks at confirmation (R580) -/

/-- The safe-state codes and the interlock allow a PWM_SAFE (09 R333). -/
def safeWordOk (w : Word) : Bool :=
  (List.range 8).all (fun i => fld w (2 * i) 2 != 3) &&
  (List.range 4).all (fun q => bit w (28 + q) || !(fld w (4 * q) 2 == 1 && fld w (4 * q + 2) 2 == 1))

/-- One item's own check. -/
def itemCheck (x : Item) (ch : Chip) : Bool :=
  match x.code with
  | 2 => safeWordOk x.value
  | 3 => let d := fld x.value 0 10
         decide (16 ≤ d) && decide (d ≤ 1000) && budgetOk d ch.cabs[cabOf x.cab]
  | 7 => decide (1 ≤ fld x.value 8 6) && decide (fld x.value 8 6 ≤ 60)
  | _ => true

/-- What the sideboard items and a key make of the protection set-up (R581 step 1, R587). -/
def protAfter (c : Change) (t : Prot) : Prot :=
  match c with
  | .items xs => xs.foldl (fun t x =>
      match x.code with
      | 5 => { t with perm := t.perm.set (Fin.ofNat 32 x.idx) x.value }
      | 6 => { t with plist := x.value }
      | 7 => { t with pcfg := x.value }
      | _ => t) t
  | .key slot prin erase wrapped wrapKey =>
      let k : KeySlot := if erase then {} else { key := (keyUnwrap wrapKey wrapped).getD [], prin := prin, full := true }
      { t with slots := t.slots.set (Fin.ofNat 32 slot) k }

/-- SBD_PLIST holds two principals with a key slot, or one where KEY_N may confirm (R580). -/
def plistOk (t : Prot) : Bool :=
  let n := ((List.range 32).filter (fun q => bit t.plist q && t.slots.toList.any (fun x => x.full && x.prin == q))).length
  decide (2 ≤ n) || (bit t.pcfg 0 && decide (1 ≤ n))

/-- The checks of R580 of a whole proposal; a wrapping must keep its integrity (R586). -/
def changeOk (c : Change) (ch : Chip) : Bool :=
  (match c with
    | .items xs => xs.all (fun x => itemCheck x ch)
    | .key _ _ erase wrapped wrapKey => erase || (keyUnwrap wrapKey wrapped).isSome) &&
  plistOk (protAfter c ch.side.prot)

/-! ## Committing (R581, R587) -/

/-- The register writes that a cabinet's items make, in the addresses of `protWrite`. -/
def itemWrites (k : Nat) (xs : List Item) : List (Nat × Word) :=
  (xs.filter (fun x => decide (x.code ≤ 4) && x.cab == k)).map (fun x =>
    ((match x.code with
      | 1 => 0x41100 + 16 * x.idx
      | 2 => 0x42100
      | 3 => 0x40014
      | _ => 0x50007), x.value))

/-- The items of a change; none for a key. -/
def Change.list : Change → List Item
  | .items xs => xs
  | .key _ _ _ _ _ => []

/-- Sessions bound to a slot whose key changes lose Ks (R587). -/
def loseKeys (c : Change) (s : Side) : Side :=
  match c with
  | .items _ => s
  | .key slot _ _ _ _ =>
    { s with sessions := s.sessions.map (fun x => (x.1, if x.2.isOpen && x.2.slot == slot then { x.2 with ks := none } else x.2)) }

/-- The sideboard's part of a commit: step 1 of R581. -/
def commitSide (q : Proposal) (out : Nat) (s : Side) : Side :=
  let s := loseKeys q.change { s with prot := protAfter q.change s.prot }
  closeProposal q.number out s

/-- The cabinets that a change touches. -/
def changeCabs (c : Change) : List Nat := (List.range 16).filter (fun k => !(itemWrites k c.list).isEmpty)

/-- KEY_N_FALL (R585): the open proposals recorded before it may be confirmed by the key. -/
def keyFall (s : Side) : Side :=
  { s with keyN := false, prot := { s.prot with proposals := s.prot.proposals.map (fun q => { q with fallen := true }) } }

/-- The proposal that KEY_N confirms (R585). -/
def keyProposal (s : Side) : Option Proposal :=
  if bit s.prot.pcfg 0 && !s.keyN then s.prot.proposals.find? (fun q => q.keyOk && q.fallen) else none

end Sys2Proof.Machine
end

