-- ==== Sys2Proof/Machine/SideRegs.lean ====
section
/-!
DEFINITION. The registers of the sideboard space (spec/16_command_packets.md R544: SBD_ from 0x0000, RNG_ from 0x1000, LDG_ from
0x2000; the cards of spec/16, spec/17, spec/18 and spec/19) and HEALTH_READ (spec/19 R622).
-/
namespace Sys2Proof.Machine

/-- SBD_RSTSRC.SRC of a reset (19 R625). -/
def ResetSrc.code : ResetSrc → Nat
  | .powerOn => 0 | .resetN => 1 | .watchdog => 2 | .chipReset => 3 | .firmware => 5

/-- SBD_RSTSRC.SAFE with SUP. -/
def safeWord : Option SafeCause → Word
  | none => 0
  | some .temperature => natAt 1 4
  | some (.supply m) => natAt 2 4 ||| natAt (m % 8) 8
  | some .pwrfail => natAt 3 4
  | some .ledger => natAt 4 4
  | some .watchdog => natAt 5 4
  | some .stewards => natAt 6 4

/-- A word whose nibble `k` is given. -/
def nibbles (f : Fin 8 → Nat) : Word := (List.finRange 8).foldl (fun w k => w ||| natAt (f k % 16) (4 * k.val)) 0

/-- The half of the report weights: 0 for cabinets 0 to 7. -/
def weightWord (hi : Nat) (s : Side) : Word := nibbles (fun k => s.weight[Fin.ofNat 16 (8 * hi + k.val)])

/-- A write of a half of the report weights (01 R38). -/
def weightWrite (hi : Nat) (v : Word) (s : Side) : Side :=
  { s with weight := Vector.ofFn (fun k => if k.val / 8 = hi then fld v (4 * (k.val % 8)) 4 else s.weight[k]) }

/-- SBD_STAT. -/
def sbdStat (s : Side) : Word :=
  boolAt s.booted 0 ||| boolAt s.safe.isSome 1 |||
  (List.finRange 4).foldl (fun (w : Word) i => w ||| boolAt s.icu.cores[i].running (2 + i.val)) 0

/-- RNG_STAT: a wrap at a ring's input hop. -/
def rngStat (s : Side) : Word :=
  boolAt (s.joined .a) 0 ||| boolAt (s.joined .b) 1 ||| boolAt s.ringA.wrapped 2 ||| boolAt s.ringB.wrapped 3 |||
  boolAt s.conflict 4 ||| boolAt s.syncOk 5

/-- SBD_IOSTAT. -/
def ioStat (ch : Chip) : Word := (List.finRange 16).foldl (fun w k => w ||| boolAt ch.cabs[k].ioOk k.val) (bitW 16)

/-- LDG_STAT: only the reserve is free (17 R559, R571). -/
def ldgStat (l : Ledger) : Word := boolAt l.scan 0 ||| boolAt (decide (l.freeCount ≤ ledgerReserve)) 1

/-- The value of a sideboard register; an offset without a card reads 0. -/
def sideGet (a : Nat) (ch : Chip) : Word :=
  let s := ch.side
  match regIdx a 0x100 4 32 with
  | some q => s.prot.perm[q]
  | none =>
  match regIdx a 0x200 4 32 with
  | some q => natAt s.prot.slots[q].prin 0 ||| boolAt s.prot.slots[q].full 8
  | none =>
  match regIdx a 0x400 4 32 with
  | some n => s.health.sel[n]
  | none =>
    match a with
    | 0x000 => Config.identity.setWidth 32
    | 0x004 => (Config.identity >>> 32).setWidth 32
    | 0x00C => sbdStat s
    | 0x010 => boolAt (s.store.active == 1) 0 ||| boolAt s.store.fallback 1
    | 0x020 => natAt s.rstSrc.code 0 ||| safeWord s.rstSafe
    | 0x024 => natAt s.temp.toNat 0 ||| boolAt s.tempWarn 16
    | 0x028 => ioStat ch
    | 0x040 => s.prot.plist
    | 0x044 => s.prot.pcfg
    | 0x048 => natAt s.prot.prop 0
    | 0x04C => natAt s.prot.out 0 ||| natAt s.prot.proposals.length 8
    | 0x1000 => natAt s.node 0
    | 0x1004 => rngStat s
    | 0x1010 => weightWord 0 s
    | 0x1014 => weightWord 1 s
    | 0x2000 => ldgStat s.ledger
    | 0x2004 => natAt s.ledger.freeCount 0
    | 0x2008 => natAt (s.ledger.headsIn .held) 0
    | 0x200C => natAt (s.ledger.headsIn .indeterminate) 0
    | 0x2010 => natAt s.ledger.quota 0
    | 0x2014 => natAt s.ledger.dmg 0
    | 0x2018 => natAt s.ledger.dmgIdx 0
    | 0x201C => natAt s.ledger.cause 0 ||| boolAt s.ledger.clean 3
    | _ => 0

/-- The two-party fields of a sideboard register. -/
def sideP2 (a : Nat) : Word :=
  if (regIdx a 0x100 4 32).isSome then 0xFFFFF else if a = 0x040 then 0xFFFFFFFF else if a = 0x044 then 0x3F01 else 0

/-- A write of `w` would change a two-party field (00 R12). -/
def sideTouchesP2 (a : Nat) (w : Word) (ch : Chip) : Bool := ((sideGet a ch ^^^ w) &&& sideP2 a) != 0

/-- A write of a sideboard register; fields that are RO ignore it. -/
def sideSet (a : Nat) (w : Word) (s : Side) : Side :=
  match regIdx a 0x400 4 32 with
  | some n => hselWrite n w s
  | none =>
    match a with
    | 0x024 => { s with tempWarn := s.tempWarn && !bit w 16 }
    | 0x1000 => nodeWrite w s
    | 0x1010 => weightWrite 0 w s
    | 0x1014 => weightWrite 1 w s
    | 0x2010 => { s with ledger := { s.ledger with quota := clampN 64 0x80000 (fld w 0 20) } }
    | 0x2014 => { s with ledger := { s.ledger with dmg := fld w 0 16 } }
    | _ => s

/-- Words written in address order. -/
def sideSetAll : Nat → List Word → Side → Side
  | _, [], s => s
  | a, w :: ws, s => sideSetAll (a + 4) ws (sideSet a w s)

/-- The words of a payload. -/
def wordsOf (n : Nat) (p : List Byte) : List Word := (List.range n).map (fun i => natAt (payAt p (4 * i) 4) 0)

/-- The address range of `n` words lies in the space reached and is aligned (16 R544). -/
def regRangeOk (chip : Bool) (a n : Nat) : Bool :=
  a % 4 == 0 && (if chip then decide (a + 4 * n ≤ 0x3000) else decide (0x40000 ≤ a) && decide (a + 4 * n ≤ 0x4B000))

/-- REG_READ: the status and the words (16 R544). -/
def maintReadReply (p : Packet) (ch : Chip) : Nat × List Byte :=
  let a := payAt p.payload 0 4
  let n := payAt p.payload 4 2
  if p.cab > 15 then
    if !regRangeOk true a n then (stDenied, [])
    else (stOK, (List.range n).flatMap (fun i => bytesOf 4 (sideGet (a + 4 * i) ch).toNat))
  else
    let c := ch.cabs[cabOf p.cab]
    if c.mode == .parked then (stMismatch, [])
    else if !regRangeOk false a n then (stDenied, [])
    else (stOK, maintRead a n c)

/-- REG_WRITE of the sideboard space (16 R544; 00 R12): one that would change a two-party field changes nothing. -/
def sideWrite (p : Packet) (ch : Chip) : Chip × Verdict :=
  let a := payAt p.payload 0 4
  let n := (p.payload.length - 4) / 4
  let ws := wordsOf n (p.payload.drop 4)
  if !regRangeOk true a n then (ch, .done stDenied (bytesOf 2 0))
  else if (List.range n).any (fun i => sideTouchesP2 (a + 4 * i) (ws.getD i 0) ch) then (ch, .done stDenied (bytesOf 2 0))
  else (ch.onSide (sideSetAll a ws), .done stOK (bytesOf 2 n))

/-- HEALTH_READ (19 R622). -/
def healthReply (p : List Byte) (s : Side) : List Byte :=
  (List.range (payAt p 1 1)).flatMap (fun i =>
    let n : Fin 32 := Fin.ofNat 32 (payAt p 0 1 + i)
    bytesOf 4 s.health.sel[n].toNat ++ bytesOf 8 s.health.count[n])

/-- TIME_QUERY's data: ring time at the command, and the ring state (16 R520); a ring reply's second time is set when it is sent. -/
def timeReply (s : Side) : List Byte :=
  let t := bytesOf 8 s.ticks.toNat
  t ++ t ++ bytesOf 1 ((s.joined .a).toNat + 2 * (s.joined .b).toNat + 4 * s.syncOk.toNat)

/-- CAB_STATUS's data (16 R524): from the last heartbeat. -/
def statusReply (h : Heartbeat) : List Byte :=
  bytesOf 4 h.state.toNat ++ bytesOf 4 h.err.toNat ++ bytesOf 4 h.framecnt.toNat ++ bytesOf 4 h.framestat.toNat ++
  bytesOf 4 h.tripsrc.toNat ++ bytesOf 4 h.banksel.toNat

end Sys2Proof.Machine
end

