-- ==== Sys2Proof/Machine/Engine.lean ====
section
/-!
DEFINITION. The packet engine and the commit engine (spec/16_command_packets.md R509 to R525; spec/17_ledger_and_delivery.md R551,
R554): how a cabinet's messages reach the sideboard, how each opcode acts, how a command is judged, answered and journaled, and
what follows a commit.
-/
namespace Sys2Proof.Machine

/-! ## Ends of commands (R517, R519) -/

/-- The reply bytes of a packet under its session's key. -/
def replyOf (p : Packet) (status : Nat) (data : List Byte) (s : Side) : List Byte := replyBytes p status data (replyKey p s)

/-- The session's command is no longer in process. -/
def setIdle (n : Nat) (s : Side) : Side := s.onSession n (fun x => { x with busy := false })

/-- A command ends with a status: a J command's entry and its E are committed before its reply leaves (R517), unless the status
does not consume its sequence (R519). -/
def finish (p : Packet) (status : Nat) (data : List Byte) (s : Side) : Side :=
  match opKind p.opc with
  | .j =>
    if status = stNoRoom then setIdle p.session (answerPacket p status data s)
    else journal p (headOf p .executed status data) 0 [.reply p.port (replyOf p status data s), .done p.session] s
  | .s => setIdle p.session ((answerPacket p status data s).onSession p.session (fun x => { x with e := x.e + 1 }))
  | _ => answerPacket p status data s

/-- A J or S command's verdict is carried out (R517, R522; 17 R554). -/
def conclude (p : Packet) (v : Verdict) (s : Side) : Side :=
  match v with
  | .done st data => finish p st data s
  | .order held =>
    let st := if held then stHeld else stAccepted
    journal p (headOf p .accepted st []) (contEntries (orderOf p).1.length)
      [.reply p.port (replyOf p st [] s), .done p.session] s
  | .restart fw =>
    journal p (headOf p .executed stOK []) 0 [.reply p.port (replyOf p stOK [] s), .done p.session, .reset fw (p.port == .bench)] s
  | .waits => s

/-! ## A cabinet's messages (01 R30; 16 R521, R538) -/

/-- The command of a ticket is answered by its cabinet; in a chip safe state or a reset the answer is lost. -/
def cabAnswer (t status : Nat) (data : List Byte) (s : Side) : Side :=
  match s.waiting.find? (fun w => w.ticket == t) with
  | none => s
  | some w =>
    let s := { s with waiting := s.waiting.filter (fun w => w.ticket != t) }
    if s.safe.isSome || s.reset.isSome then s else finish w.packet status data s

/-- One message of cabinet `k`. -/
def settleNote (k : Fin 16) (ch : Chip) (n : Note) : Chip :=
  match n with
  | .heartbeat => ch.onSide (sendHeartbeat k (heartbeatOf ch.cabs[k]))
  | .answer t st data => ch.onSide (cabAnswer t st data)
  | .health ev => ch.onSide (countHealth ev (some k.val) 1)
  | .confirm tag => ch.onSide (orderConfirmed k.val tag)
  | .refuse tag st => ch.onSide (orderRefused tag st)
  | .dropped _ => ch

/-- PROTECT_CONFIRM commands whose cabinets have all changed are answered (18 R581). -/
def confirmDone (s : Side) : Side :=
  let ready := s.prot.waits.filter (fun w => w.cabs.isEmpty)
  let s := { s with prot := { s.prot with waits := s.prot.waits.filter (fun w => !w.cabs.isEmpty) } }
  ready.foldl (fun s w => finish w.packet stOK [] s) s

/-- Cabinet `k` has no protected write waiting. -/
def confirmProgress (k : Fin 16) (ch : Chip) : Chip :=
  if ch.cabs[k].protWait.isEmpty then
    ch.onSide (fun s => confirmDone { s with prot := { s.prot with
      waits := s.prot.waits.map (fun w => { w with cabs := w.cabs.filter (· != k.val) }) } })
  else ch

/-- A heartbeat follows every change of CAB_STATE (01 R30), but for a cabinet that is PARKED. -/
def stateHeartbeat (old c : Cabinet) : Cabinet :=
  if cabStateWord c != cabStateWord old && c.clocksRun && !(old.mode == .parked && c.mode == .parked) && !c.notes.contains .heartbeat
  then c.note .heartbeat else c

/-- What follows from the changes that a command made, `old` being the cabinet before it: the carrier of a frame that stopped stands at 0,
sides and pins that are now watched act, and event sources are latched. -/
def followUp (old c : Cabinet) : Cabinet := icuSync (enTripSet old (leaveTest old (carrierStop old c)))

/-- Cabinet `k` after a command: what follows from it, a wait for an interrupt may end, and the sideboard takes over its messages. -/
def settleCab (k : Fin 16) (c : Cabinet) (ch : Chip) : Chip :=
  let old := ch.cabs[k]
  let c := stateHeartbeat old (wfiWake (followUp old c))
  let ch := c.notes.foldl (settleNote k) (ch.setCab k { c with notes := [] })
  confirmProgress k ch

/-- A command acts on cabinet `k`; in a reset of class P none does. -/
def Chip.runCab (k : Fin 16) (f : Cabinet → Cabinet) (ch : Chip) : Chip :=
  if ch.side.reset.isSome then ch else settleCab k (f ch.cabs[k]) ch

/-- A packet acts on its cabinet, which answers it by its ticket. -/
def cabCommand (p : Packet) (f : Nat → Cabinet → Cabinet) (ch : Chip) : Chip × Verdict :=
  let t := ch.side.ticket
  let ch := ch.onSide (fun s => { s with ticket := t + 1, waiting := s.waiting ++ [⟨t, p⟩] })
  let k := cabOf p.cab
  (settleCab k (f t ch.cabs[k]) ch, .waits)

/-! ## Opcodes (R520 to R525) -/

/-- CAB_BANK_STAGE (R525). -/
def bankStage (p : Packet) (ch : Chip) : Chip × Verdict :=
  let w := p.payload
  let f := payAt w 0 1
  if f = 0 ∨ f > 4 ∨ payAt w 1 3 ≠ 0 then
    cabCommand p (fun t c => c.answer (some t) (if c.mode == .parked then stMismatch else stDenied)) ch
  else if f = 1 then cabCommand p (fun t => stageOpen t (payAt w 4 4) (payAt w 8 4)) ch
  else if f = 2 then cabCommand p (fun t => stageData t (payAt w 4 4) (halves (w.drop 8))) ch
  else if f = 3 then cabCommand p (fun t => stageClose t) ch
  else cabCommand p (fun t => stageAbort t) ch

/-- CAB_RESET (17 R562; 18 R582; 19 R606). -/
def cabResetCommand (p : Packet) (ch : Chip) : Chip × Verdict :=
  let ch := ch.onSide (fun s => countHealth 0x22 (some p.cab) 1 (abandonFor p.cab (ledgerCabReset p.cab s)))
  let now := ch.side.ticks
  cabCommand p (fun t c => (cabReset now c).answer (some t) stOK) ch

/-- PERF_CONFIG: offsets that are no word of the PRF_ block are answered DENIED (log 37). -/
def perfCommand (p : Packet) (ch : Chip) : Chip × Verdict :=
  let n := payAt p.payload 0 2
  let ws := (List.range n).map (fun i => (payAt p.payload (2 + 8 * i) 4, natAt (payAt p.payload (6 + 8 * i) 4) 0))
  if ch.cabs[cabOf p.cab].mode != .parked && ws.any (fun w => w.1 % 4 != 0 || decide (w.1 ≥ 0x1000)) then (ch, .done stDenied [])
  else cabCommand p (fun t => perfConfig t ws) ch

/-- REG_WRITE (R544). -/
def regWriteCommand (p : Packet) (ch : Chip) : Chip × Verdict :=
  if p.cab > 15 then sideWrite p ch
  else
    let a := payAt p.payload 0 4
    let n := (p.payload.length - 4) / 4
    if ch.cabs[cabOf p.cab].mode != .parked && !regRangeOk false a n then (ch, .done stDenied (bytesOf 2 0))
    else cabCommand p (fun t => maintWrite t a (wordsOf n (p.payload.drop 4))) ch

/-- A proposal is committed (18 R581): the sideboard's part at once, each cabinet's at its boundary; a CONFIRM waits for them. -/
def commitProposal (q : Proposal) (out : Nat) (p : Option Packet) (ch : Chip) : Chip :=
  let ks := changeCabs q.change
  let ch := ch.onSide (commitSide q out)
  let ch := match p with
    | none => ch
    | some p => ch.onSide (fun s => { s with prot := { s.prot with waits := s.prot.waits ++ [⟨p, ks⟩] } })
  let ch := ks.foldl (fun ch k => settleCab (cabOf k) (protCommit (itemWrites k q.change.list) ch.cabs[cabOf k]) ch) ch
  ch.onSide confirmDone

/-- PROTECT_CONFIRM (18 R579). -/
def protectConfirm (p : Packet) (ch : Chip) : Chip × Verdict :=
  let n := payAt p.payload 0 4
  match openProposal n ch.side with
  | none => (ch, .done (if ch.side.prot.expired.contains n then stExpired else stMismatch) [])
  | some q =>
    if principal p ch.side = q.prin then (ch, .done stDenied [])
    else if p.payload.drop 4 ≠ q.digest ∨ !changeOk q.change ch then (ch.onSide (closeProposal n 5), .done stDenied [])
    else (commitProposal q 1 (some p) ch, .waits)

/-- KEY_N_CONFIRM (18 R585): decided from the digest row of R579 on. -/
def keyConfirm (ch : Chip) : Chip :=
  match keyProposal ch.side with
  | none => ch
  | some q => if changeOk q.change ch then commitProposal q 2 none ch else ch.onSide (closeProposal q.number 5)

/-- A change of the sideboard that gives a verdict. -/
def sideVerdict (ch : Chip) (r : Side × Verdict) : Chip × Verdict := ({ ch with side := r.1 }, r.2)

/-- R516 step 8 of a J command. -/
def execJ (p : Packet) (ch : Chip) : Chip × Verdict :=
  let w := p.payload
  match p.opc with
  | 0x10 =>
    let src := payAt w 8 1
    cabCommand p (fun t => loadBegin t src (payAt w 0 4) (payAt w 4 4) (loadSource src ch.side.store)) ch
  | 0x11 => cabCommand p (fun t => loadData t (payAt w 0 4) (w.drop 4)) ch
  | 0x12 => cabCommand p (fun t => loadEnd t) ch
  | 0x13 => cabCommand p (fun t => cabArm t) ch
  | 0x14 => cabCommand p (fun t => cabRun t) ch
  | 0x15 => cabCommand p (fun t => cabPark t) ch
  | 0x16 => cabCommand p (fun t => cabWake t) ch
  | 0x17 => cabResetCommand p ch
  | 0x18 => bankStage p ch
  | 0x19 => cabCommand p (fun t => bankSwap t) ch
  | 0x1A => cabCommand p (fun t => cabTripClear t) ch
  | 0x1B => cabCommand p (fun t => cabTest t) ch
  | 0x30 => (ch, orderPut p ch.side)
  | 0x31 => (ch, orderPut p ch.side)
  | 0x32 => sideVerdict ch (orderCancel p ch.side)
  | 0x33 => sideVerdict ch (orderResume p ch.side)
  | 0x34 => ringConfig p ch
  | 0x51 => regWriteCommand p ch
  | 0x60 => sideVerdict ch (propose p ch.side)
  | 0x61 => protectConfirm p ch
  | 0x62 => sideVerdict ch (protectAbort p ch.side)
  | 0x63 => sideVerdict ch (keyInstall p ch.side)
  | 0x70 => perfCommand p ch
  | 0xE0 => (ch, .restart false)
  | 0xE1 => fwStage w ch
  | 0xE2 => fwCommit w ch
  | _ => (ch, .done stBadOpcode [])

/-- ACK (17 R557): one commit, before the reply. -/
def ackCommand (p : Packet) (s : Side) : Side :=
  let r := ackWrites p.session (natAt (payAt p.payload 0 4) 0) s.view
  let data := bytesOf 4 r.2.toNat
  if r.1.isEmpty then answerPacket p stOK data s
  else
    let s := enqueue r.1 [.reply p.port (replyOf p stOK data s)] none s
    { s with ledger := { s.ledger with retired := s.ledger.retired + r.1.length } }

/-- R516 step 8 of a U command: its reply leaves at once. -/
def execU (p : Packet) (ch : Chip) : Chip :=
  let w := p.payload
  match p.opc with
  | 0x00 => ch.onSide (answerPacket p stOK [])
  | 0x03 => ch.onSide (ackCommand p)
  | 0x04 => ch.onSide (fun s => answerPacket p stOK (timeReply s) s)
  | 0x1C => ch.onSide (fun s => answerPacket p stOK (statusReply s.copies[cabOf p.cab]) s)
  | 0x35 =>
    let k := cabOf p.cab
    let r := reportPull p.cab p.ring (natAt (payAt w 0 4) 0) (payAt w 4 1) ch.cabs[k]
    (settleCab k r.1 ch).onSide (answerPacket p stOK r.2)
  | 0x50 =>
    let r := maintReadReply p ch
    ch.onSide (answerPacket p r.1 r.2)
  | 0x71 => ch.onSide (fun s => answerPacket p stOK (healthReply w s) s)
  | 0x72 => ch.onSide (fun s => answerPacket p stOK (queryReply w s.view) s)
  | _ => ch.onSide (answerPacket p stBadOpcode [])

/-! ## Sessions (R511, R512) -/

/-- SESSION_OPEN (R511). Byte 1 of its payload is not checked. -/
def sessionOpen (p : Packet) (s : Side) : Side :=
  let x := s.session p.session
  let slot := payAt p.payload 0 1
  let nh := (p.payload.drop 2).take 8
  if x.isOpen && x.nh == nh then answerPacket p stDuplicate x.openReply s
  else
    let nd := (List.range 8).map (Config.nonceByte s.draws)
    let key := (slotKey slot s).getD []
    let ks := cmac key ([0x53, 0x4B] ++ bytesOf 2 p.session ++ nh ++ nd)
    let e := if x.isOpen then x.e else p.seq
    let lrs := if x.isOpen then x.lrs else p.seq - 1
    let data := nd ++ bytesOf 4 e.toNat ++ bytesOf 4 lrs.toNat
    let y : Session := { x with
      isOpen := true, slot := slot, prin := (s.prot.slots[Fin.ofNat 32 slot]).prin, ks := some ks, nh := nh, nd := nd
      e := e, lrs := lrs, openReply := data, window := [], lastPort := some p.port }
    answerPacket p stOK data ({ s with draws := s.draws + 1 }.setSession p.session y)

/-- SESSION_CLOSE (R512): the reply leaves under the key that the session then gives up. -/
def sessionClose (p : Packet) (s : Side) : Side :=
  if (sessionEntries p.session s.view).all (fun x => x.2.state == .retired) then
    (finish p stOK [] s).onSession p.session (fun x => { x with isOpen := false, ks := none, window := [] })
  else finish p stMismatch [] s

/-! ## Judging a command (R513 to R516) -/

/-- R516 step 7: DENIED for an order ring that is not configured, NO_ROOM where there is no room. -/
def roomCheck (p : Packet) (ch : Chip) : Option Nat :=
  let v := ch.side.view
  let order := p.opc == 0x30 || p.opc == 0x31
  let depth := ringDepth p.cab p.ring ch
  if namesOrderRing p.opc && depth.isNone then some stDenied
  else if order && ringFull p.cab p.ring (depth.getD 0) v then some stNoRoom
  else if !hasRoom p (if order then 1 + contEntries (orderOf p).1.length else 1) v then some stNoRoom
  else none

/-- A J command is processed from R516 step 6 on. -/
def processJ (p : Packet) (ch : Chip) : Chip :=
  if !permitted p ch.side then ch.onSide (finish p stDenied [])
  else
    match roomCheck p ch with
    | some st => ch.onSide (finish p st [])
    | none =>
      let r := execJ p ch
      r.1.onSide (conclude p r.2)

/-- The data of a DUPLICATE reply (R514). -/
def duplicateData (p : Packet) (s : Side) : List Byte :=
  match opKind p.opc, entryOf p.session p.seq s.view with
  | .j, some (_, e) =>
    let st := if e.state = .held then stHeld else if e.state = .indeterminate then stIndet else e.rstat
    BitVec.ofNat 8 st :: e.rdata
  | _, _ => []

/-- The command is kept in the receive window, unless one is held for its sequence (R513). -/
def holdPacket (p : Packet) (x : Session) : Session :=
  if x.window.any (fun q => q.seq == p.seq) then x else { x with window := x.window ++ [p] }

/-- R516 step 5 of a J or S command (R513, R514). A second command at d = 0 waits for the end of the first (log 38). -/
def judgeSequenced (p : Packet) (ch : Chip) : Chip :=
  let s := ch.side
  let x := s.session p.session
  let d := (p.seq - x.e).toNat
  let gap (s : Side) : Side := answerPacket p stGap (bytesOf 4 x.e.toNat) s
  if !x.isOpen then ch.onSide (answerBare p stAuthFail)
  else if d = 0 then
    if x.busy then ch.onSide (·.onSession p.session (fun x => { x with again := x.again ++ [p] }))
    else
      let ch := ch.onSide (·.onSession p.session (fun x => { x with busy := true }))
      if opKind p.opc == .s then ch.onSide (sessionClose p) else processJ p ch
  else if d ≤ 63 then ch.onSide (fun s => gap (s.onSession p.session (holdPacket p)))
  else if d < 2 ^ 31 then ch.onSide gap
  else ch.onSide (fun s => answerPacket p stDuplicate (duplicateData p s) s)

/-- A command that has passed R516 step 4. -/
def judge (p : Packet) (ch : Chip) : Chip :=
  match opKind p.opc with
  | .open => ch.onSide (sessionOpen p)
  | .u => if permitted p ch.side then execU p ch else ch.onSide (answerPacket p stDenied [])
  | _ => judgeSequenced p ch

/-- The next command that a session's end of a command makes due: a resend that waited, then the held command with the new E
(R513). -/
def nextDue (x : Session) : Option (Packet × Session) :=
  if x.busy then none
  else
    match x.again with
    | p :: t => some (p, { x with again := t })
    | [] =>
      match x.window.find? (fun q => q.seq == x.e) with
      | none => none
      | some p => some (p, { x with window := x.window.filter (fun q => q.seq != x.e) })

/-- Processes what a session has due, at most `n` commands. -/
def pump : Nat → Nat → Chip → Chip
  | 0, _, ch => ch
  | n + 1, ses, ch =>
    match nextDue (ch.side.session ses) with
    | none => ch
    | some (p, x) => pump n ses (judge p (ch.onSide (·.setSession ses x)))

/-- Everything a session has due. -/
def pumpAll (ses : Nat) (ch : Chip) : Chip :=
  let x := ch.side.session ses
  pump (x.window.length + x.again.length) ses ch

/-- R516 from step 3 on; `vf`: the header's VF is as R504 gives. -/
def process (p : Packet) (vf : Bool) (ch : Chip) : Chip :=
  let ch := if p.unauth || p.opc == 0x01 then ch
    else ch.onSide (·.onSession p.session (fun x => { x with lastPort := some p.port }))
  if !vf || !headerOk p then ch.onSide (answerPacket p stBadOpcode [])
  else if !payloadOk p.opc p.payload then ch.onSide (answerPacket p stBadLength [])
  else pumpAll p.session (judge p ch)

/-- The port can deliver a command: a ring that is joined (15 R492), or the bench port with no command or reply (15 R501). -/
def portOpen (p : Port) (s : Side) : Bool :=
  match p with
  | .ring r _ => s.joined r
  | .bench => !s.bench.busy && s.bench.replies.isEmpty

/-- A command has been delivered: the node's ring is remembered (15 R480), the bench port is busy. -/
def portTakes (p : Port) (s : Side) : Side :=
  match p with
  | .ring r node => { s with nodeRing := assocPut node r s.nodeRing }
  | .bench => { s with bench := { s.bench with busy := true } }

/-- A packet of a known opcode whose MAC is right arrives (R516). -/
def arrive (p : Packet) (ch : Chip) : Chip :=
  if !ch.side.serving || !portOpen p.port ch.side then ch
  else
    let ch := ch.onSide (portTakes p.port)
    if p.payload.length > 1024 ∨ (p.opc = 0x01 ∧ p.payload.length ≠ 10) then ch.onSide (answerBare p stBadLength)
    else if !authOk p ch.side then ch.onSide (answerBare p stAuthFail)
    else process p true ch

/-- Packet bytes are processed from R516 step 1 on. -/
def processBytes (port : Port) (bs : List Byte) (ch : Chip) : Chip :=
  let p := parsePacket port bs
  if !lengthOk bs then ch.onSide (answerBare p stBadLength)
  else if !authOk p ch.side || !macOk bs p ch.side then ch.onSide (answerBare p stAuthFail)
  else process p (vfOk bs) ch

/-! ## The commit engine (17 R551, R554) -/

/-- What a complete commit lets happen. -/
def releaseCommit (ch : Chip) (r : Release) : Chip :=
  match r with
  | .reply p b => ch.onSide (sendReply p b)
  | .done n =>
    let ch := ch.onSide (setIdle n)
    if ch.side.serving then pumpAll n ch else ch
  | .deliver k o =>
    let c := ch.cabs[k]
    ch.setCab k { c with ord := { c.ord with delivered := c.ord.delivered ++ [o] } }
  | .notice i st =>
    ch.onSide (fun s =>
      match assocGet i s.ledger.entries with
      | none => s
      | some e => sendNotice (fullSeq (s.session e.session).e e.seql) e st s)
  | .reset fw bench => ch.onSide (fun s => { s with resetAfter := some fw, resetBench := bench })

/-- Entries that a commit writes, continuations included (19 R623). -/
def Commit.entryCount (c : Commit) : Nat :=
  c.writes.foldl (fun n w =>
    match w with
    | .put _ e _ => n + 1 + e.run
    | _ => n) 0

/-- The front commit is complete: its values are in place, it is counted, and what waited for it follows. -/
def completeFront (ch : Chip) : Chip :=
  match ch.side.ledger.commits with
  | [] => ch
  | c :: t =>
    let ch := ch.onSide (fun s =>
      countHealth 0x19 none c.entryCount (countHealth 0x18 none 1
        (applyWrites c.writes { s with ledger := { s.ledger with commits := t } })))
    c.releases.foldl releaseCommit ch

/-- Completes up to `n` commits. -/
def completeN : Nat → Chip → Chip
  | 0, ch => ch
  | n + 1, ch => completeN n (completeFront ch)

/-- The stage of the front commit changes. -/
def frontStage (frm next : CommitStage) (s : Side) : Side :=
  match s.ledger.commits with
  | [] => s
  | c :: t => if c.stage = frm then { s with ledger := { s.ledger with commits := { c with stage := next } :: t } } else s

/-- The front commit's mark is written. -/
def frontMarked (s : Side) : Bool :=
  match s.ledger.commits with
  | [] => false
  | c :: _ => c.stage == .marked

/-- The commits up to the last one that confirms an order of cabinet `k` (16 R538). -/
def confirmsUpTo (k : Nat) (cs : List Commit) : Nat :=
  (cs.zip (List.range cs.length)).foldl (fun n x => if x.1.confirms = some k then x.2 + 1 else n) 0

/-- STATUS_HEARTBEAT (01 R30, R31): the oldest heartbeat on its way becomes the copy; the confirmations of its frame are committed
first (16 R538). -/
def heartbeatReceived (k : Fin 16) (ch : Chip) : Chip :=
  match ch.side.sent[k] with
  | [] => ch
  | h :: t =>
    let ch := completeN (confirmsUpTo k.val ch.side.ledger.commits) ch
    ch.onSide (fun s => { s with copies := s.copies.set k h, sent := s.sent.set k t, lost := s.lost.set k false })

/-- HEARTBEAT_LOSS (01 R31). -/
def heartbeatLoss (k : Fin 16) (s : Side) : Side :=
  if s.copyState k = 5 ∨ s.lost[k] then s else countHealth 0x21 (some k.val) 1 { s with lost := s.lost.set k true }

end Sys2Proof.Machine
end

