-- ==== Sys2Proof/Machine/Power.lean ====
section
/-!
DEFINITION. The chip safe state (spec/01 R39 to R41), resets of class P, boot and the recovery scan
(spec/19_power_reset_boot.md R599 to R612; spec/17_ledger_and_delivery.md R562 to R566).
-/
namespace Sys2Proof.Machine

/-! ## The chip safe state (01 R39 to R41) -/

/-- A cabinet's CHIP trip source becomes active (09 R326). -/
def chipTrip (c : Cabinet) : Cabinet := tripBy 6 { c with chipSafe := true }

/-- The chip trips every cabinet. -/
def tripAll (ch : Chip) : Chip := (List.finRange 16).foldl (fun ch k => settleCab k (chipTrip ch.cabs[k]) ch) ch

/-- A ring the device is bypassed on: the keep-alive is stopped. -/
def RingEnd.bypass (e : RingEnd) : RingEnd :=
  { e with phase := .out, keepAlive := false, leaving := none, wrapped := false, heardSync := 0 }

/-- No dispatch takes place in a chip safe state (17 R562): a delivery whose commit has not started is not made. -/
def dropDeliveries (s : Side) : Side :=
  { s with ledger := { s.ledger with commits := s.ledger.commits.filter (fun c => c.started || !c.delivers) } }

/-- Steps 2 and 3 of R40 once no commit is left (those of before a reset wait for the recovery scan): the final commit is complete, the
health counters are saved (19 R621), the hinge stops. -/
def finalCheck (ch : Chip) : Chip :=
  let s := ch.side
  if s.safe.isSome && !s.finalDone && (s.ledger.commits.isEmpty || s.ledger.scan) then
    { ch with side := saveHealth { s with finalDone := true, ringA := s.ringA.bypass, ringB := s.ringB.bypass } }
  else ch

/-- Entry to the chip safe state (R40), step 1: every cabinet trips; what the trips make of commands in process is committed with the
rest. -/
def enterSafe (cause : SafeCause) (ch : Chip) : Chip :=
  if ch.side.safe.isSome || ch.side.reset.isSome then ch
  else
    let ch := tripAll ch
    let ch := ch.onSide (fun s =>
      let s := countHealth 0x34 none 1 { s with safe := some cause, waiting := [], finalDone := false }
      dropDeliveries (if cause = .temperature then countHealth 0x29 none 1 s else s))
    finalCheck ch

/-- The commit engine completes every commit it has. -/
def completeAll (ch : Chip) : Chip := completeN ch.side.ledger.commits.length ch

/-! ## Resets of class P (19 R599 to R607) -/

/-- The fields of the sideboard after a reset of class P: those of class N and MRAM stay (00 R15), receive windows are empty (16
R510), transfers are closed (R607), proposals are abandoned (18 R582), commits wait for the recovery scan. -/
def sideReset (src : ResetSrc) (s : Side) : Side :=
  let started := s.ledger.commits.any (·.started)
  { sessions := s.sessions.map (fun x => (x.1, { x.2 with window := [], busy := false, again := [], lastPort := none }))
    ticket := s.ticket
    ledger := { s.ledger with scan := true, cause := 0, clean := false }
    prot := { s.prot with proposals := [], waits := [], prop := 0, out := 0 }
    store := { s.store with stage := none, fallback := false }
    node := s.node
    time := 0
    syncs := s.syncs
    notices := s.notices
    draws := s.draws
    reset := some src
    rstSrc := src
    rstSafe := if src = .powerOn ∧ !s.finalDone then none else s.safe
    rstMid := started
    rstFinal := s.finalDone
    pulses := s.pulses
    pwrfailN := s.pwrfailN
    keyN := s.keyN
    temp := s.temp
    health := { s.health with count := s.health.saved }
    tap := s.tap }

/-- The cabinets at the start of a reset of class P: under the watchdog and CHIP_RESET the outputs keep the PWM_SAFE in force until
the reset ends (R601). -/
def cabsReset (src : ResetSrc) (cabs : Vector Cabinet 16) : Vector Cabinet 16 :=
  let keep := src != .powerOn && src != .resetN
  cabs.map (fun c =>
    let r := cabResetP (src == .powerOn) keep c
    settlePairs (if keep then { r with pwm := { r.pwm with safe := c.pwm.safe } } else r))

/-- Before a RESET_N acts, a final commit in progress completes (R602). -/
def beforeResetN (ch : Chip) : Chip :=
  if ch.side.safe.isSome && !ch.side.finalDone then finalCheck (completeAll ch) else ch

/-- Before CHIP_RESET or a committed image acts (R600): every trip latch sets, and what has taken effect is committed (17 R561). -/
def beforeChipReset (ch : Chip) : Chip :=
  completeAll ((tripAll ch).onSide (fun s => dropDeliveries { s with reset := some .chipReset, waiting := [] }))

/-- A reset of class P starts; a trip source that is active sets the latch of its cabinet again (09 R332). -/
def startReset (src : ResetSrc) (ch : Chip) : Chip :=
  let ch : Chip := { cabs := cabsReset src ch.cabs, side := sideReset src ch.side }
  (List.finRange 16).foldl (fun ch k => settleCab k ch.cabs[k] ch) ch

/-- A reset by command starts (16 R522). -/
def commandReset (fw : Bool) (ch : Chip) : Chip :=
  startReset (if fw then .firmware else .chipReset) (beforeChipReset ch)

/-- Both rings have been left (15 R493), and the reply that the reset follows has left (R600). -/
def readyToReset (s : Side) : Bool :=
  !s.resetBench && !s.ringA.inRing && !s.ringB.inRing && s.safe.isNone && s.reset.isNone

/-- A reset that follows a reply acts once the device has left both rings. -/
def afterReset (ch : Chip) : Chip :=
  match ch.side.resetAfter with
  | none => ch
  | some fw => if readyToReset ch.side then commandReset fw ch else ch

/-- The reason with which a ring is to be left (15 R474, R493): the one already set, or that of a reset whose replies have left. -/
def leaveReason (r : RingId) (s : Side) : Option Nat :=
  match (s.ring r).leaving with
  | some n => some n
  | none =>
    match s.resetAfter with
    | some fw =>
      let sent (r : RingId) : Bool := (s.ring r).replyq.isEmpty || !s.joined r
      if !s.resetBench && sent .a && sent .b then some (if fw then 2 else 1) else none
    | none => none

/-- LEAVE_RING (15 R493). -/
def leaveRingEvent (r : RingId) (ch : Chip) : Chip :=
  match leaveReason r ch.side with
  | none => ch
  | some n => afterReset (ch.onSide (leaveRing r n))

/-- POWER_ON_RESET (R599). -/
def powerOnReset (ch : Chip) : Chip := startReset .powerOn ch

/-- RESET_N has been low for `ns` nanoseconds (R600): 1 µs acts, less than 100 ns never does, between the two it may (log 15). -/
def resetN (ns : Nat) (ch : Chip) : Chip :=
  let acts := decide (ns ≥ 1000) || (decide (ns ≥ 100) && Config.chipPulseActs true ch.side.pulses)
  let ch := ch.onSide (fun s => { s with pulses := s.pulses + 1 })
  if acts then
    let ch := beforeResetN ch
    startReset .resetN ch
  else ch

/-- RESET_END (R601): the committed safe patterns give way to the reset value; ring time starts at 0 (15 R490). -/
def resetEnd (ch : Chip) : Chip :=
  if ch.side.reset.isNone then ch
  else
    { cabs := ch.cabs.map (fun c => settlePairs { c with pwm := { c.pwm with safe := 0x01000000 } })
      side := { ch.side with
        reset := none, time := 0,
        bootHold := (ch.side.rstSrc == .powerOn || ch.side.rstSrc == .resetN) && !ch.side.pwrfailN } }

/-- BOOT (R599, R608, R611): held while PWRFAIL_N is low since the end of the reset; the slot that verifies is started, and the device
listens on its rings. -/
def boot (ch : Chip) : Chip :=
  let s := ch.side
  if s.reset.isSome || s.booted || (s.bootHold && !s.pwrfailN) then ch
  else
    match bootChoice s.store with
    | none => ch
    | some (slot, fb) =>
      let s := { s with
        booted := true, bootHold := false, store := { s.store with active := slot, fallback := fb }
        icu := { s.icu with cores := Vector.replicate 4 { running := true, awake := true } } }
      { ch with side := tryListen .b (tryListen .a s) }

/-! ## The recovery scan (17 R564, R566) -/

/-- LDG_LRST.CAUSE of the last reset (R600): a RESET_N that ends a chip safe state is told apart. -/
def scanCause (s : Side) : Nat := if s.rstSrc = .resetN ∧ s.rstSafe.isSome then 4 else s.rstSrc.code

/-- LDG_LRST.CLEAN (R571). -/
def scanClean (s : Side) : Bool := !s.rstMid && (s.rstFinal || s.rstSrc != .powerOn)

/-- Indexes whose MRAM cannot be read are withdrawn, with the heads that use them. -/
def withdraw (bad : List Nat) (l : Ledger) : Ledger :=
  let fresh := bad.filter (fun i => decide (i < ledgerSize) && !l.withdrawn.contains i)
  { l with
    entries := l.entries.filter (fun x => !fresh.any (fun i => decide (x.1 ≤ i) && decide (i ≤ x.1 + x.2.run)))
    withdrawn := fresh.foldl (fun w i => setInsert i w) l.withdrawn
    dmg := min (l.dmg + fresh.length) 0xFFFF
    dmgIdx := fresh.getLast?.getD l.dmgIdx }

/-- The ledger after the scan: commits whose mark was written are completed, the others discarded; then R562. -/
def scanLedger (bad : List Nat) (s : Side) : Side :=
  let done := s.ledger.commits.filter (fun c => c.stage == .marked)
  let s := done.foldl (fun t c => applyWrites c.writes t) { s with ledger := { s.ledger with commits := [] } }
  let l := withdraw bad s.ledger
  { s with ledger := { l with
      entries := l.entries.map (fun x => (x.1, resetEntry x.2)), scan := false, cause := scanCause s, clean := scanClean s } }

/-- RECOVERY_SCAN (17 R564; 19 R608, R610, R621): then a WRITE that waited on the bench port is processed. -/
def recoveryScan (bad : List Nat) (ch : Chip) : Chip :=
  if !ch.side.booted || !ch.side.ledger.scan || ch.side.reset.isSome then ch
  else
    let ch := ch.onSide (fun s => countHealth 0x30 (some (scanCause s)) 1 (scanLedger bad s))
    match ch.side.bench.held with
    | none => ch
    | some bs => processBytes .bench bs (ch.onSide (fun s => { s with bench := { s.bench with held := none } }))

/-! ## LEDGER_COMMIT (17 R551) -/

/-- LEDGER_COMMIT: one phase of the front commit, `retries` MRAM accesses repeated; `bad` gives an uncorrectable error, which is a
cause of the chip safe state (R566). -/
def ledgerCommit (ph : LedgerPhase) (retries : Nat) (bad : Bool) (ch : Chip) : Chip :=
  if ch.side.reset.isSome || ch.side.ledger.scan || !ch.side.booted then ch
  else
    let ch := ch.onSide (countHealth 0x1A none retries)
    if bad then enterSafe .ledger (ch.onSide (countHealth 0x1B none 1))
    else
      match ph with
      | .intent => ch.onSide (frontStage .waiting .intent)
      | .mark => ch.onSide (frontStage .intent .marked)
      | .values => if frontMarked ch.side then afterReset (finalCheck (completeFront ch)) else ch

/-! ## Causes of the chip safe state -/

/-- PWRFAIL_N has been low for `ns` nanoseconds and, with `back`, is high again (R612): 100 ns acts, less than 50 ns never does,
between the two it may (log 15). While the boot is held, a low level only holds it (R599). -/
def pwrfail (ns : Nat) (back : Bool) (ch : Chip) : Chip :=
  let acts := decide (ns ≥ 100) || (decide (ns ≥ 50) && Config.chipPulseActs false ch.side.pulses)
  let ch := ch.onSide (fun s => { s with pulses := s.pulses + 1, pwrfailN := back })
  if acts && ch.side.reset.isNone && !ch.side.bootHold then enterSafe .pwrfail (ch.onSide (countHealth 0x2B none 1)) else ch

/-- SUPPLY_EXCURSION of VDDC, VDDA, VDDM (bits 0 to 2) for 1 µs or more (01 R39). -/
def supplyExcursion (mask : Fin 8) (ch : Chip) : Chip :=
  if mask.val = 0 ∨ ch.side.reset.isSome then ch
  else
    let ch := (List.range 3).foldl (fun ch i =>
      if mask.val / 2 ^ i % 2 = 1 then ch.onSide (countHealth 0x2A (some i) 1) else ch) ch
    enterSafe (.supply mask.val) ch

/-- TEMPERATURE_SAMPLE in 0.25 °C steps (20 R630; 19 R625): 115 °C warns, 130 °C is a cause of the chip safe state. -/
def temperatureSample (t : BitVec 12) (ch : Chip) : Chip :=
  let hot := decide (t.toInt ≥ 460)
  let was := decide (ch.side.temp.toInt ≥ 460)
  let ch := ch.onSide (fun s =>
    let s := { s with temp := t, tempWarn := s.tempWarn || hot }
    if hot && !was then countHealth 0x28 none 1 s else s)
  if t.toInt ≥ 520 then enterSafe .temperature ch else ch

/-- SIDEBOARD_WATCHDOG expiry (R603): the chip safe state with its commit, then a reset. It does not count while no steward core is
awake or in a chip safe state of another cause than the stewards'. -/
def watchdogExpiry (ch : Chip) : Chip :=
  let s := ch.side
  let counts := match s.safe with
    | none => s.icu.cores.toList.any (fun x => x.running && x.awake)
    | some c => c == .stewards
  if !counts || s.reset.isSome || !s.booted then ch
  else
    let ch := enterSafe .watchdog (ch.onSide (countHealth 0x31 none 1))
    startReset .watchdog ((finalCheck (completeAll ch)).onSide saveHealth)

end Sys2Proof.Machine
end

