-- ==== Sys2Proof/Machine/Bench.lean ====
section
/-!
DEFINITION. The bench port (spec/15_jetik_ring_and_hinge.md R499 to R503; spec/19_power_reset_boot.md R610).
-/
namespace Sys2Proof.Machine

/-- The status byte (R500). -/
def benchStatus (s : Side) : Byte :=
  let b := s.bench
  BitVec.ofNat 8 ((!b.replies.isEmpty).toNat + 2 * b.busy.toNat + 4 * b.crcErr.toNat + 8 * b.lenErr.toNat + 16 * b.ovr.toNat +
    32 * s.booted.toNat + 64 * s.safe.isSome.toNat)

/-- What a transaction returns on BP_MISO; in a reset of class P the pin is high impedance (19 R601). -/
def benchReturns (out : List Byte) (s : Side) : Side := { s with bench := { s.bench with miso := if s.reset.isSome then [] else out } }

/-- STATUS, or an opcode that is none of R501: the status byte, then zeros for `n` bytes. -/
def benchStatusTx (n : Nat) (s : Side) : Side := benchReturns (benchStatus s :: List.replicate n 0) s

/-- The outcome bits of a WRITE (R500): each WRITE replaces them. -/
def benchOutcome (crc len ovr : Bool) (s : Side) : Side :=
  let s := { s with bench := { s.bench with crcErr := crc, lenErr := len, ovr := ovr } }
  if crc || len then countHealth 0x11 none 1 s else s

/-- WRITE with the bytes after the opcode (R501): LEN, the packet and its CRC. -/
def benchWrite (bs : List Byte) (ch : Chip) : Chip :=
  let s := ch.side
  let ch := ch.onSide (benchReturns (benchStatus s :: List.replicate bs.length 0))
  if s.reset.isSome then ch
  else if !s.bench.replies.isEmpty || s.bench.busy || !s.booted || s.safe.isSome then ch.onSide (benchOutcome false false true)
  else
    let len := payAt bs 0 2
    let pkt := (bs.drop 2).take len
    if len < 16 ∨ len > 1048 ∨ bs.length ≠ len + 6 then ch.onSide (benchOutcome false true false)
    else if crc32 pkt ≠ payAt bs (2 + len) 4 then ch.onSide (benchOutcome true false false)
    else
      let ch := ch.onSide (fun s =>
        let s := benchOutcome false false false s
        { s with bench := { s.bench with busy := true } })
      if ch.side.ledger.scan then ch.onSide (fun s => { s with bench := { s.bench with held := some pkt } })
      else processBytes .bench pkt ch

/-- READ with `n` bytes clocked after the opcode (R501, R502): the reply is removed when all of it has been read. -/
def benchRead (n : Nat) (s : Side) : Side :=
  let out := match s.bench.replies with
    | [] => []
    | r :: _ => bytesOf 2 r.length ++ r ++ bytesOf 4 (crc32 r)
  let s' := benchReturns (benchStatus s :: (out ++ List.replicate n 0).take n) s
  match s.bench.replies with
  | [] => s'
  | r :: t => if n ≥ r.length + 6 ∧ s.reset.isNone then { s' with bench := { s'.bench with replies := t } } else s'

/-- READ: when the reply of a reset by command has been read, the reset may follow (19 R600). -/
def benchReadEvent (n : Nat) (ch : Chip) : Chip :=
  afterReset (ch.onSide (fun s =>
    let s := benchRead n s
    { s with resetBench := s.resetBench && !s.bench.replies.isEmpty }))

end Sys2Proof.Machine
end

