-- ==== Sys2Proof/Machine/Steward.lean ====
section
/-!
DEFINITION. Steward cores and the sideboard interrupt controller (spec/01 R36; spec/19_power_reset_boot.md R617 to R620), ring time's
deliveries to the cabinets (spec/15 R486, R490), and the pins that the test access port drives (spec/20 R645).
-/
namespace Sys2Proof.Machine

/-- A steward core is eligible: running and awake. -/
def Steward.eligible (x : Steward) : Bool := x.running && x.awake

/-- The first core after `last`, in the order 0, 1, 2, 3, 0, that meets a condition. -/
def nextCore (last : Nat) (ok : Fin 4 → Bool) : Option (Fin 4) :=
  ([1, 2, 3, 4].map (fun i => Fin.ofNat 4 (last + i))).find? (fun k => ok k)

/-- A source is pending. -/
def icuPend (src : Nat) (u : SideIcu) : SideIcu := if u.pend.contains src then u else { u with pend := u.pend ++ [src] }

/-- A pending source is delivered (R617): to the next eligible core; with none eligible, the next enabled core wakes (R619). -/
def icuDeliver (src : Nat) (u : SideIcu) : SideIcu :=
  let give (k : Fin 4) (u : SideIcu) : SideIcu := { u with deliv := u.deliv ++ [(src, k.val)], last := k.val }
  if u.stopped || !u.pend.contains src || u.deliv.any (fun x => x.1 == src) then u
  else
    match nextCore u.last (fun k => (u.cores[k]).eligible) with
    | some k => give k u
    | none =>
      match nextCore u.last (fun k => (u.cores[k]).running) with
      | some k => give k { u with cores := u.cores.set k { u.cores[k] with awake := true } }
      | none => u

/-- SIDEBOARD_ICU_DELIVER: a source becomes pending and is delivered. -/
def icuDeliverEvent (src : Nat) (s : Side) : Side := { s with icu := icuDeliver src (icuPend src s.icu) }

/-- The deliveries to core `k` that have not been claimed are withdrawn and made again (R618); each is counted. -/
def icuWithdrawFrom (k : Fin 4) (s : Side) : Side :=
  let ws := s.icu.deliv.filter (fun x => x.2 == k.val)
  let u := { s.icu with deliv := s.icu.deliv.filter (fun x => x.2 != k.val) }
  countHealth 0x33 none ws.length { s with icu := ws.foldl (fun u x => icuDeliver x.1 u) u }

/-- The core claims what was delivered to it: the sources are no longer pending. -/
def stewardClaim (k : Fin 4) (u : SideIcu) : SideIcu :=
  { u with
    pend := u.pend.filter (fun x => !u.deliv.any (fun y => y.1 == x && y.2 == k.val))
    deliv := u.deliv.filter (fun x => x.2 != k.val) }

/-- SIDEBOARD_ICU_WITHDRAW: core `k` goes to sleep; with `claimed` it claims in the same cycle, and the claim stands (R618). -/
def icuWithdraw (k : Fin 4) (claimed : Bool) (s : Side) : Side :=
  if !(s.icu.cores[k]).eligible then s
  else
    let s := { s with icu := { s.icu with cores := s.icu.cores.set k { s.icu.cores[k] with awake := false } } }
    if claimed then { s with icu := stewardClaim k s.icu } else icuWithdrawFrom k s

/-- SIDEBOARD_ICU_SLEEP (R620): with all steward cores asleep the pending state stays on the shelf and the clock stops. -/
def icuSleep (s : Side) : Side :=
  if s.booted && s.icu.cores.toList.all (fun x => !x.awake) then { s with icu := { s.icu with stopped := true } } else s

/-- SIDEBOARD_ICU_RESTART (R620): an input restarts the stopped controller, which then delivers. -/
def icuRestart (src : Nat) (s : Side) : Side :=
  if s.icu.stopped then icuDeliverEvent src { s with icu := { s.icu with stopped := false } } else s

/-- A command that a faulting core had taken and not committed is lost (17 R552): one that waits for a cabinet. -/
def loseCommand (ses : Nat) (s : Side) : Side :=
  if s.waiting.any (fun w => w.packet.session == ses) then
    setIdle ses { s with waiting := s.waiting.filter (fun w => w.packet.session != ses) }
  else s

/-- One steward core faults and is restarted (01 R36): what was delivered to it is delivered to another. -/
def coreFault (k : Fin 4) (s : Side) : Side :=
  let s := countHealth 0x32 (some k.val) 1 s
  let run := s.icu.cores[k]
  let s := icuWithdrawFrom k { s with icu := { s.icu with cores := s.icu.cores.set k {} } }
  { s with icu := { s.icu with cores := s.icu.cores.set k { run with awake := run.running } } }

/-- STEWARD_CORE_FAULT: the cores of `mask` fault together, `lost` names the session of a command that is lost. All four at once are
a cause of the chip safe state (01 R39), and none is restarted (19 R603). -/
def stewardFault (mask : Fin 16) (lost : Option Nat) (ch : Chip) : Chip :=
  if !ch.side.booted || ch.side.reset.isSome then ch
  else if mask.val = 15 then
    let ch := ch.onSide (fun s =>
      let s := (List.range 4).foldl (fun s k => countHealth 0x32 (some k) 1 s) s
      { s with icu := { s.icu with cores := Vector.replicate 4 {}, deliv := [] } })
    enterSafe .stewards ch
  else
    ch.onSide (fun s =>
      let s := (List.finRange 4).foldl (fun s k => if mask.val / 2 ^ k.val % 2 = 1 then coreFault k s else s) s
      match lost with
      | none => s
      | some n => loseCommand n s)

/-! ## Ring time to the cabinets (15 R486, R490; 12 R396) -/

/-- Offsets are delivered: while joined only with SYNC in use (R490). -/
def deliversOffsets (s : Side) : Bool := !s.joinedAny || s.syncOk

/-- The offset of a cabinet's count from ring time, in ticks. -/
def offsetOf (c : Cabinet) (s : Side) : Int := (c.tmr.count - s.ticks).toInt

/-- TIME_OFFSET_DELIVERY to cabinet `k`. -/
def deliverOffset (k : Fin 16) (ch : Chip) : Chip :=
  if deliversOffsets ch.side then ch.runCab k (fun c => offsetDelivery (offsetOf c ch.side) c) else ch

/-- FREE_RUN_OFFSET_TIMER (R490): joined to no ring, every cabinet. -/
def freeRunOffsets (ch : Chip) : Chip :=
  if ch.side.joinedAny then ch else (List.finRange 16).foldl (fun ch k => deliverOffset k ch) ch

/-! ## The test access port (20 R643 to R645) -/

/-- The instructions of the test access port (R643). -/
inductive TapInstr where
  | extest | sample | idcode | imgacc | bypass
  deriving DecidableEq, Repr

/-- The instruction that a code selects: every code the table does not give acts as BYPASS (R643). -/
def tapInstr (code : Nat) : TapInstr :=
  match code with
  | 0x00 => .extest
  | 0x01 => .sample
  | 0x02 => .idcode
  | 0x20 => .imgacc
  | _ => .bypass

/-- What the instruction register loads in Capture-IR (R643). -/
def tapCaptureIr : BitVec 8 := 0x01

/-- The width of an instruction's data register and what it loads in Capture-DR (R643, R644); IEEE 1149.1 has BYPASS load 0. The
boundary-scan register, whose cells the spec does not number, is left out. -/
def tapCaptureDr (i : TapInstr) (t : Tap) : Option (Nat × Nat) :=
  match i with
  | .idcode => some (32, 0x1D164A6D)
  | .imgacc => some (56, t.data.toNat * 2 ^ 22 + t.done.toNat * 2 ^ 54 + t.denied.toNat * 2 ^ 55)
  | .bypass => some (1, 0)
  | .extest => none
  | .sample => none

/-- EXTEST holds boundary-scan values for Ck_PWM cells, as pairs of cabinet × 8 + output and level; none: another instruction. -/
def extestSet (vals : Option (List (Nat × Nat))) (s : Side) : Side := { s with tap := { s.tap with extest := vals } }

/-- What the pin Ck_PWMi of cabinet `k` drives, `none` at high impedance: nothing while its I/O bank is off (19 R598) or in a power-on
or RESET_N reset (09 R334); else its output's level, or under EXTEST the boundary-scan value (1 high, 0 low, 2 high impedance) unless
the force stage forces the output (R645; log 97). -/
def pwmPin (k : Fin 16) (i : Nat) (ch : Chip) : Option Bool :=
  let c := ch.cabs[k]
  if !c.ioOk || ch.side.reset == some .powerOn || ch.side.reset == some .resetN then none
  else
    match ch.side.tap.extest with
    | none => outputLevel c i
    | some vs =>
      if c.forced then outputLevel c i
      else
        match assocGet (k.val * 8 + i) vs with
        | none => outputLevel c i
        | some 0 => some false
        | some 1 => some true
        | some _ => none

end Sys2Proof.Machine
end

