-- ==== Sys2Proof/Machine/Command.lean ====
section
/-!
DEFINITION. How a command acts on the state: on one cabinet, on the sideboard, on the chip, as an instruction of a core, as an access of
software to a register, as a command packet.
-/
namespace Sys2Proof.Machine

/-! ## Where a command acts -/

/-- The command acts on the chip; the queue stays. -/
def chipNext (f : Chip → Chip) (s : State) : Host.Outcome State Fault Refusal := .next { s with chip := f s.chip }

/-- The command acts on cabinet `k`; in a reset of class P it has no effect (19 R599). -/
def cabNext (k : Fin 16) (f : Cabinet → Cabinet) (s : State) : Host.Outcome State Fault Refusal := chipNext (Chip.runCab k f) s

/-- The command is an event of cabinet `k` that takes place only while its clocks run (19 R613). -/
def clockNext (k : Fin 16) (f : Cabinet → Cabinet) (s : State) : Host.Outcome State Fault Refusal :=
  cabNext k (fun c => if c.clocksRun then f c else c) s

/-- The command acts on the sideboard. -/
def sideNext (f : Side → Side) (s : State) : Host.Outcome State Fault Refusal := chipNext (Chip.onSide f) s

/-- The command acts on the sideboard unless a reset of class P is in progress. -/
def liveNext (f : Side → Side) (s : State) : Host.Outcome State Fault Refusal :=
  sideNext (fun d => if d.reset.isSome then d else f d) s

/-- The core of cabinet `k` executes the instruction `i` (05): its class, and what it does. -/
def coreNext (k : Fin 16) (i : Instr) (cls : Cls) (body : Cabinet → Ret) (s : State) : Host.Outcome State Fault Refusal :=
  cabNext k (issue k i cls body) s

/-! ## Accesses of software to registers (00 R6 to R10; 03 R106) -/

/-- Code at level `l` reaches the register at `a`. -/
def softReach (l : Level) (a : Nat) (c : Cabinet) : Bool :=
  region a == .regs && a % 4 == 0 && c.clocksRun && (l != .user || userReg c a false)

/-- A write of a register by software: the drain write of its store (R183, R654). One that its level does not reach is no write. -/
def softWrite (l : Level) (a : Nat) (w : Word) (c : Cabinet) : Cabinet :=
  if softReach l a c then drainRegister ⟨a, 4, w, l⟩ c else c

/-- A read of a register with its side effects (R187); the word stands in `rdata`. -/
def softRead (a : Nat) (c : Cabinet) : Cabinet := if c.clocksRun then regRead a c else c

/-! ## Pins and supplies of a cabinet -/

/-- An event at a pin of cabinet `k`. In a reset of class P only the level that the pin is left at counts: `level` sets it, and a
trip source that is active sets the latch again (09 R332). -/
def pinEvent (k : Fin 16) (act level : Cabinet → Cabinet) (ch : Chip) : Chip :=
  if ch.side.reset.isSome then settleCab k (retrip (level ch.cabs[k])) ch else ch.runCab k act

/-- CK_TRIP_N_LOW. -/
def tripPinEvent (k : Fin 16) (width : Option Nat) (ch : Chip) : Chip :=
  pinEvent k (tripPinLow width) (fun c => { c with pwm := { c.pwm with tripN := width.isSome } }) ch

/-- CK_EN_N_HIGH. -/
def enPinEvent (k : Fin 16) (width : Option Nat) (ch : Chip) : Chip :=
  pinEvent k (enPinHigh width) (fun c => settlePairs { c with pwm := { c.pwm with enN := width.isNone } }) ch

/-- VDDIO_Ck falls below its threshold or rises above it (19 R598): only the pins and SBD_IOSTAT change. -/
def ioBank (k : Fin 16) (ok : Bool) (ch : Chip) : Chip := ch.setCab k { ch.cabs[k] with ioOk := ok }

/-! ## Events between a cabinet and the sideboard -/

/-- STATUS_HEARTBEAT: the steps that waited for a command completed here may follow: those of a chip safe state (01 R40), or a reset that
waited for its reply. -/
def heartbeatEvent (k : Fin 16) (ch : Chip) : Chip := if ch.side.reset.isSome then ch else afterReset (finalCheck (heartbeatReceived k ch))

/-- WAKE_RESTORE (19 R615): the time base takes ring time. -/
def wakeRestoreEvent (k : Fin 16) (ch : Chip) : Chip := ch.runCab k (wakeRestore ch.side.ticks)

/-! ## Frames that carry commands, and own frames (15 R474, R479; 16 R516) -/

/-- COMMAND on ring `r` from node `src`: a LEN out of range is counted (R474), and a command is taken only once joined (15 R492)
and while firmware serves (17 R564; 01 R41). -/
def commandFrame (r : RingId) (src : Nat) (bs : List Byte) (ch : Chip) : Chip :=
  let ch := if (ch.side.ring r).listens then ch.onSide (hearOwn r src) else ch
  if bs.length < 16 ∨ bs.length > 1048 then ch.onSide (discardedFrame r)
  else if !ch.side.serving || !ch.side.joined r then ch
  else processBytes (.ring r src) bs (ch.onSide (portTakes (.ring r src)))

/-- OWN_FRAME_TRANSMIT: the last reply before a reset by command lets the device leave its rings (16 R522). -/
def transmitOwn (r : RingId) (ch : Chip) : Chip := afterReset (ch.onSide (ownTransmit r))

/-! ## Command packets by opcode -/

/-- The packet of a row: its opcode is the row's. -/
def packetNext (opc : Nat) (p : Packet) (s : State) : Host.Outcome State Fault Refusal := chipNext (arrive { p with opc := opc }) s

/-- The packet of a staging row: the function byte is the row's (16 R525; 18 R589). -/
def stagedNext (opc fn : Nat) (p : Packet) (s : State) : Host.Outcome State Fault Refusal :=
  packetNext opc { p with payload := BitVec.ofNat 8 fn :: p.payload.drop 1 } s

end Sys2Proof.Machine
end

