-- ==== Sys2Proof/Machine/ExecAlu.lean ====
section
/-!
DEFINITION. Integer instructions of the core's ALUs (spec/04_ezham_instruction_set.md R129 to R131).
-/
namespace Sys2Proof.Machine

/-- ADD (R129). Adds two data registers and sets Z N C V, trapping on overflow when OVE is set. -/
def execAdd (k rd rs : Fin 16) (s : State) : Host.Outcome State Fault Refusal :=
  coreNext k (.add k rd rs) .a (aluReg .add rd rs) s

/-- SUB (R129). Subtracts one data register from another and sets Z N C V. -/
def execSub (k rd rs : Fin 16) (s : State) : Host.Outcome State Fault Refusal :=
  coreNext k (.sub k rd rs) .a (aluReg .sub rd rs) s

/-- AND (R129). Bitwise AND of two data registers. -/
def execAnd (k rd rs : Fin 16) (s : State) : Host.Outcome State Fault Refusal :=
  coreNext k (.and k rd rs) .a (aluReg .and rd rs) s

/-- OR (R129). Bitwise OR of two data registers. -/
def execOr (k rd rs : Fin 16) (s : State) : Host.Outcome State Fault Refusal :=
  coreNext k (.or k rd rs) .a (aluReg .or rd rs) s

/-- XOR (R129). Bitwise XOR of two data registers. -/
def execXor (k rd rs : Fin 16) (s : State) : Host.Outcome State Fault Refusal :=
  coreNext k (.xor k rd rs) .a (aluReg .xor rd rs) s

/-- CMP (R129). Sets the flags of a subtraction without writing a register. -/
def execCmp (k rd rs : Fin 16) (s : State) : Host.Outcome State Fault Refusal :=
  coreNext k (.cmp k rd rs) .a (aluReg .cmp rd rs) s

/-- ADDC (R129). Adds two data registers and the carry flag. -/
def execAddc (k rd rs : Fin 16) (s : State) : Host.Outcome State Fault Refusal :=
  coreNext k (.addc k rd rs) .a (aluReg .addc rd rs) s

/-- SUBC (R129). Subtracts with borrow taken from the carry flag. -/
def execSubc (k rd rs : Fin 16) (s : State) : Host.Outcome State Fault Refusal :=
  coreNext k (.subc k rd rs) .a (aluReg .subc rd rs) s

/-- SHL (R129). Shifts a data register left by a register amount. -/
def execShl (k rd rs : Fin 16) (s : State) : Host.Outcome State Fault Refusal :=
  coreNext k (.shl k rd rs) .a (aluReg .shl rd rs) s

/-- SHR (R129). Shifts a data register right logically by a register amount. -/
def execShr (k rd rs : Fin 16) (s : State) : Host.Outcome State Fault Refusal :=
  coreNext k (.shr k rd rs) .a (aluReg .shr rd rs) s

/-- SAR (R129). Shifts a data register right arithmetically by a register amount. -/
def execSar (k rd rs : Fin 16) (s : State) : Host.Outcome State Fault Refusal :=
  coreNext k (.sar k rd rs) .a (aluReg .sar rd rs) s

/-- ROR (R129). Rotates a data register right by a register amount. -/
def execRor (k rd rs : Fin 16) (s : State) : Host.Outcome State Fault Refusal :=
  coreNext k (.ror k rd rs) .a (aluReg .ror rd rs) s

/-- MIN (R129). Writes the signed minimum of two data registers. -/
def execMin (k rd rs : Fin 16) (s : State) : Host.Outcome State Fault Refusal :=
  coreNext k (.min k rd rs) .a (aluReg .min rd rs) s

/-- MAX (R129). Writes the signed maximum of two data registers. -/
def execMax (k rd rs : Fin 16) (s : State) : Host.Outcome State Fault Refusal :=
  coreNext k (.max k rd rs) .a (aluReg .max rd rs) s

/-- ABS (R129). Writes the wrapping absolute value of a data register. -/
def execAbs (k rd rs : Fin 16) (s : State) : Host.Outcome State Fault Refusal :=
  coreNext k (.abs k rd rs) .a (aluReg .abs rd rs) s

/-- NEG (R129). Writes the two's-complement negation of a data register. -/
def execNeg (k rd rs : Fin 16) (s : State) : Host.Outcome State Fault Refusal :=
  coreNext k (.neg k rd rs) .a (aluReg .neg rd rs) s

/-- ADDI (R131). Adds a sign-extended 14-bit immediate to a data register. -/
def execAddi (k rd : Fin 16) (imm : BitVec 14) (s : State) : Host.Outcome State Fault Refusal :=
  coreNext k (.addi k rd imm) .a (aluImm .add rd (imm.signExtend 32)) s

/-- ANDI (R131). ANDs a zero-extended 14-bit immediate into a data register. -/
def execAndi (k rd : Fin 16) (imm : BitVec 14) (s : State) : Host.Outcome State Fault Refusal :=
  coreNext k (.andi k rd imm) .a (aluImm .and rd (imm.setWidth 32)) s

/-- ORI (R131). ORs a zero-extended 14-bit immediate into a data register. -/
def execOri (k rd : Fin 16) (imm : BitVec 14) (s : State) : Host.Outcome State Fault Refusal :=
  coreNext k (.ori k rd imm) .a (aluImm .or rd (imm.setWidth 32)) s

/-- CMPI (R131). Compares a data register with a sign-extended immediate. -/
def execCmpi (k rd : Fin 16) (imm : BitVec 14) (s : State) : Host.Outcome State Fault Refusal :=
  coreNext k (.cmpi k rd imm) .a (aluImm .cmp rd (imm.signExtend 32)) s

/-- SHLI (R131). Shifts a data register left by an immediate amount. -/
def execShli (k rd : Fin 16) (n : BitVec 5) (s : State) : Host.Outcome State Fault Refusal :=
  coreNext k (.shli k rd n) .a (aluImm .shl rd (n.setWidth 32)) s

/-- SHRI (R131). Shifts a data register right logically by an immediate amount. -/
def execShri (k rd : Fin 16) (n : BitVec 5) (s : State) : Host.Outcome State Fault Refusal :=
  coreNext k (.shri k rd n) .a (aluImm .shr rd (n.setWidth 32)) s

/-- SARI (R131). Shifts a data register right arithmetically by an immediate amount. -/
def execSari (k rd : Fin 16) (n : BitVec 5) (s : State) : Host.Outcome State Fault Refusal :=
  coreNext k (.sari k rd n) .a (aluImm .sar rd (n.setWidth 32)) s

/-- RORI (R131). Rotates a data register right by an immediate amount. -/
def execRori (k rd : Fin 16) (n : BitVec 5) (s : State) : Host.Outcome State Fault Refusal :=
  coreNext k (.rori k rd n) .a (aluImm .ror rd (n.setWidth 32)) s

/-- EXTB (R131). Sign-extends the low byte of a register. -/
def execExtb (k rd rs : Fin 16) (s : State) : Host.Outcome State Fault Refusal :=
  coreNext k (.extb k rd rs) .a (aluReg .extb rd rs) s

/-- EXTBU (R131). Zero-extends the low byte of a register. -/
def execExtbu (k rd rs : Fin 16) (s : State) : Host.Outcome State Fault Refusal :=
  coreNext k (.extbu k rd rs) .a (aluReg .extbu rd rs) s

/-- EXTH (R131). Sign-extends the low halfword of a register. -/
def execExth (k rd rs : Fin 16) (s : State) : Host.Outcome State Fault Refusal :=
  coreNext k (.exth k rd rs) .a (aluReg .exth rd rs) s

/-- EXTHU (R131). Zero-extends the low halfword of a register. -/
def execExthu (k rd rs : Fin 16) (s : State) : Host.Outcome State Fault Refusal :=
  coreNext k (.exthu k rd rs) .a (aluReg .exthu rd rs) s

/-- CLZ (R131). Counts the leading zero bits of a register. -/
def execClz (k rd rs : Fin 16) (s : State) : Host.Outcome State Fault Refusal :=
  coreNext k (.clz k rd rs) .a (aluReg .clz rd rs) s

/-- CLS (R131). Counts the leading sign bits of a register. -/
def execCls (k rd rs : Fin 16) (s : State) : Host.Outcome State Fault Refusal :=
  coreNext k (.cls k rd rs) .a (aluReg .cls rd rs) s

end Sys2Proof.Machine
end

