-- ==== Sys2Proof/Machine/ExecAnalog.lean ====
section
/-!
DEFINITION. Converters, tracker and comparators (spec/08_converters_and_comparators.md).
-/
namespace Sys2Proof.Machine

/-- TRACKER_UPDATE (R288). After a sample window the tracker updates its estimate for that update point. -/
def execTrackerUpdate (k : Fin 16) (half : Bool) (samples : List Int) (s : State) : Host.Outcome State Fault Refusal :=
  cabNext k (trackerUpdate half samples) s

/-- SPARE_MATCH_BLOCK (R275). After 16 counted sets the spare's offset is adjusted or the match fails. -/
def execSpareMatchBlock (k : Fin 16) (s : State) : Host.Outcome State Fault Refusal :=
  clockNext k matchBlock s

/-- CALIBRATION_COMPLETE (R273). A converter calibration ends, with trims updated or failure flagged. -/
def execCalibrationComplete (k : Fin 16) (refFail calFail : BitVec 5) (s : State) : Host.Outcome State Fault Refusal :=
  clockNext k (calibrationComplete refFail calFail) s

/-- SEQ_TRIGGER_OFFSET (R264). OFS cycles after U0 or U1 a sequencer entry is triggered. -/
def execSeqTriggerOffset (k : Fin 16) (n : Fin 8) (s : State) : Host.Outcome State Fault Refusal :=
  clockNext k (seqOffset n) s

/-- SEQ_CONVERSION_START (R265). A waiting sequencer request starts tracking once its converter is free. -/
def execSeqConversionStart (k : Fin 16) (n : Fin 8) (s : State) : Host.Outcome State Fault Refusal :=
  clockNext k (seqStart n) s

/-- SEQ_RESULT (R265). A sequencer conversion writes its code to CNV_RESn. -/
def execSeqResult (k : Fin 16) (n : Fin 8) (vd : Int) (s : State) : Host.Outcome State Fault Refusal :=
  clockNext k (seqResult n vd) s

/-- CNV_SEQSW_WRITE (R264). Software triggers the selected sequencer entries. -/
def execCnvSeqswWrite (k : Fin 16) (l : Level) (go : BitVec 8) (s : State) : Host.Outcome State Fault Refusal :=
  cabNext k (softWrite l 0x41084 (go.setWidth 32)) s

/-- CNV_RES_READ (R269). A read of a sequencer result clears VALID and OVW. -/
def execCnvResRead (k : Fin 16) (n : Fin 8) (s : State) : Host.Outcome State Fault Refusal :=
  cabNext k (softRead (0x41060 + 4 * n.val)) s

/-- CNV_CAL_START (R284). A calibration request by software, handled by cabinet state. -/
def execCnvCalStart (k : Fin 16) (l : Level) (s : State) : Host.Outcome State Fault Refusal :=
  cabNext k (softWrite l 0x4102C 4) s

/-- CNV_TRK_WRITE (R290). A tracker control write that may freeze or release the tracker. -/
def execCnvTrkWrite (k : Fin 16) (l : Level) (w : Word) (s : State) : Host.Outcome State Fault Refusal :=
  cabNext k (softWrite l 0x41008 w) s

/-- COMPARATOR_ASSERT (R294). A comparator side crosses its level and asserts. -/
def execComparatorAssert (k : Fin 16) (n : Fin 8) (low : Bool) (vd : Int) (s : State) : Host.Outcome State Fault Refusal :=
  cabNext k (cmprAssert n low vd) s

/-- COMPARATOR_DEASSERT (R294). A comparator side passes back through its hysteresis and deasserts. -/
def execComparatorDeassert (k : Fin 16) (n : Fin 8) (low : Bool) (vd : Int) (s : State) : Host.Outcome State Fault Refusal :=
  cabNext k (cmprDeassert n low vd) s

/-- BLANKING_END (R297). Blanking ends and a side still asserted acts. -/
def execBlankingEnd (k : Fin 16) (n : Fin 8) (trip : Bool) (s : State) : Host.Outcome State Fault Refusal :=
  clockNext k (blankingEnd n trip) s

end Sys2Proof.Machine
end

