-- ==== Sys2Proof/Machine/ExecBenchPort.lean ====
section
/-!
DEFINITION. The bench port (spec/15 R499 to R503).
-/
namespace Sys2Proof.Machine

/-- STATUS (R501). Bench-port STATUS transaction returns the status byte. -/
def execStatus (n : Nat) (s : State) : Host.Outcome State Fault Refusal :=
  sideNext (benchStatusTx n) s

/-- WRITE (R501). Bench-port WRITE passes a command packet to the packet engine. -/
def execWrite (bytes : List Byte) (s : State) : Host.Outcome State Fault Refusal :=
  chipNext (benchWrite bytes) s

/-- READ (R502). Bench-port READ returns and removes the waiting reply. -/
def execRead (n : Nat) (s : State) : Host.Outcome State Fault Refusal :=
  chipNext (benchReadEvent n) s

end Sys2Proof.Machine
end

