-- ==== Sys2Proof/Machine/ExecBranch.lean ====
section
/-!
DEFINITION. Branches and calls (spec/04_ezham_instruction_set.md R140 to R142).
-/
namespace Sys2Proof.Machine

/-- BCC (R140). Short conditional branch taken on the COND flags. -/
def execBcc (k cond : Fin 16) (off : BitVec 6) (s : State) : Host.Outcome State Fault Refusal :=
  coreNext k (.bcc k cond off) .b (bccBody cond.val (off.signExtend 32)) s

/-- BCC_L (R141). Long conditional branch with a 16-bit offset. -/
def execBccL (k : Fin 16) (cond : Fin 15) (off : BitVec 16) (s : State) : Host.Outcome State Fault Refusal :=
  coreNext k (.bccL k cond off) .b (bccBody cond.val (off.signExtend 32)) s

/-- CALL (R142). Pushes the return address and branches to a relative target. -/
def execCall (k : Fin 16) (off : BitVec 16) (s : State) : Host.Outcome State Fault Refusal :=
  coreNext k (.call k off) .b (callRelBody off) s

/-- CALLR (R142). Pushes the return address and branches to an address register. -/
def execCallr (k : Fin 16) (an : Fin 8) (s : State) : Host.Outcome State Fault Refusal :=
  coreNext k (.callr k an) .b (callRegBody an) s

/-- RET (R142). Pops a return address and continues there. -/
def execRet (k : Fin 16) (s : State) : Host.Outcome State Fault Refusal :=
  coreNext k (.ret k) .b retBody s

/-- JMP (R142). Continues at the address held in an address register. -/
def execJmp (k : Fin 16) (an : Fin 8) (s : State) : Host.Outcome State Fault Refusal :=
  coreNext k (.jmp k an) .b (jmpBody an) s

end Sys2Proof.Machine
end

