-- ==== Sys2Proof/Machine/ExecCabinet.lean ====
section
/-!
DEFINITION. Self-test, clocks and I/O banks of a cabinet (spec/01_cabinets_and_sideboard.md, spec/19 R598).
-/
namespace Sys2Proof.Machine

/-- SELF_TEST_COMPLETE (R285). A self-test ends with pass or fail and the cabinet leaves TEST. -/
def execSelfTestComplete (k : Fin 16) (cnv pwm : Word) (refFail calFail : BitVec 5) (s : State) :
    Host.Outcome State Fault Refusal :=
  cabNext k (selfTestComplete cnv pwm refFail calFail) s

/-- REFERENCE_CLOCK_LOSS (R42). No reference edge for 160 ns puts the cabinet PLL in holdover. -/
def execReferenceClockLoss (k : Fin 16) (s : State) : Host.Outcome State Fault Refusal :=
  cabNext k clockLoss s

/-- FREE_RUN_SWITCH (R43). After 10 ms of holdover the cabinet switches to its internal oscillator. -/
def execFreeRunSwitch (k : Fin 16) (s : State) : Host.Outcome State Fault Refusal :=
  cabNext k freeRunSwitch s

/-- RELOCK (R45). A reference continuous for 1 ms relocks the PLL and the cabinet switches back. -/
def execRelock (k : Fin 16) (s : State) : Host.Outcome State Fault Refusal :=
  cabNext k relock s

/-- IO_BANK_LOSS (R598). A VDDIO_Ck below threshold unpowers that cabinet's pins. -/
def execIoBankLoss (k : Fin 16) (s : State) : Host.Outcome State Fault Refusal :=
  chipNext (ioBank k false) s

/-- IO_BANK_RETURN (R598). A VDDIO_Ck rises back above its threshold, so the cabinet's pins are powered and drive again and
SBD_IOSTAT shows the bank present. -/
def execIoBankReturn (k : Fin 16) (s : State) : Host.Outcome State Fault Refusal :=
  chipNext (ioBank k true) s

end Sys2Proof.Machine
end

