-- ==== Sys2Proof/Machine/ExecCustom.lean ====
section
/-!
DEFINITION. Custom instructions (spec/07_custom_instructions.md R235 to R250).
-/
namespace Sys2Proof.Machine

/-- CX (R161). Executes a decode-table slot's micro-sequence, short form. -/
def execCx (k slot : Fin 16) (rd rs : Fin 8) (s : State) : Host.Outcome State Fault Refusal :=
  coreNext k (.cx k slot rd rs) .u (cxShortBody slot rd rs) s

/-- CX_L (R161). Executes a decode-table slot with four operands and an immediate. -/
def execCxL (k slot rd rs rt imm4 : Fin 16) (s : State) : Host.Outcome State Fault Refusal :=
  coreNext k (.cxL k slot rd rs rt imm4) .u (cxLongBody slot rd rs rt imm4) s

end Sys2Proof.Machine
end

