-- ==== Sys2Proof/Machine/ExecDelivery.lean ====
section
/-!
DEFINITION. Orders, reports, the ledger and two-party protection (spec/16 R526 to R538; spec/17; spec/18).
-/
namespace Sys2Proof.Machine

/-- ORDER_DISPATCH (R529). The sideboard dispatches the oldest eligible accepted order to the cabinet port. -/
def execOrderDispatch (k : Fin 16) (ring : Fin 128) (s : State) : Host.Outcome State Fault Refusal :=
  sideNext (orderDispatch k ring.val) s

/-- ORD_POP_READ (R537). Pops an available order into the order window. -/
def execOrdPopRead (k : Fin 16) (ring : Fin 128) (s : State) : Host.Outcome State Fault Refusal :=
  cabNext k (softRead (0x49C00 + 4 * ring.val)) s

/-- ORD_DONE_WRITE (R538). Confirms a popped order for the ledger. -/
def execOrdDoneWrite (k : Fin 16) (l : Level) (tag : Word) (s : State) : Host.Outcome State Fault Refusal :=
  cabNext k (softWrite l 0x49008 tag) s

/-- ORD_PUSH_WRITE (R533). Pushes a report onto a report ring or refuses it. -/
def execOrdPushWrite (k : Fin 16) (l : Level) (ring : Fin 128) (len : BitVec 9) (kind : BitVec 8) (s : State) : Host.Outcome State Fault Refusal :=
  cabNext k (softWrite l 0x49040 (natAt ring.val 0 ||| natAt len.toNat 8 ||| natAt kind.toNat 24)) s

/-- REPORT_TRANSMIT (R534). A SEND ring's report leaves as a REPORT frame under weighted round robin. -/
def execReportTransmit (s : State) : Host.Outcome State Fault Refusal :=
  chipNext (reportTransmit 33) s

/-- LEDGER_COMMIT (R551). An atomic ledger commit writes intent, mark and values. -/
def execLedgerCommit (ph : LedgerPhase) (retries : Nat) (bad : Bool) (s : State) : Host.Outcome State Fault Refusal :=
  chipNext (ledgerCommit ph retries bad) s

/-- RECOVERY_SCAN (R564). After a class P reset the ledger completes commits and holds interrupted entries. -/
def execRecoveryScan (bad : List Nat) (s : State) : Host.Outcome State Fault Refusal :=
  chipNext (recoveryScan bad) s

/-- CONFIRMATION_WINDOW_EXPIRY (R578). A proposal's window ends and it closes as expired. -/
def execConfirmationWindowExpiry (n : Nat) (s : State) : Host.Outcome State Fault Refusal :=
  sideNext (windowExpiry n) s

/-- KEY_N_FALL (R585). KEY_N falls after a proposal is recorded. -/
def execKeyNFall (s : State) : Host.Outcome State Fault Refusal :=
  sideNext keyFall s

/-- KEY_N_CONFIRM (R585). KEY_N held low for 1 s confirms the KEYOK proposal. -/
def execKeyNConfirm (s : State) : Host.Outcome State Fault Refusal :=
  chipNext keyConfirm s

end Sys2Proof.Machine
end

