-- ==== Sys2Proof/Machine/ExecDrawers.lean ====
section
/-!
DEFINITION. Drawers (spec/11_drawers.md).
-/
namespace Sys2Proof.Machine

/-- DRAWER_STEP (R369). A drawer samples its selected inputs and executes the indexed table entry. -/
def execDrawerStep (k : Fin 16) (n : Fin 4) (levels : BitVec 12) (s : State) : Host.Outcome State Fault Refusal :=
  clockNext k (drwStep n levels.toNat) s

/-- BIT (R375). Gathers and/or sends one bit. -/
def execBit (k : Fin 16) (n : Fin 4) (arg : BitVec 8) (oe out : Fin 16) (next : Fin 64) (s : State) : Host.Outcome State Fault Refusal :=
  clockNext k (drwAction n 1 arg.toNat oe.val out.val next.val) s

/-- DEPOSIT (R376). Writes GATH to the inbound queue and/or FBK_EXTPOS and clears it. -/
def execDeposit (k : Fin 16) (n : Fin 4) (arg : BitVec 8) (oe out : Fin 16) (next : Fin 64) (s : State) : Host.Outcome State Fault Refusal :=
  clockNext k (drwAction n 2 arg.toNat oe.val out.val next.val) s

/-- FETCH (R374). Loads SEND from the outbound queue. -/
def execFetch (k : Fin 16) (n : Fin 4) (oe out : Fin 16) (next : Fin 64) (s : State) : Host.Outcome State Fault Refusal :=
  clockNext k (drwAction n 3 0 oe.val out.val next.val) s

/-- FLAG (R374). Sets a drawer flag. -/
def execFlag (k : Fin 16) (n : Fin 4) (arg : BitVec 8) (oe out : Fin 16) (next : Fin 64) (s : State) : Host.Outcome State Fault Refusal :=
  clockNext k (drwAction n 4 arg.toNat oe.val out.val next.val) s

/-- RAISE (R374). Sets a RAISE cause and/or other drawers' interrupt-line latches. -/
def execRaise (k : Fin 16) (n : Fin 4) (arg : BitVec 8) (oe out : Fin 16) (next : Fin 64) (s : State) : Host.Outcome State Fault Refusal :=
  clockNext k (drwAction n 5 arg.toNat oe.val out.val next.val) s

/-- WAIT (R374). Holds the entry for ARG plus one steps. -/
def execWait (k : Fin 16) (n : Fin 4) (arg : BitVec 8) (oe out : Fin 16) (next : Fin 64) (s : State) : Host.Outcome State Fault Refusal :=
  clockNext k (drwAction n 6 arg.toNat oe.val out.val next.val) s

/-- WAIT_END (R374). A drawer WAIT's count expires and the drawer enters NEXT. -/
def execWaitEnd (k : Fin 16) (n : Fin 4) (s : State) : Host.Outcome State Fault Refusal :=
  clockNext k (waitEnd n) s

/-- STOP (R374). Applies outputs and stops the drawer. -/
def execStop (k : Fin 16) (n : Fin 4) (oe out : Fin 16) (next : Fin 64) (s : State) : Host.Outcome State Fault Refusal :=
  clockNext k (drwAction n 7 0 oe.val out.val next.val) s

/-- STALL_COMPLETE (R377). A stalled step completes once its queue or buffer condition is met. -/
def execStallComplete (k : Fin 16) (n : Fin 4) (s : State) : Host.Outcome State Fault Refusal :=
  clockNext k (stallComplete n) s

/-- STALL_LIMIT (R378). A stall lasting LIMIT drawer clocks sets STALLn. -/
def execStallLimit (k : Fin 16) (n : Fin 4) (s : State) : Host.Outcome State Fault Refusal :=
  clockNext k (stallLimit n) s

/-- DRW_RUN_START (R381). Setting RUN starts a drawer at the written state. -/
def execDrwRunStart (k : Fin 16) (l : Level) (n : Fin 4) (state : Fin 64) (s : State) : Host.Outcome State Fault Refusal :=
  cabNext k (softWrite l (0x44000 + 64 * n.val) (natAt state.val 8 ||| 1)) s

/-- DRW_RUN_STOP (R380). Clearing RUN stops a drawer and keeps its state. -/
def execDrwRunStop (k : Fin 16) (l : Level) (n : Fin 4) (s : State) : Host.Outcome State Fault Refusal :=
  cabNext k (softWrite l (0x44000 + 64 * n.val) 0) s

/-- DRW_FLUSH (R393). Empties both queues of a stopped drawer. -/
def execDrwFlush (k : Fin 16) (l : Level) (n : Fin 4) (s : State) : Host.Outcome State Fault Refusal :=
  cabNext k (softWrite l (0x44000 + 64 * n.val) 2) s

/-- DRW_OUTQ_WRITE (R379). Appends a word to the outbound queue. -/
def execDrwOutqWrite (k : Fin 16) (l : Level) (n : Fin 4) (w : Word) (s : State) : Host.Outcome State Fault Refusal :=
  cabNext k (softWrite l (0x44010 + 64 * n.val) w) s

/-- DRW_INQ_READ (R379). Pops the oldest inbound-queue word. -/
def execDrwInqRead (k : Fin 16) (n : Fin 4) (s : State) : Host.Outcome State Fault Refusal :=
  cabNext k (softRead (0x44014 + 64 * n.val)) s

/-- DRW_TDATA_WRITE (R383). Writes a table word and increments ADDR. -/
def execDrwTdataWrite (k : Fin 16) (l : Level) (n : Fin 4) (w : Word) (s : State) : Host.Outcome State Fault Refusal :=
  cabNext k (softWrite l (0x44024 + 64 * n.val) w) s

/-- DRW_TDATA_READ (R383). Reads a table word and increments ADDR. -/
def execDrwTdataRead (k : Fin 16) (n : Fin 4) (s : State) : Host.Outcome State Fault Refusal :=
  cabNext k (softRead (0x44024 + 64 * n.val)) s

end Sys2Proof.Machine
end

