-- ==== Sys2Proof/Machine/ExecFeedback.lean ====
section
/-!
DEFINITION. Position feedback (spec/10_position_and_speed_feedback.md).
-/
namespace Sys2Proof.Machine

/-- HALL_TRANSITION (R342). A filtered Hall state change counts, records timing or is judged illegal. -/
def execHallTransition (k : Fin 16) (xs : List (Fin 8)) (s : State) : Host.Outcome State Fault Refusal :=
  cabNext k (hallTransition xs) s

/-- TOOTH_EDGE (R350). A tooth edge is tested as regular, gap or extra and counted. -/
def execToothEdge (k : Fin 16) (xs : List Bool) (s : State) : Host.Outcome State Fault Refusal :=
  cabNext k (toothEdge xs) s

/-- FBK_EXTPOS_WRITE (R358). Software writes the external position. -/
def execFbkExtposWrite (k : Fin 16) (l : Level) (w : Word) (s : State) : Host.Outcome State Fault Refusal :=
  cabNext k (softWrite l 0x43040 w) s

/-- FBK_POS_WRITE (R362). Software writes a position count, adding any coincident count. -/
def execFbkPosWrite (k : Fin 16) (l : Level) (w : Word) (s : State) : Host.Outcome State Fault Refusal :=
  cabNext k (softWrite l 0x43010 w) s

/-- FBK_CFG_WRITE (R363). A feedback mode change resets sync and period. -/
def execFbkCfgWrite (k : Fin 16) (l : Level) (w : Word) (s : State) : Host.Outcome State Fault Refusal :=
  cabNext k (softWrite l 0x43000 w) s

/-- FBK_TCFG_WRITE (R363). A tooth configuration write that resets TSYNC. -/
def execFbkTcfgWrite (k : Fin 16) (l : Level) (w : Word) (s : State) : Host.Outcome State Fault Refusal :=
  cabNext k (softWrite l 0x43004 w) s

/-- FBK_EDGETSL_READ (R367). A timestamp read that latches the high half. -/
def execFbkEdgetslRead (k : Fin 16) (s : State) : Host.Outcome State Fault Refusal :=
  cabNext k (softRead 0x43028) s

/-- POSITION_BUFFER_WRITE (R387). The drawer's position buffer is written to FBK_EXTPOS. -/
def execPositionBufferWrite (k : Fin 16) (n : Fin 4) (lost : Bool) (s : State) : Host.Outcome State Fault Refusal :=
  clockNext k (posBufWrite n lost) s

end Sys2Proof.Machine
end

