-- ==== Sys2Proof/Machine/ExecFloat.lean ====
section
/-!
DEFINITION. Float instructions (spec/04_ezham_instruction_set.md R143 to R145).
-/
namespace Sys2Proof.Machine

/-- FADD (R143). Binary32 addition. -/
def execFadd (k rd rs : Fin 16) (s : State) : Host.Outcome State Fault Refusal :=
  coreNext k (.fadd k rd rs) .f (float2Body fadd rd rs) s

/-- FSUB (R143). Binary32 subtraction. -/
def execFsub (k rd rs : Fin 16) (s : State) : Host.Outcome State Fault Refusal :=
  coreNext k (.fsub k rd rs) .f (float2Body fsub rd rs) s

/-- FMUL (R143). Binary32 multiplication. -/
def execFmul (k rd rs : Fin 16) (s : State) : Host.Outcome State Fault Refusal :=
  coreNext k (.fmul k rd rs) .f (float2Body fmul rd rs) s

/-- FNEG (R143). Inverts the sign bit of a binary32 value. -/
def execFneg (k rd : Fin 16) (s : State) : Host.Outcome State Fault Refusal :=
  coreNext k (.fneg k rd) .f (float1Body fneg rd) s

/-- FABS (R143). Clears the sign bit of a binary32 value. -/
def execFabs (k rd : Fin 16) (s : State) : Host.Outcome State Fault Refusal :=
  coreNext k (.fabs k rd) .f (float1Body fabs rd) s

/-- FCVT_WS (R143). Converts binary32 to a saturated signed integer. -/
def execFcvtWs (k rd : Fin 16) (s : State) : Host.Outcome State Fault Refusal :=
  coreNext k (.fcvtWs k rd) .f (float1Body (fcvtInt 0) rd) s

/-- FCVT_SW (R143). Converts a signed integer to binary32. -/
def execFcvtSw (k rd : Fin 16) (s : State) : Host.Outcome State Fault Refusal :=
  coreNext k (.fcvtSw k rd) .f (float1Body (fcvtFloat 0) rd) s

/-- FCVT_QS (R143). Converts binary32 to saturated Q1.31. -/
def execFcvtQs (k rd : Fin 16) (s : State) : Host.Outcome State Fault Refusal :=
  coreNext k (.fcvtQs k rd) .f (float1Body (fcvtInt 31) rd) s

/-- FCVT_SQ (R143). Converts Q1.31 to binary32. -/
def execFcvtSq (k rd : Fin 16) (s : State) : Host.Outcome State Fault Refusal :=
  coreNext k (.fcvtSq k rd) .f (float1Body (fcvtFloat 31) rd) s

/-- FCMP (R144). Compares two binary32 values and sets the flags. -/
def execFcmp (k rd rs : Fin 16) (s : State) : Host.Outcome State Fault Refusal :=
  coreNext k (.fcmp k rd rs) .f (fcmpBody rd rs) s

/-- FMIN (R143). Writes the lesser of two binary32 values. -/
def execFmin (k rd rs : Fin 16) (s : State) : Host.Outcome State Fault Refusal :=
  coreNext k (.fmin k rd rs) .f (float2Body (fminmax false) rd rs) s

/-- FMAX (R143). Writes the greater of two binary32 values. -/
def execFmax (k rd rs : Fin 16) (s : State) : Host.Outcome State Fault Refusal :=
  coreNext k (.fmax k rd rs) .f (float2Body (fminmax true) rd rs) s

/-- FMADD (R143). Fused binary32 multiply-add rounded once. -/
def execFmadd (k rd rs rt : Fin 16) (s : State) : Host.Outcome State Fault Refusal :=
  coreNext k (.fmadd k rd rs rt) .f (fmaddBody rd rs rt) s

end Sys2Proof.Machine
end

