-- ==== Sys2Proof/Machine/ExecFrame.lean ====
section
/-!
DEFINITION. Events of the frame and the loop path, and heartbeats (spec/02_the_frame.md; spec/01 R30, R31).
-/
namespace Sys2Proof.Machine

/-- FRAME_BOUNDARY (R77). The carrier reaches 0 and the frame-boundary events take effect in order. -/
def execFrameBoundary (k : Fin 16) (s : State) : Host.Outcome State Fault Refusal :=
  cabNext k frameBoundary s

/-- DUMP_RECORD_COMPLETE (R457). The dump engine finishes writing or pushing a record and sets SEQ and DUMP. -/
def execDumpRecordComplete (k : Fin 16) (s : State) : Host.Outcome State Fault Refusal :=
  clockNext k dumpComplete s

/-- HEARTBEAT_PERIOD (R30). A cabinet whose frame does not run sends a heartbeat at the end of each FLEN period. -/
def execHeartbeatPeriod (k : Fin 16) (s : State) : Host.Outcome State Fault Refusal :=
  cabNext k heartbeatPeriod s

/-- STATUS_HEARTBEAT (R30). The sideboard receives a cabinet heartbeat and updates its copy of the cabinet's state. -/
def execStatusHeartbeat (k : Fin 16) (s : State) : Host.Outcome State Fault Refusal :=
  chipNext (heartbeatEvent k) s

/-- HEARTBEAT_LOSS (R31). Four heartbeat periods pass without a heartbeat and the loss is counted. -/
def execHeartbeatLoss (k : Fin 16) (s : State) : Host.Outcome State Fault Refusal :=
  liveNext (heartbeatLoss k) s

/-- UPDATE_POINT_U1 (R49). The carrier reaches the U1 update point in double update. -/
def execUpdatePointU1 (k : Fin 16) (s : State) : Host.Outcome State Fault Refusal :=
  cabNext k updatePointU1 s

/-- SAMPLE_INSTANT (R51). The four active converters hold their inputs and supervisory issue stops. -/
def execSampleInstant (k : Fin 16) (vd : Vector Int 8) (s : State) : Host.Outcome State Fault Refusal :=
  cabNext k (sampleInstant vd) s

/-- SUPERVISORY_DISCARD (R60). At cycle -20 unretired supervisory instructions are discarded and the store buffer drains. -/
def execSupervisoryDiscard (k : Fin 16) (s : State) : Host.Outcome State Fault Refusal :=
  cabNext k supervisoryDiscard s

/-- SAMPLE_SET_COMPLETE (R52). Results reach s0 to s3 and a run is dispatched, or NORUN sets. -/
def execSampleSetComplete (k : Fin 16) (s : State) : Host.Outcome State Fault Refusal :=
  cabNext k sampleComplete s

/-- FRAME_GUARD (R67). No DUTY retired by LOOP_DEADLINE, so the guard counts an overrun and applies the fallback. -/
def execFrameGuard (k : Fin 16) (s : State) : Host.Outcome State Fault Refusal :=
  cabNext k frameGuard s

/-- DUTY_PORT_COMMIT (R309). Duty registers and shadow registers take the committed values. -/
def execDutyPortCommit (k : Fin 16) (s : State) : Host.Outcome State Fault Refusal :=
  cabNext k portCommitAt s

/-- SHADOW_LATCH (R309). Shadow registers latch into the carrier compares, possibly releasing the outputs. -/
def execShadowLatch (k : Fin 16) (s : State) : Host.Outcome State Fault Refusal :=
  cabNext k shadowLatchAt s

end Sys2Proof.Machine
end

