-- ==== Sys2Proof/Machine/ExecInterrupts.lean ====
section
/-!
DEFINITION. The interrupt controller, parity, performance counters, the decode table and registers without a row of their own (spec/12, 13, 14, 07, 00 R8).
-/
namespace Sys2Proof.Machine

/-- ICU_CLAIM_READ (R415). Claims the highest-priority pending source and puts it in service. -/
def execIcuClaimRead (k : Fin 16) (s : State) : Host.Outcome State Fault Refusal :=
  cabNext k (softRead 0x46204) s

/-- ICU_COMPLETE_WRITE (R416). Takes a source out of service and relatches a high input. -/
def execIcuCompleteWrite (k : Fin 16) (l : Level) (n : Fin 128) (s : State) : Host.Outcome State Fault Refusal :=
  cabNext k (softWrite l 0x46208 (natAt n.val 0)) s

/-- ICU_SWSET_WRITE (R411). Pulses software interrupt sources. -/
def execIcuSwsetWrite (k : Fin 16) (l : Level) (set : BitVec 8) (s : State) : Host.Outcome State Fault Refusal :=
  cabNext k (softWrite l 0x46220 (set.setWidth 32)) s

/-- PAR_TEST_WRITE (R444). A parity test control write, denied in normal service. -/
def execParTestWrite (k : Fin 16) (l : Level) (inj mcen : Bool) (s : State) : Host.Outcome State Fault Refusal :=
  cabNext k (softWrite l 0x47020 (boolAt inj 0 ||| boolAt mcen 1)) s

/-- PAR_BUCKET_WRITE (R445). Sets the bucket count, combining a coincident event or leak. -/
def execParBucketWrite (k : Fin 16) (l : Level) (count : BitVec 16) (s : State) : Host.Outcome State Fault Refusal :=
  cabNext k (softWrite l 0x47000 (count.setWidth 32)) s

/-- PRF_CNTL_READ (R453). Reads a counter's low bits and latches its high bits. -/
def execPrfCntlRead (k : Fin 16) (n : Fin 64) (s : State) : Host.Outcome State Fault Refusal :=
  cabNext k (softRead (0x48200 + 8 * n.val)) s

/-- PRF_CNTL_WRITE (R453). Holds a counter's low half. -/
def execPrfCntlWrite (k : Fin 16) (l : Level) (n : Fin 64) (w : Word) (s : State) : Host.Outcome State Fault Refusal :=
  cabNext k (softWrite l (0x48200 + 8 * n.val) w) s

/-- PRF_CNTH_WRITE (R453). Sets a counter from the written and held halves. -/
def execPrfCnthWrite (k : Fin 16) (l : Level) (n : Fin 64) (w : Word) (s : State) : Host.Outcome State Fault Refusal :=
  cabNext k (softWrite l (0x48204 + 8 * n.val) w) s

/-- PRF_DUMP_AREA_WRITE (R460). A dump base or length write resets the dump pointer. -/
def execPrfDumpAreaWrite (k : Fin 16) (l : Level) (len : Bool) (w : Word) (s : State) : Host.Outcome State Fault Refusal :=
  cabNext k (softWrite l (if len then 0x48088 else 0x48084) w) s

/-- PRF_SMPSTAT_CLR (R465). Resets the sampling index, count and period. -/
def execPrfSmpstatClr (k : Fin 16) (l : Level) (s : State) : Host.Outcome State Fault Refusal :=
  cabNext k (softWrite l 0x480C4 0x2000) s

/-- PRECISE_SAMPLE (R463). A sampled retired instruction is written into the sampling buffer. -/
def execPreciseSample (k : Fin 16) (s : State) : Host.Outcome State Fault Refusal :=
  clockNext k smpStore s

/-- DEC_SLOT_VALIDATE (R243). Writing VALID = 1 validates a decode-table slot. -/
def execDecSlotValidate (k : Fin 16) (l : Level) (n : Fin 16) (start : BitVec 8) (lenm1 : Fin 16) (fs : Bool) (s : State) : Host.Outcome State Fault Refusal :=
  cabNext k (softWrite l (0x4A000 + 4 * n.val) (natAt start.toNat 0 ||| natAt lenm1.val 8 ||| boolAt fs 12 ||| 0x10000)) s

/-- DEC_SLOT_INVALIDATE (R254). Writing VALID = 0 invalidates a slot. -/
def execDecSlotInvalidate (k : Fin 16) (l : Level) (n : Fin 16) (start : BitVec 8) (lenm1 : Fin 16) (fs : Bool) (s : State) : Host.Outcome State Fault Refusal :=
  cabNext k (softWrite l (0x4A000 + 4 * n.val) (natAt start.toNat 0 ||| natAt lenm1.val 8 ||| boolAt fs 12)) s

/-- CAB_BANKSEL_REQ_WRITE (R87). Requests or cancels a bank swap from Machine code. -/
def execCabBankselReqWrite (k : Fin 16) (l : Level) (req : Bool) (s : State) : Host.Outcome State Fault Refusal :=
  cabNext k (softWrite l 0x40024 (boolAt req 1)) s

/-- REGISTER_WRITE (R8). A write to a register without its own row, under its access code. -/
def execRegisterWrite (k : Fin 16) (l : Level) (a : Nat) (w : Word) (s : State) : Host.Outcome State Fault Refusal :=
  cabNext k (softWrite l a w) s

/-- COUNTER_WRAP (R448). A 48-bit performance counter wraps from its maximum to 0 and sets its PRF_OVF bit and the OVF cause. -/
def execCounterWrap (k : Fin 16) (n : Fin 64) (s : State) : Host.Outcome State Fault Refusal :=
  clockNext k (counterWrap n) s

end Sys2Proof.Machine
end

