-- ==== Sys2Proof/Machine/ExecLong.lean ====
section
/-!
DEFINITION. Long operations (spec/04_ezham_instruction_set.md R146 to R149).
-/
namespace Sys2Proof.Machine

/-- DIV (R146). Signed division stalling issue for 20 cycles. -/
def execDiv (k rd rs : Fin 16) (s : State) : Host.Outcome State Fault Refusal :=
  coreNext k (.div k rd rs) .s (divBody .div rd rs) s

/-- DIVU (R146). Unsigned division. -/
def execDivu (k rd rs : Fin 16) (s : State) : Host.Outcome State Fault Refusal :=
  coreNext k (.divu k rd rs) .s (divBody .divu rd rs) s

/-- SINCOS (R147). Computes sine and cosine of an angle into a register pair. -/
def execSincos (k rd rs : Fin 16) (s : State) : Host.Outcome State Fault Refusal :=
  coreNext k (.sincos k rd rs) .s (sincosBody rd rs) s

/-- ATAN2 (R147). Computes the angle of a register pair. -/
def execAtan2 (k rd rs : Fin 16) (s : State) : Host.Outcome State Fault Refusal :=
  coreNext k (.atan2 k rd rs) .s (atan2Body rd rs) s

/-- SQRT (R146). Q1.31 square root. -/
def execSqrt (k rd rs : Fin 16) (s : State) : Host.Outcome State Fault Refusal :=
  coreNext k (.sqrt k rd rs) .s (long1Body false 14 sqrtq rd rs) s

/-- DIVQ (R146). Saturating Q1.31 division. -/
def execDivq (k rd rs : Fin 16) (s : State) : Host.Outcome State Fault Refusal :=
  coreNext k (.divq k rd rs) .s (long2Body false 20 divq rd rs) s

/-- FDIV (R146). Binary32 division. -/
def execFdiv (k rd rs : Fin 16) (s : State) : Host.Outcome State Fault Refusal :=
  coreNext k (.fdiv k rd rs) .s (long2Body true 20 fdiv rd rs) s

/-- FSQRT (R146). Binary32 square root. -/
def execFsqrt (k rd rs : Fin 16) (s : State) : Host.Outcome State Fault Refusal :=
  coreNext k (.fsqrt k rd rs) .s (long1Body true 14 fsqrt rd rs) s

/-- REM (R146). Signed remainder. -/
def execRem (k rd rs : Fin 16) (s : State) : Host.Outcome State Fault Refusal :=
  coreNext k (.rem k rd rs) .s (divBody .rem rd rs) s

/-- REMU (R146). Unsigned remainder. -/
def execRemu (k rd rs : Fin 16) (s : State) : Host.Outcome State Fault Refusal :=
  coreNext k (.remu k rd rs) .s (divBody .remu rd rs) s

end Sys2Proof.Machine
end

