-- ==== Sys2Proof/Machine/ExecLoop.lean ====
section
/-!
DEFINITION. The loop-path and transform instructions (spec/04_ezham_instruction_set.md R150 to R153).
-/
namespace Sys2Proof.Machine

/-- SMPRD (R150). Copies a sample register into a data register. -/
def execSmprd (k rd : Fin 16) (n : Fin 4) (s : State) : Host.Outcome State Fault Refusal :=
  coreNext k (.smprd k rd n) .a (smprdBody rd n) s

/-- DUTY (R151). Passes duty values to the duty port as the run's commit. -/
def execDuty (k : Fin 16) (g : Fin 4) (mask : Fin 16) (s : State) : Host.Outcome State Fault Refusal :=
  coreNext k (.duty k g mask) .a (dutyBody g mask) s

/-- WAITF (R64). Ends a run, or holds supervisory issue until the end of the next run. -/
def execWaitf (k : Fin 16) (s : State) : Host.Outcome State Fault Refusal :=
  coreNext k (.waitf k) .y waitfBody s

/-- XFORM_CLARKE3 (R152). Three-phase Clarke transform in place. -/
def execXformClarke3 (k : Fin 16) (g : Fin 4) (s : State) : Host.Outcome State Fault Refusal :=
  coreNext k (.xformClarke3 k g) .s (xformBody xformClarke3 4 3 2 g) s

/-- XFORM_CLARKE2 (R152). Two-input Clarke transform in place. -/
def execXformClarke2 (k : Fin 16) (g : Fin 4) (s : State) : Host.Outcome State Fault Refusal :=
  coreNext k (.xformClarke2 k g) .s (xformBody xformClarke2 4 2 2 g) s

/-- XFORM_PARK (R152). Park transform from an angle. -/
def execXformPark (k : Fin 16) (g : Fin 4) (s : State) : Host.Outcome State Fault Refusal :=
  coreNext k (.xformPark k g) .s (xformBody xformPark 6 3 2 g) s

/-- XFORM_IPARK (R152). Inverse Park transform from an angle. -/
def execXformIpark (k : Fin 16) (g : Fin 4) (s : State) : Host.Outcome State Fault Refusal :=
  coreNext k (.xformIpark k g) .s (xformBody xformIpark 6 3 2 g) s

/-- XFORM_PARKSC (R152). Park transform from given sine and cosine. -/
def execXformParksc (k : Fin 16) (g : Fin 4) (s : State) : Host.Outcome State Fault Refusal :=
  coreNext k (.xformParksc k g) .s (xformBody xformParksc 4 4 2 g) s

/-- XFORM_IPARKSC (R152). Inverse Park transform from given sine and cosine. -/
def execXformIparksc (k : Fin 16) (g : Fin 4) (s : State) : Host.Outcome State Fault Refusal :=
  coreNext k (.xformIparksc k g) .s (xformBody xformIparksc 4 4 2 g) s

/-- XFORM_SVT (R153). Space-vector sector and times. -/
def execXformSvt (k : Fin 16) (g : Fin 4) (s : State) : Host.Outcome State Fault Refusal :=
  coreNext k (.xformSvt k g) .s (xformBody xformSvt 8 2 4 g) s

end Sys2Proof.Machine
end

