-- ==== Sys2Proof/Machine/ExecMac.lean ====
section
/-!
DEFINITION. Multiply-accumulate and saturating instructions (spec/04_ezham_instruction_set.md R132 to R135).
-/
namespace Sys2Proof.Machine

/-- MAC_Q (R132). Adds a Q1.31 product into acc0 or acc1. -/
def execMacQ (k : Fin 16) (x : Fin 2) (ra rb : Fin 16) (s : State) : Host.Outcome State Fault Refusal :=
  coreNext k (.macQ k x ra rb) .m (macBody .macQ x ra rb) s

/-- MSU_Q (R132). Subtracts a Q1.31 product from acc0 or acc1. -/
def execMsuQ (k : Fin 16) (x : Fin 2) (ra rb : Fin 16) (s : State) : Host.Outcome State Fault Refusal :=
  coreNext k (.msuQ k x ra rb) .m (macBody .msuQ x ra rb) s

/-- MULQ_S (R132). Saturating rounded Q1.31 multiply into a data register. -/
def execMulqS (k rd rs : Fin 16) (s : State) : Host.Outcome State Fault Refusal :=
  coreNext k (.mulqS k rd rs) .m (mulBody mulqs rd rs) s

/-- ADDQ_S (R132). Saturating addition of two data registers. -/
def execAddqS (k rd rs : Fin 16) (s : State) : Host.Outcome State Fault Refusal :=
  coreNext k (.addqS k rd rs) .a (aluReg .addqs rd rs) s

/-- SUBQ_S (R132). Saturating subtraction of two data registers. -/
def execSubqS (k rd rs : Fin 16) (s : State) : Host.Outcome State Fault Refusal :=
  coreNext k (.subqS k rd rs) .a (aluReg .subqs rd rs) s

/-- RDT (R133). Reads accumulator bits [63:32] truncated and saturated. -/
def execRdt (k rd : Fin 16) (x : Fin 2) (s : State) : Host.Outcome State Fault Refusal :=
  coreNext k (.rdt k rd x) .m (accReadBody .rdt rd x) s

/-- RDR (R133). Reads accumulator bits [63:32] rounded and saturated. -/
def execRdr (k rd : Fin 16) (x : Fin 2) (s : State) : Host.Outcome State Fault Refusal :=
  coreNext k (.rdr k rd x) .m (accReadBody .rdr rd x) s

/-- RDL (R133). Reads accumulator bits [31:0]. -/
def execRdl (k rd : Fin 16) (x : Fin 2) (s : State) : Host.Outcome State Fault Refusal :=
  coreNext k (.rdl k rd x) .m (accReadBody .rdl rd x) s

/-- RDI (R133). Reads the accumulator as a saturated 32-bit integer. -/
def execRdi (k rd : Fin 16) (x : Fin 2) (s : State) : Host.Outcome State Fault Refusal :=
  coreNext k (.rdi k rd x) .m (accReadBody .rdi rd x) s

/-- RDG (R133). Reads the sign-extended guard bits of an accumulator. -/
def execRdg (k rd : Fin 16) (x : Fin 2) (s : State) : Host.Outcome State Fault Refusal :=
  coreNext k (.rdg k rd x) .m (accReadBody .rdg rd x) s

/-- WRQ (R133). Writes a data register into an accumulator as Q1.31. -/
def execWrq (k : Fin 16) (x : Fin 2) (rd : Fin 16) (s : State) : Host.Outcome State Fault Refusal :=
  coreNext k (.wrq k x rd) .m (wrqBody x rd) s

/-- WRI (R133). Writes a sign-extended data register into an accumulator. -/
def execWri (k : Fin 16) (x : Fin 2) (rd : Fin 16) (s : State) : Host.Outcome State Fault Refusal :=
  coreNext k (.wri k x rd) .m (wriBody x rd) s

/-- CLR (R133). Clears an accumulator. -/
def execClr (k : Fin 16) (x : Fin 2) (dst : Fin 16) (s : State) : Host.Outcome State Fault Refusal :=
  coreNext k (.clr k x dst) .m (clrBody x dst) s

/-- MAC_I (R134). Adds a signed integer product into an accumulator. -/
def execMacI (k : Fin 16) (x : Fin 2) (ra rb : Fin 16) (s : State) : Host.Outcome State Fault Refusal :=
  coreNext k (.macI k x ra rb) .m (macBody .macI x ra rb) s

/-- MSU_I (R134). Subtracts a signed integer product from an accumulator. -/
def execMsuI (k : Fin 16) (x : Fin 2) (ra rb : Fin 16) (s : State) : Host.Outcome State Fault Refusal :=
  coreNext k (.msuI k x ra rb) .m (macBody .msuI x ra rb) s

/-- MAC2_Q (R134). Adds the sum of two packed Q15 products into an accumulator. -/
def execMac2Q (k : Fin 16) (x : Fin 2) (ra rb : Fin 16) (s : State) : Host.Outcome State Fault Refusal :=
  coreNext k (.mac2Q k x ra rb) .m (macBody .mac2Q x ra rb) s

/-- MSU2_Q (R134). Subtracts the sum of two packed Q15 products from an accumulator. -/
def execMsu2Q (k : Fin 16) (x : Fin 2) (ra rb : Fin 16) (s : State) : Host.Outcome State Fault Refusal :=
  coreNext k (.msu2Q k x ra rb) .m (macBody .msu2Q x ra rb) s

/-- MACU_I (R134). Adds an unsigned integer product into an accumulator. -/
def execMacuI (k : Fin 16) (x : Fin 2) (ra rb : Fin 16) (s : State) : Host.Outcome State Fault Refusal :=
  coreNext k (.macuI k x ra rb) .m (macBody .macuI x ra rb) s

/-- ADD2_S (R135). Saturating addition of packed Q15 pairs. -/
def execAdd2S (k rd rs : Fin 16) (s : State) : Host.Outcome State Fault Refusal :=
  coreNext k (.add2S k rd rs) .a (aluReg .add2s rd rs) s

/-- SUB2_S (R135). Saturating subtraction of packed Q15 pairs. -/
def execSub2S (k rd rs : Fin 16) (s : State) : Host.Outcome State Fault Refusal :=
  coreNext k (.sub2S k rd rs) .a (aluReg .sub2s rd rs) s

/-- MUL2Q (R135). Saturating rounded multiply of packed Q15 pairs. -/
def execMul2q (k rd rs : Fin 16) (s : State) : Host.Outcome State Fault Refusal :=
  coreNext k (.mul2q k rd rs) .m (mulBody mul2q rd rs) s

/-- ABSQ_S (R135). Saturating absolute value of a register. -/
def execAbsqS (k rd rs : Fin 16) (s : State) : Host.Outcome State Fault Refusal :=
  coreNext k (.absqS k rd rs) .a (aluReg .absqs rd rs) s

/-- NEGQ_S (R135). Saturating negation of a register. -/
def execNegqS (k rd rs : Fin 16) (s : State) : Host.Outcome State Fault Refusal :=
  coreNext k (.negqS k rd rs) .a (aluReg .negqs rd rs) s

/-- SHLQ_S (R135). Saturating left shift by an immediate amount. -/
def execShlqS (k rd rs : Fin 16) (n : BitVec 5) (s : State) : Host.Outcome State Fault Refusal :=
  coreNext k (.shlqS k rd rs n) .a (shlqsBody rd rs n) s

/-- ADD2 (R135). Wrapping addition of packed 16-bit pairs. -/
def execAdd2 (k rd rs : Fin 16) (s : State) : Host.Outcome State Fault Refusal :=
  coreNext k (.add2 k rd rs) .a (aluReg .add2 rd rs) s

/-- SUB2 (R135). Wrapping subtraction of packed 16-bit pairs. -/
def execSub2 (k rd rs : Fin 16) (s : State) : Host.Outcome State Fault Refusal :=
  coreNext k (.sub2 k rd rs) .a (aluReg .sub2 rd rs) s

end Sys2Proof.Machine
end

