-- ==== Sys2Proof/Machine/ExecMem.lean ====
section
/-!
DEFINITION. Loads and stores (spec/04_ezham_instruction_set.md R137 to R139).
-/
namespace Sys2Proof.Machine

/-- LD (R137). Short-form word load with a register addressing mode. -/
def execLd (k rd : Fin 16) (an : Fin 8) (m : SMode) (s : State) : Host.Outcome State Fault Refusal :=
  coreNext k (.ld k rd an m) .l (loadBody 4 false rd m.long an) s

/-- ST (R137). Short-form word store into the store buffer. -/
def execSt (k rd : Fin 16) (an : Fin 8) (m : SMode) (s : State) : Host.Outcome State Fault Refusal :=
  coreNext k (.st k rd an m) .l (storeBody 4 rd m.long an) s

/-- LD_W (R138). Long-form word load. -/
def execLdW (k rd : Fin 16) (an : Fin 8) (m : Mode) (s : State) : Host.Outcome State Fault Refusal :=
  coreNext k (.ldW k rd an m) .l (loadBody 4 false rd m an) s

/-- LD_H (R138). Long-form sign-extended halfword load. -/
def execLdH (k rd : Fin 16) (an : Fin 8) (m : Mode) (s : State) : Host.Outcome State Fault Refusal :=
  coreNext k (.ldH k rd an m) .l (loadBody 2 true rd m an) s

/-- LD_HU (R138). Long-form zero-extended halfword load. -/
def execLdHu (k rd : Fin 16) (an : Fin 8) (m : Mode) (s : State) : Host.Outcome State Fault Refusal :=
  coreNext k (.ldHu k rd an m) .l (loadBody 2 false rd m an) s

/-- LD_B (R138). Long-form sign-extended byte load. -/
def execLdB (k rd : Fin 16) (an : Fin 8) (m : Mode) (s : State) : Host.Outcome State Fault Refusal :=
  coreNext k (.ldB k rd an m) .l (loadBody 1 true rd m an) s

/-- LD_BU (R138). Long-form zero-extended byte load. -/
def execLdBu (k rd : Fin 16) (an : Fin 8) (m : Mode) (s : State) : Host.Outcome State Fault Refusal :=
  coreNext k (.ldBu k rd an m) .l (loadBody 1 false rd m an) s

/-- ST_W (R138). Long-form word store. -/
def execStW (k rd : Fin 16) (an : Fin 8) (m : Mode) (s : State) : Host.Outcome State Fault Refusal :=
  coreNext k (.stW k rd an m) .l (storeBody 4 rd m an) s

/-- ST_H (R138). Long-form halfword store. -/
def execStH (k rd : Fin 16) (an : Fin 8) (m : Mode) (s : State) : Host.Outcome State Fault Refusal :=
  coreNext k (.stH k rd an m) .l (storeBody 2 rd m an) s

/-- ST_B (R138). Long-form byte store. -/
def execStB (k rd : Fin 16) (an : Fin 8) (m : Mode) (s : State) : Host.Outcome State Fault Refusal :=
  coreNext k (.stB k rd an m) .l (storeBody 1 rd m an) s

end Sys2Proof.Machine
end

