-- ==== Sys2Proof/Machine/ExecMove.lean ====
section
/-!
DEFINITION. Moves and immediates (spec/04_ezham_instruction_set.md R136).
-/
namespace Sys2Proof.Machine

/-- MOV (R136). Copies one data register to another. -/
def execMov (k rd rs : Fin 16) (s : State) : Host.Outcome State Fault Refusal :=
  coreNext k (.mov k rd rs) .a (movBody rd rs) s

/-- MOVA (R136). Copies a data register to an address register. -/
def execMova (k ad rs : Fin 16) (s : State) : Host.Outcome State Fault Refusal :=
  coreNext k (.mova k ad rs) .a (movaBody ad rs) s

/-- MOVD (R136). Copies an address register to a data register. -/
def execMovd (k rd sa : Fin 16) (s : State) : Host.Outcome State Fault Refusal :=
  coreNext k (.movd k rd sa) .a (movdBody rd sa) s

/-- MOVAA (R136). Copies one address register to another. -/
def execMovaa (k ad sa : Fin 16) (s : State) : Host.Outcome State Fault Refusal :=
  coreNext k (.movaa k ad sa) .a (movaaBody ad sa) s

/-- MOVI (R136). Loads a sign-extended 6-bit immediate into a data register. -/
def execMovi (k rd : Fin 16) (imm : BitVec 6) (s : State) : Host.Outcome State Fault Refusal :=
  coreNext k (.movi k rd imm) .a (moveD rd (imm.signExtend 32) []) s

/-- ADDA (R136). Adds a sign-extended 16-bit immediate to an address register. -/
def execAdda (k : Fin 16) (ad : Fin 8) (imm : BitVec 16) (s : State) : Host.Outcome State Fault Refusal :=
  coreNext k (.adda k ad imm) .a (addaBody ad imm) s

/-- MOVH (R136). Writes a 16-bit immediate into the upper half of a data register. -/
def execMovh (k rd : Fin 16) (imm : BitVec 16) (s : State) : Host.Outcome State Fault Refusal :=
  coreNext k (.movh k rd imm) .a (movhBody rd imm) s

/-- MOVI_L (R136). Loads a sign-extended 16-bit immediate into a data register. -/
def execMoviL (k rd : Fin 16) (imm : BitVec 16) (s : State) : Host.Outcome State Fault Refusal :=
  coreNext k (.moviL k rd imm) .a (moveD rd (imm.signExtend 32) []) s

end Sys2Proof.Machine
end

