-- ==== Sys2Proof/Machine/ExecOutputs.lean ====
section
/-!
DEFINITION. Pins of the output stage, the carrier, dead time (spec/09_pwm_duty_port_trip_latch.md).
-/
namespace Sys2Proof.Machine

/-- CK_TRIP_N_LOW (R326). Ck_TRIP_N low sets the trip latch. -/
def execCkTripNLow (k : Fin 16) (width : Option Nat) (s : State) : Host.Outcome State Fault Refusal :=
  chipNext (tripPinEvent k width) s

/-- CK_EN_N_HIGH (R325). Ck_EN_N high forces the safe pattern and may set the trip latch. -/
def execCkEnNHigh (k : Fin 16) (width : Option Nat) (s : State) : Host.Outcome State Fault Refusal :=
  chipNext (enPinEvent k width) s

/-- DT_ADAPT_MEASURE (R317). A turn-on's commutation time updates the dead-time estimate. -/
def execDtAdaptMeasure (k : Fin 16) (p : Fin 4) (sideB : Bool) (m : Option Nat) (s : State) : Host.Outcome State Fault Refusal :=
  clockNext k (dtAdapt p sideB m) s

/-- PWM_DTFIX_WRITE (R318). A fixed-dead-time write that freezes or releases adaptation. -/
def execPwmDtfixWrite (k : Fin 16) (l : Level) (p : Fin 4) (w : Word) (s : State) : Host.Outcome State Fault Refusal :=
  cabNext k (softWrite l (0x42044 + 16 * p.val) w) s

/-- PWM_DTLIM_WRITE (R318). A dead-time bounds write that clamps the estimates. -/
def execPwmDtlimWrite (k : Fin 16) (l : Level) (p : Fin 4) (w : Word) (s : State) : Host.Outcome State Fault Refusal :=
  cabNext k (softWrite l (0x42048 + 16 * p.val) w) s

/-- CARRIER_CROSSING (R311). The carrier position passes a pair's compare K_p, so the reference r_p changes, the requesting
output turns off, a pulse-end flag may clear and the interlock may record SHOOT. -/
def execCarrierCrossing (k : Fin 16) (p : Fin 4) (below : Bool) (s : State) : Host.Outcome State Fault Refusal :=
  cabNext k (carrierCrossing p below) s

/-- DEAD_TIME_ELAPSED (R314). An output that has asked to be active, with its partner inactive, for the dead time in force
becomes active, making a switching edge that starts blanking. -/
def execDeadTimeElapsed (k : Fin 16) (p : Fin 4) (sideB safe : Bool) (s : State) : Host.Outcome State Fault Refusal :=
  cabNext k (deadTimeElapsed p sideB safe) s

end Sys2Proof.Machine
end

