-- ==== Sys2Proof/Machine/ExecPacket.lean ====
section
/-!
DEFINITION. Command packets by opcode (spec/16_command_packets.md R520 to R525 and the chapters named there), parking and waking (spec/19).
-/
namespace Sys2Proof.Machine

/-- NOP_COMMAND (R520). Command that does nothing and is answered OK. -/
def execNopCommand (p : Packet) (s : State) : Host.Outcome State Fault Refusal :=
  packetNext 0x00 p s

/-- SESSION_OPEN (R511). Opens or re-keys a session with a new device nonce. -/
def execSessionOpen (p : Packet) (s : State) : Host.Outcome State Fault Refusal :=
  packetNext 0x01 p s

/-- SESSION_CLOSE (R512). Closes a session whose entries are all free or retired. -/
def execSessionClose (p : Packet) (s : State) : Host.Outcome State Fault Refusal :=
  packetNext 0x02 p s

/-- ACK (R557). Retires executed or cancelled entries of the session in sequence order. -/
def execAck (p : Packet) (s : State) : Host.Outcome State Fault Refusal :=
  packetNext 0x03 p s

/-- TIME_QUERY (R520). Returns ring time at arrival and at the reply. -/
def execTimeQuery (p : Packet) (s : State) : Host.Outcome State Fault Refusal :=
  packetNext 0x04 p s

/-- CAB_LOAD_BEGIN (R523). Opens an image load to a cabinet and stops its core. -/
def execCabLoadBegin (p : Packet) (s : State) : Host.Outcome State Fault Refusal :=
  packetNext 0x10 p s

/-- CAB_LOAD_DATA (R523). Delivers image bytes at the expected offset. -/
def execCabLoadData (p : Packet) (s : State) : Host.Outcome State Fault Refusal :=
  packetNext 0x11 p s

/-- CAB_LOAD_END (R523). Closes the load, verifies the image and enters LOADED. -/
def execCabLoadEnd (p : Packet) (s : State) : Host.Outcome State Fault Refusal :=
  packetNext 0x12 p s

/-- CAB_ARM (R32). Arms a loaded cabinet or returns a running cabinet to ARMED. -/
def execCabArm (p : Packet) (s : State) : Host.Outcome State Fault Refusal :=
  packetNext 0x13 p s

/-- CAB_RUN (R32). Takes an armed cabinet to RUNNING at the next boundary. -/
def execCabRun (p : Packet) (s : State) : Host.Outcome State Fault Refusal :=
  packetNext 0x14 p s

/-- CAB_PARK (R32). Parks a cabinet, shelving its state and stopping its clocks. -/
def execCabPark (p : Packet) (s : State) : Host.Outcome State Fault Refusal :=
  packetNext 0x15 p s

/-- PARK_COMPLETE (R613). After the run ends and state is shelved, the cabinet's clocks stop. -/
def execParkComplete (k : Fin 16) (s : State) : Host.Outcome State Fault Refusal :=
  cabNext k parkComplete s

/-- CAB_WAKE (R615). Starts waking a parked cabinet. -/
def execCabWake (p : Packet) (s : State) : Host.Outcome State Fault Refusal :=
  packetNext 0x16 p s

/-- WAKE_RESTORE (R615). Every block restores its shelf and the time base steps. -/
def execWakeRestore (k : Fin 16) (s : State) : Host.Outcome State Fault Refusal :=
  chipNext (wakeRestoreEvent k) s

/-- WAKE_COMPLETE (R615). Analog bias settles and the cabinet enters its post-wake state. -/
def execWakeComplete (k : Fin 16) (s : State) : Host.Outcome State Fault Refusal :=
  cabNext k wakeComplete s

/-- CAB_RESET (R606). Performs a class C reset of one cabinet. -/
def execCabReset (p : Packet) (s : State) : Host.Outcome State Fault Refusal :=
  packetNext 0x17 p s

/-- CAB_BANK_STAGE_OPEN (R525). Opens a stage into the inactive loop-store bank. -/
def execCabBankStageOpen (p : Packet) (s : State) : Host.Outcome State Fault Refusal :=
  stagedNext 0x18 1 p s

/-- CAB_BANK_STAGE_DATA (R525). Writes syllables of an open stage. -/
def execCabBankStageData (p : Packet) (s : State) : Host.Outcome State Fault Refusal :=
  stagedNext 0x18 2 p s

/-- CAB_BANK_STAGE_CLOSE (R525). Closes and verifies a stage. -/
def execCabBankStageClose (p : Packet) (s : State) : Host.Outcome State Fault Refusal :=
  stagedNext 0x18 3 p s

/-- CAB_BANK_STAGE_ABORT (R525). Aborts a stage leaving the bank invalid. -/
def execCabBankStageAbort (p : Packet) (s : State) : Host.Outcome State Fault Refusal :=
  stagedNext 0x18 4 p s

/-- CAB_BANK_SWAP (R87). Requests a swap to the inactive valid bank. -/
def execCabBankSwap (p : Packet) (s : State) : Host.Outcome State Fault Refusal :=
  packetNext 0x19 p s

/-- CAB_TRIP_CLEAR (R331). Clears the trip latch when no source is active. -/
def execCabTripClear (p : Packet) (s : State) : Host.Outcome State Fault Refusal :=
  packetNext 0x1A p s

/-- CAB_TEST (R32). Runs or defers a cabinet self-test. -/
def execCabTest (p : Packet) (s : State) : Host.Outcome State Fault Refusal :=
  packetNext 0x1B p s

/-- CAB_STATUS (R524). Returns the cabinet state from the last heartbeat. -/
def execCabStatus (p : Packet) (s : State) : Host.Outcome State Fault Refusal :=
  packetNext 0x1C p s

/-- ORDER_PUT (R526). Journals an 8-byte order on an order ring. -/
def execOrderPut (p : Packet) (s : State) : Host.Outcome State Fault Refusal :=
  packetNext 0x30 p s

/-- ORDER_PUT_LONG (R526). Journals a long order with continuation entries. -/
def execOrderPutLong (p : Packet) (s : State) : Host.Outcome State Fault Refusal :=
  packetNext 0x31 p s

/-- ORDER_CANCEL (R568). Cancels an accepted, held or indeterminate entry. -/
def execOrderCancel (p : Packet) (s : State) : Host.Outcome State Fault Refusal :=
  packetNext 0x32 p s

/-- ORDER_RESUME (R568). Returns a held or indeterminate entry to ACCEPTED. -/
def execOrderResume (p : Packet) (s : State) : Host.Outcome State Fault Refusal :=
  packetNext 0x33 p s

/-- RING_CONFIG (R527). Configures an order or report ring of a cabinet. -/
def execRingConfig (p : Packet) (s : State) : Host.Outcome State Fault Refusal :=
  packetNext 0x34 p s

/-- REPORT_PULL (R535). Releases older reports and returns held reports. -/
def execReportPull (p : Packet) (s : State) : Host.Outcome State Fault Refusal :=
  packetNext 0x35 p s

/-- REG_READ (R544). Reads registers without side effects. -/
def execRegRead (p : Packet) (s : State) : Host.Outcome State Fault Refusal :=
  packetNext 0x50 p s

/-- REG_WRITE (R544). Writes registers with Machine-level authority. -/
def execRegWrite (p : Packet) (s : State) : Host.Outcome State Fault Refusal :=
  packetNext 0x51 p s

/-- PROTECT_PROPOSE (R577). Records a proposal to change protected settings. -/
def execProtectPropose (p : Packet) (s : State) : Host.Outcome State Fault Refusal :=
  packetNext 0x60 p s

/-- PROTECT_CONFIRM (R579). Confirms a proposal by a second party and commits it. -/
def execProtectConfirm (p : Packet) (s : State) : Host.Outcome State Fault Refusal :=
  packetNext 0x61 p s

/-- PROTECT_ABORT (R582). Aborts an open proposal. -/
def execProtectAbort (p : Packet) (s : State) : Host.Outcome State Fault Refusal :=
  packetNext 0x62 p s

/-- KEY_INSTALL (R586). Proposes installing or erasing a key slot. -/
def execKeyInstall (p : Packet) (s : State) : Host.Outcome State Fault Refusal :=
  packetNext 0x63 p s

/-- PERF_CONFIG (R544). Writes pairs of PRF_ registers at the next boundary. -/
def execPerfConfig (p : Packet) (s : State) : Host.Outcome State Fault Refusal :=
  packetNext 0x70 p s

/-- HEALTH_READ (R622). Returns health counters with their selections. -/
def execHealthRead (p : Packet) (s : State) : Host.Outcome State Fault Refusal :=
  packetNext 0x71 p s

/-- LEDGER_QUERY (R570). Returns matching ledger entries of a session. -/
def execLedgerQuery (p : Packet) (s : State) : Host.Outcome State Fault Refusal :=
  packetNext 0x72 p s

/-- CHIP_RESET (R522). Is journaled and answered, then leaves the rings and resets the chip. -/
def execChipReset (p : Packet) (s : State) : Host.Outcome State Fault Refusal :=
  packetNext 0xE0 p s

/-- FW_STAGE_OPEN (R589). Opens a stage into the other firmware slot or a cabinet-image slot. -/
def execFwStageOpen (p : Packet) (s : State) : Host.Outcome State Fault Refusal :=
  stagedNext 0xE1 1 p s

/-- FW_STAGE_DATA (R589). Writes bytes of an open image-store stage. -/
def execFwStageData (p : Packet) (s : State) : Host.Outcome State Fault Refusal :=
  stagedNext 0xE1 2 p s

/-- FW_STAGE_CLOSE (R589). Closes and verifies an image-store stage, signatures included. -/
def execFwStageClose (p : Packet) (s : State) : Host.Outcome State Fault Refusal :=
  stagedNext 0xE1 3 p s

/-- FW_STAGE_ABORT (R589). Aborts an image-store stage. -/
def execFwStageAbort (p : Packet) (s : State) : Host.Outcome State Fault Refusal :=
  stagedNext 0xE1 4 p s

/-- FW_COMMIT (R591). Makes a verified firmware slot the boot slot and restarts. -/
def execFwCommit (p : Packet) (s : State) : Host.Outcome State Fault Refusal :=
  packetNext 0xE2 p s

end Sys2Proof.Machine
end

