-- ==== Sys2Proof/Machine/ExecPower.lean ====
section
/-!
DEFINITION. Resets, boot, the chip safe state, steward cores, health counters and the test access port (spec/19, spec/01, spec/20).
-/
namespace Sys2Proof.Machine

/-- POWER_ON_RESET (R599). A supply below threshold or unsettled crystal starts the power-on reset. -/
def execPowerOnReset (s : State) : Host.Outcome State Fault Refusal :=
  chipNext powerOnReset s

/-- RESET_N (R600). RESET_N low for 1 µs starts a class P reset. -/
def execResetN (ns : Nat) (s : State) : Host.Outcome State Fault Refusal :=
  chipNext (resetN ns) s

/-- RESET_END (R601). A class P reset ends and the boot sequence starts. -/
def execResetEnd (s : State) : Host.Outcome State Fault Refusal :=
  chipNext resetEnd s

/-- BOOT (R608). The boot ROM verifies and starts sideboard firmware. -/
def execBoot (s : State) : Host.Outcome State Fault Refusal :=
  chipNext boot s

/-- SIDEBOARD_WATCHDOG (R603). Watchdog expiry enters the chip safe state then resets the chip. -/
def execSideboardWatchdog (s : State) : Host.Outcome State Fault Refusal :=
  chipNext watchdogExpiry s

/-- PWRFAIL_N (R612). PWRFAIL_N low enters the chip safe state. -/
def execPwrfailN (ns : Nat) (back : Bool) (s : State) : Host.Outcome State Fault Refusal :=
  chipNext (pwrfail ns back) s

/-- SUPPLY_EXCURSION (R39). VDDC, VDDA or VDDM outside range for 1 µs enters the chip safe state. -/
def execSupplyExcursion (mask : Fin 8) (s : State) : Host.Outcome State Fault Refusal :=
  chipNext (supplyExcursion mask) s

/-- TEMPERATURE_SAMPLE (R630). The junction sensor refreshes, warning at 115 °C and entering the chip safe state at 130 °C. -/
def execTemperatureSample (t : BitVec 12) (s : State) : Host.Outcome State Fault Refusal :=
  chipNext (temperatureSample t) s

/-- STEWARD_CORE_FAULT (R36). A faulted steward core is restarted alone. -/
def execStewardCoreFault (mask : Fin 16) (lost : Option Nat) (s : State) : Host.Outcome State Fault Refusal :=
  chipNext (stewardFault mask lost) s

/-- SIDEBOARD_ICU_DELIVER (R617). The sideboard ICU delivers a pending source to the next eligible steward core. -/
def execSideboardIcuDeliver (src : Nat) (s : State) : Host.Outcome State Fault Refusal :=
  liveNext (icuDeliverEvent src) s

/-- SIDEBOARD_ICU_WITHDRAW (R618). A delivery is withdrawn when the chosen core sleeps before claiming. -/
def execSideboardIcuWithdraw (core : Fin 4) (claimed : Bool) (s : State) : Host.Outcome State Fault Refusal :=
  liveNext (icuWithdraw core claimed) s

/-- SIDEBOARD_ICU_SLEEP (R620). With all steward cores asleep the ICU shelves its state and stops. -/
def execSideboardIcuSleep (s : State) : Host.Outcome State Fault Refusal :=
  liveNext icuSleep s

/-- SIDEBOARD_ICU_RESTART (R620). An input change restarts the sleeping ICU and wakes a core. -/
def execSideboardIcuRestart (src : Nat) (s : State) : Host.Outcome State Fault Refusal :=
  liveNext (icuRestart src) s

/-- HEALTH_COUNTER_SAVE (R621). Every 100 ms health counters are written to MRAM. -/
def execHealthCounterSave (s : State) : Host.Outcome State Fault Refusal :=
  liveNext saveHealth s

/-- SBD_HSEL_WRITE (R621). Selects a health counter's event and zeroes it. -/
def execSbdHselWrite (n : Fin 32) (v : Word) (s : State) : Host.Outcome State Fault Refusal :=
  liveNext (hselWrite n v) s

/-- IMGACC (R644). A test-access-port image-store read or write at Update-DR. -/
def execImgacc (op : Fin 4) (addr : BitVec 20) (data : Word) (s : State) : Host.Outcome State Fault Refusal :=
  sideNext (imgacc op.val addr.toNat data) s

/-- EXTEST (R645). The test access port drives boundary-scan values onto the pins through the force stage, so that Ck_EN_N still
forces the safe pattern and the hinge pins only observe. -/
def execExtest (vals : Option (List (Nat × Nat))) (s : State) : Host.Outcome State Fault Refusal :=
  sideNext (extestSet vals) s

end Sys2Proof.Machine
end

