-- ==== Sys2Proof/Machine/ExecRing.lean ====
section
/-!
DEFINITION. The Jetik rings (spec/15_jetik_ring_and_hinge.md).
-/
namespace Sys2Proof.Machine

/-- COMMAND (R516). A COMMAND frame addressed to the device is checked and its packet handled. -/
def execCommand (r : RingId) (src : Fin 256) (bytes : List Byte) (s : State) : Host.Outcome State Fault Refusal :=
  chipNext (commandFrame r src.val bytes) s

/-- REPLY (R474). A REPLY frame addressed to the device is received. -/
def execReply (r : RingId) (src : Fin 256) (len : Nat) (s : State) : Host.Outcome State Fault Refusal :=
  sideNext (takeFrame r src.val 17 1080 len) s

/-- REPORT (R474). A REPORT frame addressed to the device is received. -/
def execReport (r : RingId) (src : Fin 256) (len : Nat) (s : State) : Host.Outcome State Fault Refusal :=
  sideNext (takeFrame r src.val 16 1080 len) s

/-- SYNC (R486). A SYNC frame corrects ring time and is forwarded with CORR updated. -/
def execSync (r : RingId) (src : Fin 256) (wrap : Bool) (mtime corr : BitVec 64) (residence : Nat) (s : State) : Host.Outcome State Fault Refusal :=
  sideNext (syncReceived r src.val wrap mtime.toNat corr.toNat residence) s

/-- DELAY_REQ (R487). A delay request is answered with DELAY_RESP. -/
def execDelayReq (r : RingId) (t1 : BitVec 64) (s : State) : Host.Outcome State Fault Refusal :=
  sideNext (delayReq r t1.toNat) s

/-- DELAY_RESP (R487). A delay response gives one hop-delay measurement. -/
def execDelayResp (r : RingId) (t1 turn : BitVec 64) (s : State) : Host.Outcome State Fault Refusal :=
  sideNext (delayResp r t1.toNat turn.toNat) s

/-- HOP (R482). A HOP frame reports the neighbour's receive and wrap state. -/
def execHop (r : RingId) (rxok wrapped : Bool) (s : State) : Host.Outcome State Fault Refusal :=
  sideNext (hopReceived r rxok wrapped) s

/-- JOIN (R491). A JOIN frame confirms the device's own join or reveals a conflict. -/
def execJoin (r : RingId) (src : Fin 256) (wrap : Bool) (identity : BitVec 64) (s : State) : Host.Outcome State Fault Refusal :=
  sideNext (joinReceived r src.val wrap identity) s

/-- LEAVE (R474). A LEAVE frame from another node is received. -/
def execLeave (r : RingId) (src : Fin 256) (wrap : Bool) (reason : BitVec 8) (s : State) : Host.Outcome State Fault Refusal :=
  sideNext (leaveReceived r src.val wrap reason.toNat) s

/-- FRAME_FORWARD (R477). A frame for another node is forwarded by cut-through or removed. -/
def execFrameForward (r : RingId) (f : JFrame) (crcFail : Bool) (s : State) : Host.Outcome State Fault Refusal :=
  sideNext (frameForward r f crcFail) s

/-- OWN_FRAME_TRANSMIT (R479). The device sends its next own frame when the forwarding buffer is empty, which it is between steps
(log 109). -/
def execOwnFrameTransmit (r : RingId) (s : State) : Host.Outcome State Fault Refusal :=
  chipNext (transmitOwn r) s

/-- HOP_TIMER (R481). Every 100 µs a HOP frame is sent on each ring output. -/
def execHopTimer (s : State) : Host.Outcome State Fault Refusal :=
  sideNext hopTimer s

/-- INPUT_HOP_FAULT (R482). A silent, erroneous or HOP-less input is declared faulty. -/
def execInputHopFault (r : RingId) (s : State) : Host.Outcome State Fault Refusal :=
  sideNext (inputFault r) s

/-- WRAP (R483). The device turns its stream at a faulty hop onto the other ring. -/
def execWrap (r : RingId) (s : State) : Host.Outcome State Fault Refusal :=
  sideNext (wrapHop r) s

/-- UNWRAP (R484). After 100 ms of health the device unwraps at its next join window. -/
def execUnwrap (r : RingId) (s : State) : Host.Outcome State Fault Refusal :=
  sideNext (unwrapHop r) s

/-- DELAY_MEASURE (R487). Every 10 ms the device sends DELAY_REQ to measure each input hop. -/
def execDelayMeasure (r : RingId) (s : State) : Host.Outcome State Fault Refusal :=
  sideNext (delayMeasure r) s

/-- SYNC_TIMEOUT (R490). 4 ms without a used SYNC makes ring time run on at the last rate. -/
def execSyncTimeout (s : State) : Host.Outcome State Fault Refusal :=
  sideNext syncTimeout s

/-- FREE_RUN_OFFSET_TIMER (R490). While joined to no ring, offsets are delivered every 1 ms of crystal time. -/
def execFreeRunOffsetTimer (s : State) : Host.Outcome State Fault Refusal :=
  chipNext freeRunOffsets s

/-- JOIN_INSERT (R491). After listening, the device starts the keep-alive in a join window and forwards. -/
def execJoinInsert (r : RingId) (s : State) : Host.Outcome State Fault Refusal :=
  sideNext (joinInsert r) s

/-- JOIN_ANNOUNCE (R491). After the next join window the device sends JOIN. -/
def execJoinAnnounce (r : RingId) (s : State) : Host.Outcome State Fault Refusal :=
  sideNext (joinAnnounce r) s

/-- JOIN_RETRY (R491). A JOIN not returned within 2 ms is resent or the join fails. -/
def execJoinRetry (r : RingId) (s : State) : Host.Outcome State Fault Refusal :=
  sideNext (joinRetry r) s

/-- LEAVE_RING (R493). The device sends LEAVE and stops the keep-alive in the next join window. -/
def execLeaveRing (r : RingId) (s : State) : Host.Outcome State Fault Refusal :=
  chipNext (leaveRingEvent r) s

/-- DISCARDED_FRAME (R474). A frame addressed to this device with an unknown type code or an out-of-range LEN is discarded and
counted. -/
def execDiscardedFrame (r : RingId) (s : State) : Host.Outcome State Fault Refusal :=
  sideNext (discardedFrame r) s

end Sys2Proof.Machine
end

