-- ==== Sys2Proof/Machine/ExecSystem.lean ====
section
/-!
DEFINITION. System instructions (spec/04_ezham_instruction_set.md R162 to R164) and the events of the core: store drain, exception entry, instruction fetch, the parity bucket (spec/05, 06, 13).
-/
namespace Sys2Proof.Machine

/-- NOP (R162). Instruction that does nothing. -/
def execNop (k : Fin 16) (s : State) : Host.Outcome State Fault Refusal :=
  coreNext k (.nop k) .a nopBody s

/-- SYS (R162). Raises the system-call trap. -/
def execSys (k : Fin 16) (s : State) : Host.Outcome State Fault Refusal :=
  coreNext k (.sys k) .y sysBody s

/-- BRK (R162). Raises the breakpoint fault. -/
def execBrk (k : Fin 16) (s : State) : Host.Outcome State Fault Refusal :=
  coreNext k (.brk k) .y brkBody s

/-- RETE (R224). Returns from an exception, checking the return state and popping the entry frame. -/
def execRete (k : Fin 16) (s : State) : Host.Outcome State Fault Refusal :=
  coreNext k (.rete k) .y reteBody s

/-- SYNC_I (R196). Invalidates cache, line buffer and fetch buffer. -/
def execSyncI (k : Fin 16) (s : State) : Host.Outcome State Fault Refusal :=
  coreNext k (.syncI k) .y syncIBody s

/-- SYNC_C (R199). Applies every waiting deferred control-register write. -/
def execSyncC (k : Fin 16) (s : State) : Host.Outcome State Fault Refusal :=
  coreNext k (.syncC k) .y syncCBody s

/-- WFI (R164). Stops issue until an enabled source is pending. -/
def execWfi (k : Fin 16) (s : State) : Host.Outcome State Fault Refusal :=
  coreNext k (.wfi k) .y wfiBody s

/-- MTC (R163). Writes a control register from a data register. -/
def execMtc (k : Fin 16) (n : Fin 32) (rd : Fin 16) (s : State) : Host.Outcome State Fault Refusal :=
  coreNext k (.mtc k n rd) .a (mtcBody n rd) s

/-- MFC (R163). Reads a control register into a data register. -/
def execMfc (k rd : Fin 16) (n : Fin 32) (s : State) : Host.Outcome State Fault Refusal :=
  coreNext k (.mfc k rd n) .a (mfcBody rd n) s

/-- PWRITE (R163). Writes one syllable of the program store with computed parity. -/
def execPwrite (k : Fin 16) (an : Fin 8) (rd : Fin 16) (s : State) : Host.Outcome State Fault Refusal :=
  coreNext k (.pwrite k an rd) .y (pwriteBody an rd) s

/-- STORE_DRAIN (R183). A retired store's write drains from the store buffer into memory or a register block. -/
def execStoreDrain (k : Fin 16) (s : State) : Host.Outcome State Fault Refusal :=
  cabNext k storeDrain s

/-- EXCEPTION_ENTRY (R212). Selects a pending cause and pushes EPC and EPSW, reads the vector and starts the handler. -/
def execExceptionEntry (k : Fin 16) (s : State) : Host.Outcome State Fault Refusal :=
  cabNext k exceptionEntry s

/-- LINE_FILL_COMPLETE (R179). A cache line fill from the program store delivers its groups and is written to the cache. -/
def execLineFillComplete (k : Fin 16) (s : State) : Host.Outcome State Fault Refusal :=
  clockNext k lineFillComplete s

/-- FETCH_REDIRECT (R653). A redirect abandons or keeps an in-progress line fill and starts a fill for the target. -/
def execFetchRedirect (k : Fin 16) (s : State) : Host.Outcome State Fault Refusal :=
  clockNext k fetchRedirect s

/-- CACHE_PARITY_REFETCH (R428). A cache or line-buffer parity failure invalidates the line, refetches it and counts a
correctable event. -/
def execCacheParityRefetch (k : Fin 16) (second l8 l6 leak : Bool) (s : State) : Host.Outcome State Fault Refusal :=
  clockNext k (cacheRefetch second l8 l6 leak) s

/-- PAR_BUCKET_LEAK (R430). The leak period expires and the bucket count falls by one. -/
def execParBucketLeak (k : Fin 16) (s : State) : Host.Outcome State Fault Refusal :=
  cabNext k parLeak s

end Sys2Proof.Machine
end

