-- ==== Sys2Proof/Machine/ExecTimer.lean ====
section
/-!
DEFINITION. The time base, compares and captures (spec/12_time_base_and_interrupts.md).
-/
namespace Sys2Proof.Machine

/-- TIME_OFFSET_DELIVERY (R396). The sideboard delivers a cabinet's offset from ring time, which slews or steps the count. -/
def execTimeOffsetDelivery (k : Fin 16) (s : State) : Host.Outcome State Fault Refusal :=
  chipNext (deliverOffset k) s

/-- SLEW_TICK (R397). One tick in 256 advances the count by 2 or 0 to reduce the remainder. -/
def execSlewTick (k : Fin 16) (s : State) : Host.Outcome State Fault Refusal :=
  clockNext k slewTick s

/-- ALIGNMENT_TIMEOUT (R399). 4 ms without a delivery clears ALIGNED. -/
def execAlignmentTimeout (k : Fin 16) (s : State) : Host.Outcome State Fault Refusal :=
  clockNext k alignTimeout s

/-- TMR_TBL_READ (R395). Reads the low count and latches the high half. -/
def execTmrTblRead (k : Fin 16) (s : State) : Host.Outcome State Fault Refusal :=
  cabNext k (softRead 0x45000) s

/-- COMPARE_FIRE (R403). An armed compare channel fires, pulses its targets and disarms or advances. -/
def execCompareFire (k n : Fin 16) (s : State) : Host.Outcome State Fault Refusal :=
  clockNext k (compareFire n) s

/-- TMR_CMPL_WRITE (R401). Holds the low half of a compare value. -/
def execTmrCmplWrite (k : Fin 16) (l : Level) (n : Fin 16) (w : Word) (s : State) : Host.Outcome State Fault Refusal :=
  cabNext k (softWrite l (0x45040 + 16 * n.val) w) s

/-- TMR_CMPH_WRITE (R401). Arms a compare channel with the held low half. -/
def execTmrCmphWrite (k : Fin 16) (l : Level) (n : Fin 16) (w : Word) (s : State) : Host.Outcome State Fault Refusal :=
  cabNext k (softWrite l (0x45044 + 16 * n.val) w) s

/-- TMR_CMP_DISARM (R405). Disarms a compare channel. -/
def execTmrCmpDisarm (k : Fin 16) (l : Level) (n : Fin 16) (s : State) : Host.Outcome State Fault Refusal :=
  cabNext k (softWrite l (0x4504C + 16 * n.val) 0x100) s

/-- CAPTURE (R407). A capture event queues a timestamp or overflows. -/
def execCapture (k : Fin 16) (i : Fin 8) (rising : Bool) (s : State) : Host.Outcome State Fault Refusal :=
  clockNext k (capture i rising) s

/-- TMR_CAP_READ (R409). Pops the oldest capture timestamp. -/
def execTmrCapRead (k : Fin 16) (i : Fin 8) (s : State) : Host.Outcome State Fault Refusal :=
  cabNext k (softRead (0x45204 + 16 * i.val)) s

/-- TMR_CAP_FLUSH (R410). Empties a capture queue. -/
def execTmrCapFlush (k : Fin 16) (l : Level) (i : Fin 8) (cfg : BitVec 7) (s : State) : Host.Outcome State Fault Refusal :=
  cabNext k (softWrite l (0x45200 + 16 * i.val) (cfg.setWidth 32 ||| 0x80)) s

end Sys2Proof.Machine
end

