-- ==== Sys2Proof/Machine/ExecVector.lean ====
section
/-!
DEFINITION. Resumable instructions (spec/04_ezham_instruction_set.md R154 to R159).
-/
namespace Sys2Proof.Machine

/-- VMAC (R155). Resumable vector multiply-accumulate over N elements. -/
def execVmac (k : Fin 16) (x : Fin 2) (ax ay : Fin 8) (rn : Fin 16) (ended : Option Nat) (s : State) : Host.Outcome State Fault Refusal :=
  coreNext k (.vmac k x ax ay rn ended) .v (vmacBody x ax ay rn ended) s

/-- INTERP (R155). Resumable table interpolation over N elements. -/
def execInterp (k : Fin 16) (sa ad ta : Fin 8) (rn : Fin 16) (ended : Option Nat) (s : State) : Host.Outcome State Fault Refusal :=
  coreNext k (.interp k sa ad ta rn ended) .v (interpBody sa ad ta rn ended) s

/-- BMOVE (R155). Resumable block move of N words. -/
def execBmove (k : Fin 16) (sa ad : Fin 8) (rn : Fin 16) (ended : Option Nat) (s : State) : Host.Outcome State Fault Refusal :=
  coreNext k (.bmove k sa ad rn ended) .v (bmoveBody sa ad rn ended) s

end Sys2Proof.Machine
end

