-- ==== Sys2Proof/Machine/Dispatch.lean ====
section
/-!
DEFINITION. The meaning of each command: one arm for each constructor of Instr.
-/
namespace Sys2Proof.Machine

def exec (i : Instr) (s : State) : Host.Outcome State Fault Refusal :=
  match i with
  | .add k rd rs => Sys2Proof.Machine.execAdd k rd rs s
  | .sub k rd rs => Sys2Proof.Machine.execSub k rd rs s
  | .and k rd rs => Sys2Proof.Machine.execAnd k rd rs s
  | .or k rd rs => Sys2Proof.Machine.execOr k rd rs s
  | .xor k rd rs => Sys2Proof.Machine.execXor k rd rs s
  | .cmp k rd rs => Sys2Proof.Machine.execCmp k rd rs s
  | .addc k rd rs => Sys2Proof.Machine.execAddc k rd rs s
  | .subc k rd rs => Sys2Proof.Machine.execSubc k rd rs s
  | .shl k rd rs => Sys2Proof.Machine.execShl k rd rs s
  | .shr k rd rs => Sys2Proof.Machine.execShr k rd rs s
  | .sar k rd rs => Sys2Proof.Machine.execSar k rd rs s
  | .ror k rd rs => Sys2Proof.Machine.execRor k rd rs s
  | .min k rd rs => Sys2Proof.Machine.execMin k rd rs s
  | .max k rd rs => Sys2Proof.Machine.execMax k rd rs s
  | .abs k rd rs => Sys2Proof.Machine.execAbs k rd rs s
  | .neg k rd rs => Sys2Proof.Machine.execNeg k rd rs s
  | .addi k rd imm => Sys2Proof.Machine.execAddi k rd imm s
  | .andi k rd imm => Sys2Proof.Machine.execAndi k rd imm s
  | .ori k rd imm => Sys2Proof.Machine.execOri k rd imm s
  | .cmpi k rd imm => Sys2Proof.Machine.execCmpi k rd imm s
  | .shli k rd n => Sys2Proof.Machine.execShli k rd n s
  | .shri k rd n => Sys2Proof.Machine.execShri k rd n s
  | .sari k rd n => Sys2Proof.Machine.execSari k rd n s
  | .rori k rd n => Sys2Proof.Machine.execRori k rd n s
  | .extb k rd rs => Sys2Proof.Machine.execExtb k rd rs s
  | .extbu k rd rs => Sys2Proof.Machine.execExtbu k rd rs s
  | .exth k rd rs => Sys2Proof.Machine.execExth k rd rs s
  | .exthu k rd rs => Sys2Proof.Machine.execExthu k rd rs s
  | .clz k rd rs => Sys2Proof.Machine.execClz k rd rs s
  | .cls k rd rs => Sys2Proof.Machine.execCls k rd rs s
  | .macQ k x ra rb => Sys2Proof.Machine.execMacQ k x ra rb s
  | .msuQ k x ra rb => Sys2Proof.Machine.execMsuQ k x ra rb s
  | .mulqS k rd rs => Sys2Proof.Machine.execMulqS k rd rs s
  | .addqS k rd rs => Sys2Proof.Machine.execAddqS k rd rs s
  | .subqS k rd rs => Sys2Proof.Machine.execSubqS k rd rs s
  | .rdt k rd x => Sys2Proof.Machine.execRdt k rd x s
  | .rdr k rd x => Sys2Proof.Machine.execRdr k rd x s
  | .rdl k rd x => Sys2Proof.Machine.execRdl k rd x s
  | .rdi k rd x => Sys2Proof.Machine.execRdi k rd x s
  | .rdg k rd x => Sys2Proof.Machine.execRdg k rd x s
  | .wrq k x rd => Sys2Proof.Machine.execWrq k x rd s
  | .wri k x rd => Sys2Proof.Machine.execWri k x rd s
  | .clr k x dst => Sys2Proof.Machine.execClr k x dst s
  | .macI k x ra rb => Sys2Proof.Machine.execMacI k x ra rb s
  | .msuI k x ra rb => Sys2Proof.Machine.execMsuI k x ra rb s
  | .mac2Q k x ra rb => Sys2Proof.Machine.execMac2Q k x ra rb s
  | .msu2Q k x ra rb => Sys2Proof.Machine.execMsu2Q k x ra rb s
  | .macuI k x ra rb => Sys2Proof.Machine.execMacuI k x ra rb s
  | .add2S k rd rs => Sys2Proof.Machine.execAdd2S k rd rs s
  | .sub2S k rd rs => Sys2Proof.Machine.execSub2S k rd rs s
  | .mul2q k rd rs => Sys2Proof.Machine.execMul2q k rd rs s
  | .absqS k rd rs => Sys2Proof.Machine.execAbsqS k rd rs s
  | .negqS k rd rs => Sys2Proof.Machine.execNegqS k rd rs s
  | .shlqS k rd rs n => Sys2Proof.Machine.execShlqS k rd rs n s
  | .add2 k rd rs => Sys2Proof.Machine.execAdd2 k rd rs s
  | .sub2 k rd rs => Sys2Proof.Machine.execSub2 k rd rs s
  | .mov k rd rs => Sys2Proof.Machine.execMov k rd rs s
  | .mova k ad rs => Sys2Proof.Machine.execMova k ad rs s
  | .movd k rd sa => Sys2Proof.Machine.execMovd k rd sa s
  | .movaa k ad sa => Sys2Proof.Machine.execMovaa k ad sa s
  | .movi k rd imm => Sys2Proof.Machine.execMovi k rd imm s
  | .adda k ad imm => Sys2Proof.Machine.execAdda k ad imm s
  | .movh k rd imm => Sys2Proof.Machine.execMovh k rd imm s
  | .moviL k rd imm => Sys2Proof.Machine.execMoviL k rd imm s
  | .ld k rd an m => Sys2Proof.Machine.execLd k rd an m s
  | .st k rd an m => Sys2Proof.Machine.execSt k rd an m s
  | .ldW k rd an m => Sys2Proof.Machine.execLdW k rd an m s
  | .ldH k rd an m => Sys2Proof.Machine.execLdH k rd an m s
  | .ldHu k rd an m => Sys2Proof.Machine.execLdHu k rd an m s
  | .ldB k rd an m => Sys2Proof.Machine.execLdB k rd an m s
  | .ldBu k rd an m => Sys2Proof.Machine.execLdBu k rd an m s
  | .stW k rd an m => Sys2Proof.Machine.execStW k rd an m s
  | .stH k rd an m => Sys2Proof.Machine.execStH k rd an m s
  | .stB k rd an m => Sys2Proof.Machine.execStB k rd an m s
  | .bcc k cond off => Sys2Proof.Machine.execBcc k cond off s
  | .bccL k cond off => Sys2Proof.Machine.execBccL k cond off s
  | .call k off => Sys2Proof.Machine.execCall k off s
  | .callr k an => Sys2Proof.Machine.execCallr k an s
  | .ret k => Sys2Proof.Machine.execRet k s
  | .jmp k an => Sys2Proof.Machine.execJmp k an s
  | .fadd k rd rs => Sys2Proof.Machine.execFadd k rd rs s
  | .fsub k rd rs => Sys2Proof.Machine.execFsub k rd rs s
  | .fmul k rd rs => Sys2Proof.Machine.execFmul k rd rs s
  | .fneg k rd => Sys2Proof.Machine.execFneg k rd s
  | .fabs k rd => Sys2Proof.Machine.execFabs k rd s
  | .fcvtWs k rd => Sys2Proof.Machine.execFcvtWs k rd s
  | .fcvtSw k rd => Sys2Proof.Machine.execFcvtSw k rd s
  | .fcvtQs k rd => Sys2Proof.Machine.execFcvtQs k rd s
  | .fcvtSq k rd => Sys2Proof.Machine.execFcvtSq k rd s
  | .fcmp k rd rs => Sys2Proof.Machine.execFcmp k rd rs s
  | .fmin k rd rs => Sys2Proof.Machine.execFmin k rd rs s
  | .fmax k rd rs => Sys2Proof.Machine.execFmax k rd rs s
  | .fmadd k rd rs rt => Sys2Proof.Machine.execFmadd k rd rs rt s
  | .div k rd rs => Sys2Proof.Machine.execDiv k rd rs s
  | .divu k rd rs => Sys2Proof.Machine.execDivu k rd rs s
  | .sincos k rd rs => Sys2Proof.Machine.execSincos k rd rs s
  | .atan2 k rd rs => Sys2Proof.Machine.execAtan2 k rd rs s
  | .sqrt k rd rs => Sys2Proof.Machine.execSqrt k rd rs s
  | .divq k rd rs => Sys2Proof.Machine.execDivq k rd rs s
  | .fdiv k rd rs => Sys2Proof.Machine.execFdiv k rd rs s
  | .fsqrt k rd rs => Sys2Proof.Machine.execFsqrt k rd rs s
  | .rem k rd rs => Sys2Proof.Machine.execRem k rd rs s
  | .remu k rd rs => Sys2Proof.Machine.execRemu k rd rs s
  | .smprd k rd n => Sys2Proof.Machine.execSmprd k rd n s
  | .duty k g mask => Sys2Proof.Machine.execDuty k g mask s
  | .waitf k => Sys2Proof.Machine.execWaitf k s
  | .xformClarke3 k g => Sys2Proof.Machine.execXformClarke3 k g s
  | .xformClarke2 k g => Sys2Proof.Machine.execXformClarke2 k g s
  | .xformPark k g => Sys2Proof.Machine.execXformPark k g s
  | .xformIpark k g => Sys2Proof.Machine.execXformIpark k g s
  | .xformParksc k g => Sys2Proof.Machine.execXformParksc k g s
  | .xformIparksc k g => Sys2Proof.Machine.execXformIparksc k g s
  | .xformSvt k g => Sys2Proof.Machine.execXformSvt k g s
  | .vmac k x ax ay rn ended => Sys2Proof.Machine.execVmac k x ax ay rn ended s
  | .interp k sa ad ta rn ended => Sys2Proof.Machine.execInterp k sa ad ta rn ended s
  | .bmove k sa ad rn ended => Sys2Proof.Machine.execBmove k sa ad rn ended s
  | .cx k slot rd rs => Sys2Proof.Machine.execCx k slot rd rs s
  | .cxL k slot rd rs rt imm4 => Sys2Proof.Machine.execCxL k slot rd rs rt imm4 s
  | .nop k => Sys2Proof.Machine.execNop k s
  | .sys k => Sys2Proof.Machine.execSys k s
  | .brk k => Sys2Proof.Machine.execBrk k s
  | .rete k => Sys2Proof.Machine.execRete k s
  | .syncI k => Sys2Proof.Machine.execSyncI k s
  | .syncC k => Sys2Proof.Machine.execSyncC k s
  | .wfi k => Sys2Proof.Machine.execWfi k s
  | .mtc k n rd => Sys2Proof.Machine.execMtc k n rd s
  | .mfc k rd n => Sys2Proof.Machine.execMfc k rd n s
  | .pwrite k an rd => Sys2Proof.Machine.execPwrite k an rd s
  | .storeDrain k => Sys2Proof.Machine.execStoreDrain k s
  | .exceptionEntry k => Sys2Proof.Machine.execExceptionEntry k s
  | .lineFillComplete k => Sys2Proof.Machine.execLineFillComplete k s
  | .fetchRedirect k => Sys2Proof.Machine.execFetchRedirect k s
  | .cacheParityRefetch k second l8 l6 leak => Sys2Proof.Machine.execCacheParityRefetch k second l8 l6 leak s
  | .parBucketLeak k => Sys2Proof.Machine.execParBucketLeak k s
  | .frameBoundary k => Sys2Proof.Machine.execFrameBoundary k s
  | .dumpRecordComplete k => Sys2Proof.Machine.execDumpRecordComplete k s
  | .heartbeatPeriod k => Sys2Proof.Machine.execHeartbeatPeriod k s
  | .statusHeartbeat k => Sys2Proof.Machine.execStatusHeartbeat k s
  | .heartbeatLoss k => Sys2Proof.Machine.execHeartbeatLoss k s
  | .updatePointU1 k => Sys2Proof.Machine.execUpdatePointU1 k s
  | .sampleInstant k vd => Sys2Proof.Machine.execSampleInstant k vd s
  | .supervisoryDiscard k => Sys2Proof.Machine.execSupervisoryDiscard k s
  | .sampleSetComplete k => Sys2Proof.Machine.execSampleSetComplete k s
  | .frameGuard k => Sys2Proof.Machine.execFrameGuard k s
  | .dutyPortCommit k => Sys2Proof.Machine.execDutyPortCommit k s
  | .shadowLatch k => Sys2Proof.Machine.execShadowLatch k s
  | .trackerUpdate k half samples => Sys2Proof.Machine.execTrackerUpdate k half samples s
  | .spareMatchBlock k => Sys2Proof.Machine.execSpareMatchBlock k s
  | .calibrationComplete k refFail calFail => Sys2Proof.Machine.execCalibrationComplete k refFail calFail s
  | .seqTriggerOffset k n => Sys2Proof.Machine.execSeqTriggerOffset k n s
  | .seqConversionStart k n => Sys2Proof.Machine.execSeqConversionStart k n s
  | .seqResult k n vd => Sys2Proof.Machine.execSeqResult k n vd s
  | .cnvSeqswWrite k l go => Sys2Proof.Machine.execCnvSeqswWrite k l go s
  | .cnvResRead k n => Sys2Proof.Machine.execCnvResRead k n s
  | .cnvCalStart k l => Sys2Proof.Machine.execCnvCalStart k l s
  | .cnvTrkWrite k l w => Sys2Proof.Machine.execCnvTrkWrite k l w s
  | .comparatorAssert k n low vd => Sys2Proof.Machine.execComparatorAssert k n low vd s
  | .comparatorDeassert k n low vd => Sys2Proof.Machine.execComparatorDeassert k n low vd s
  | .blankingEnd k n trip => Sys2Proof.Machine.execBlankingEnd k n trip s
  | .ckTripNLow k width => Sys2Proof.Machine.execCkTripNLow k width s
  | .ckEnNHigh k width => Sys2Proof.Machine.execCkEnNHigh k width s
  | .dtAdaptMeasure k p sideB m => Sys2Proof.Machine.execDtAdaptMeasure k p sideB m s
  | .pwmDtfixWrite k l p w => Sys2Proof.Machine.execPwmDtfixWrite k l p w s
  | .pwmDtlimWrite k l p w => Sys2Proof.Machine.execPwmDtlimWrite k l p w s
  | .hallTransition k xs => Sys2Proof.Machine.execHallTransition k xs s
  | .toothEdge k xs => Sys2Proof.Machine.execToothEdge k xs s
  | .fbkExtposWrite k l w => Sys2Proof.Machine.execFbkExtposWrite k l w s
  | .fbkPosWrite k l w => Sys2Proof.Machine.execFbkPosWrite k l w s
  | .fbkCfgWrite k l w => Sys2Proof.Machine.execFbkCfgWrite k l w s
  | .fbkTcfgWrite k l w => Sys2Proof.Machine.execFbkTcfgWrite k l w s
  | .fbkEdgetslRead k => Sys2Proof.Machine.execFbkEdgetslRead k s
  | .positionBufferWrite k n lost => Sys2Proof.Machine.execPositionBufferWrite k n lost s
  | .drawerStep k n levels => Sys2Proof.Machine.execDrawerStep k n levels s
  | .bit k n arg oe out next => Sys2Proof.Machine.execBit k n arg oe out next s
  | .deposit k n arg oe out next => Sys2Proof.Machine.execDeposit k n arg oe out next s
  | .fetch k n oe out next => Sys2Proof.Machine.execFetch k n oe out next s
  | .flag k n arg oe out next => Sys2Proof.Machine.execFlag k n arg oe out next s
  | .raise k n arg oe out next => Sys2Proof.Machine.execRaise k n arg oe out next s
  | .wait k n arg oe out next => Sys2Proof.Machine.execWait k n arg oe out next s
  | .waitEnd k n => Sys2Proof.Machine.execWaitEnd k n s
  | .stop k n oe out next => Sys2Proof.Machine.execStop k n oe out next s
  | .stallComplete k n => Sys2Proof.Machine.execStallComplete k n s
  | .stallLimit k n => Sys2Proof.Machine.execStallLimit k n s
  | .drwRunStart k l n state => Sys2Proof.Machine.execDrwRunStart k l n state s
  | .drwRunStop k l n => Sys2Proof.Machine.execDrwRunStop k l n s
  | .drwFlush k l n => Sys2Proof.Machine.execDrwFlush k l n s
  | .drwOutqWrite k l n w => Sys2Proof.Machine.execDrwOutqWrite k l n w s
  | .drwInqRead k n => Sys2Proof.Machine.execDrwInqRead k n s
  | .drwTdataWrite k l n w => Sys2Proof.Machine.execDrwTdataWrite k l n w s
  | .drwTdataRead k n => Sys2Proof.Machine.execDrwTdataRead k n s
  | .timeOffsetDelivery k => Sys2Proof.Machine.execTimeOffsetDelivery k s
  | .slewTick k => Sys2Proof.Machine.execSlewTick k s
  | .alignmentTimeout k => Sys2Proof.Machine.execAlignmentTimeout k s
  | .tmrTblRead k => Sys2Proof.Machine.execTmrTblRead k s
  | .compareFire k n => Sys2Proof.Machine.execCompareFire k n s
  | .tmrCmplWrite k l n w => Sys2Proof.Machine.execTmrCmplWrite k l n w s
  | .tmrCmphWrite k l n w => Sys2Proof.Machine.execTmrCmphWrite k l n w s
  | .tmrCmpDisarm k l n => Sys2Proof.Machine.execTmrCmpDisarm k l n s
  | .capture k cap rising => Sys2Proof.Machine.execCapture k cap rising s
  | .tmrCapRead k idx => Sys2Proof.Machine.execTmrCapRead k idx s
  | .tmrCapFlush k l idx cfg => Sys2Proof.Machine.execTmrCapFlush k l idx cfg s
  | .icuClaimRead k => Sys2Proof.Machine.execIcuClaimRead k s
  | .icuCompleteWrite k l n => Sys2Proof.Machine.execIcuCompleteWrite k l n s
  | .icuSwsetWrite k l set => Sys2Proof.Machine.execIcuSwsetWrite k l set s
  | .parTestWrite k l inj mcen => Sys2Proof.Machine.execParTestWrite k l inj mcen s
  | .parBucketWrite k l count => Sys2Proof.Machine.execParBucketWrite k l count s
  | .prfCntlRead k n => Sys2Proof.Machine.execPrfCntlRead k n s
  | .prfCntlWrite k l n w => Sys2Proof.Machine.execPrfCntlWrite k l n w s
  | .prfCnthWrite k l n w => Sys2Proof.Machine.execPrfCnthWrite k l n w s
  | .prfDumpAreaWrite k l len w => Sys2Proof.Machine.execPrfDumpAreaWrite k l len w s
  | .prfSmpstatClr k l => Sys2Proof.Machine.execPrfSmpstatClr k l s
  | .preciseSample k => Sys2Proof.Machine.execPreciseSample k s
  | .decSlotValidate k l n start lenm1 fs => Sys2Proof.Machine.execDecSlotValidate k l n start lenm1 fs s
  | .decSlotInvalidate k l n start lenm1 fs => Sys2Proof.Machine.execDecSlotInvalidate k l n start lenm1 fs s
  | .cabBankselReqWrite k l req => Sys2Proof.Machine.execCabBankselReqWrite k l req s
  | .registerWrite k l a w => Sys2Proof.Machine.execRegisterWrite k l a w s
  | .selfTestComplete k cnv pwm refFail calFail => Sys2Proof.Machine.execSelfTestComplete k cnv pwm refFail calFail s
  | .referenceClockLoss k => Sys2Proof.Machine.execReferenceClockLoss k s
  | .freeRunSwitch k => Sys2Proof.Machine.execFreeRunSwitch k s
  | .relock k => Sys2Proof.Machine.execRelock k s
  | .ioBankLoss k => Sys2Proof.Machine.execIoBankLoss k s
  | .command r src bytes => Sys2Proof.Machine.execCommand r src bytes s
  | .reply r src len => Sys2Proof.Machine.execReply r src len s
  | .report r src len => Sys2Proof.Machine.execReport r src len s
  | .sync r src wrap mtime corr residence => Sys2Proof.Machine.execSync r src wrap mtime corr residence s
  | .delayReq r t1 => Sys2Proof.Machine.execDelayReq r t1 s
  | .delayResp r t1 turn => Sys2Proof.Machine.execDelayResp r t1 turn s
  | .hop r rxok wrapped => Sys2Proof.Machine.execHop r rxok wrapped s
  | .join r src wrap identity => Sys2Proof.Machine.execJoin r src wrap identity s
  | .leave r src wrap reason => Sys2Proof.Machine.execLeave r src wrap reason s
  | .frameForward r f crcFail => Sys2Proof.Machine.execFrameForward r f crcFail s
  | .ownFrameTransmit r => Sys2Proof.Machine.execOwnFrameTransmit r s
  | .hopTimer => Sys2Proof.Machine.execHopTimer s
  | .inputHopFault r => Sys2Proof.Machine.execInputHopFault r s
  | .wrap r => Sys2Proof.Machine.execWrap r s
  | .unwrap r => Sys2Proof.Machine.execUnwrap r s
  | .delayMeasure r => Sys2Proof.Machine.execDelayMeasure r s
  | .syncTimeout => Sys2Proof.Machine.execSyncTimeout s
  | .freeRunOffsetTimer => Sys2Proof.Machine.execFreeRunOffsetTimer s
  | .joinInsert r => Sys2Proof.Machine.execJoinInsert r s
  | .joinAnnounce r => Sys2Proof.Machine.execJoinAnnounce r s
  | .joinRetry r => Sys2Proof.Machine.execJoinRetry r s
  | .leaveRing r => Sys2Proof.Machine.execLeaveRing r s
  | .status n => Sys2Proof.Machine.execStatus n s
  | .write bytes => Sys2Proof.Machine.execWrite bytes s
  | .read n => Sys2Proof.Machine.execRead n s
  | .nopCommand p => Sys2Proof.Machine.execNopCommand p s
  | .sessionOpen p => Sys2Proof.Machine.execSessionOpen p s
  | .sessionClose p => Sys2Proof.Machine.execSessionClose p s
  | .ack p => Sys2Proof.Machine.execAck p s
  | .timeQuery p => Sys2Proof.Machine.execTimeQuery p s
  | .cabLoadBegin p => Sys2Proof.Machine.execCabLoadBegin p s
  | .cabLoadData p => Sys2Proof.Machine.execCabLoadData p s
  | .cabLoadEnd p => Sys2Proof.Machine.execCabLoadEnd p s
  | .cabArm p => Sys2Proof.Machine.execCabArm p s
  | .cabRun p => Sys2Proof.Machine.execCabRun p s
  | .cabPark p => Sys2Proof.Machine.execCabPark p s
  | .parkComplete k => Sys2Proof.Machine.execParkComplete k s
  | .cabWake p => Sys2Proof.Machine.execCabWake p s
  | .wakeRestore k => Sys2Proof.Machine.execWakeRestore k s
  | .wakeComplete k => Sys2Proof.Machine.execWakeComplete k s
  | .cabReset p => Sys2Proof.Machine.execCabReset p s
  | .cabBankStageOpen p => Sys2Proof.Machine.execCabBankStageOpen p s
  | .cabBankStageData p => Sys2Proof.Machine.execCabBankStageData p s
  | .cabBankStageClose p => Sys2Proof.Machine.execCabBankStageClose p s
  | .cabBankStageAbort p => Sys2Proof.Machine.execCabBankStageAbort p s
  | .cabBankSwap p => Sys2Proof.Machine.execCabBankSwap p s
  | .cabTripClear p => Sys2Proof.Machine.execCabTripClear p s
  | .cabTest p => Sys2Proof.Machine.execCabTest p s
  | .cabStatus p => Sys2Proof.Machine.execCabStatus p s
  | .orderPut p => Sys2Proof.Machine.execOrderPut p s
  | .orderPutLong p => Sys2Proof.Machine.execOrderPutLong p s
  | .orderCancel p => Sys2Proof.Machine.execOrderCancel p s
  | .orderResume p => Sys2Proof.Machine.execOrderResume p s
  | .ringConfig p => Sys2Proof.Machine.execRingConfig p s
  | .reportPull p => Sys2Proof.Machine.execReportPull p s
  | .regRead p => Sys2Proof.Machine.execRegRead p s
  | .regWrite p => Sys2Proof.Machine.execRegWrite p s
  | .protectPropose p => Sys2Proof.Machine.execProtectPropose p s
  | .protectConfirm p => Sys2Proof.Machine.execProtectConfirm p s
  | .protectAbort p => Sys2Proof.Machine.execProtectAbort p s
  | .keyInstall p => Sys2Proof.Machine.execKeyInstall p s
  | .perfConfig p => Sys2Proof.Machine.execPerfConfig p s
  | .healthRead p => Sys2Proof.Machine.execHealthRead p s
  | .ledgerQuery p => Sys2Proof.Machine.execLedgerQuery p s
  | .chipReset p => Sys2Proof.Machine.execChipReset p s
  | .fwStageOpen p => Sys2Proof.Machine.execFwStageOpen p s
  | .fwStageData p => Sys2Proof.Machine.execFwStageData p s
  | .fwStageClose p => Sys2Proof.Machine.execFwStageClose p s
  | .fwStageAbort p => Sys2Proof.Machine.execFwStageAbort p s
  | .fwCommit p => Sys2Proof.Machine.execFwCommit p s
  | .orderDispatch k ring => Sys2Proof.Machine.execOrderDispatch k ring s
  | .ordPopRead k ring => Sys2Proof.Machine.execOrdPopRead k ring s
  | .ordDoneWrite k l tag => Sys2Proof.Machine.execOrdDoneWrite k l tag s
  | .ordPushWrite k l ring len kind => Sys2Proof.Machine.execOrdPushWrite k l ring len kind s
  | .reportTransmit => Sys2Proof.Machine.execReportTransmit s
  | .ledgerCommit ph retries bad => Sys2Proof.Machine.execLedgerCommit ph retries bad s
  | .recoveryScan bad => Sys2Proof.Machine.execRecoveryScan bad s
  | .confirmationWindowExpiry n => Sys2Proof.Machine.execConfirmationWindowExpiry n s
  | .keyNFall => Sys2Proof.Machine.execKeyNFall s
  | .keyNConfirm => Sys2Proof.Machine.execKeyNConfirm s
  | .powerOnReset => Sys2Proof.Machine.execPowerOnReset s
  | .resetN ns => Sys2Proof.Machine.execResetN ns s
  | .resetEnd => Sys2Proof.Machine.execResetEnd s
  | .boot => Sys2Proof.Machine.execBoot s
  | .sideboardWatchdog => Sys2Proof.Machine.execSideboardWatchdog s
  | .pwrfailN ns back => Sys2Proof.Machine.execPwrfailN ns back s
  | .supplyExcursion mask => Sys2Proof.Machine.execSupplyExcursion mask s
  | .temperatureSample t => Sys2Proof.Machine.execTemperatureSample t s
  | .stewardCoreFault mask lost => Sys2Proof.Machine.execStewardCoreFault mask lost s
  | .sideboardIcuDeliver src => Sys2Proof.Machine.execSideboardIcuDeliver src s
  | .sideboardIcuWithdraw core claimed => Sys2Proof.Machine.execSideboardIcuWithdraw core claimed s
  | .sideboardIcuSleep => Sys2Proof.Machine.execSideboardIcuSleep s
  | .sideboardIcuRestart src => Sys2Proof.Machine.execSideboardIcuRestart src s
  | .healthCounterSave => Sys2Proof.Machine.execHealthCounterSave s
  | .sbdHselWrite n v => Sys2Proof.Machine.execSbdHselWrite n v s
  | .imgacc op addr data => Sys2Proof.Machine.execImgacc op addr data s
  | .carrierCrossing k p below => Sys2Proof.Machine.execCarrierCrossing k p below s
  | .deadTimeElapsed k p sideB safe => Sys2Proof.Machine.execDeadTimeElapsed k p sideB safe s
  | .counterWrap k n => Sys2Proof.Machine.execCounterWrap k n s
  | .ioBankReturn k => Sys2Proof.Machine.execIoBankReturn k s
  | .discardedFrame r => Sys2Proof.Machine.execDiscardedFrame r s
  | .extest vals => Sys2Proof.Machine.execExtest vals s

end Sys2Proof.Machine
end

