-- ==== Sys2Proof/Machine/Tick.lean ====
section
/-!
DEFINITION. The passing of one cycle of CCLK, which is what a step does when no command waits (log 40): counts advance, and nothing
else happens. What happens at a count (a boundary, a firing, a sample instant) is a command of its own.
-/
namespace Sys2Proof.Machine

/-- A cycle of the frame (02 R47): the carrier position does not pass the end of the frame, whose boundary is a command; a sample instant is
decided when its reserved interval begins (08 R289). -/
def tickFrame (c : Cabinet) : Cabinet :=
  if c.frame.running then decideInstants { c with frame := { c.frame with pos := min (c.frame.pos + 1) (frameLen c - 1) } }
  else { c with frame := { c.frame with hbCount := min (c.frame.hbCount + 1) c.frame.flen } }

/-- A cycle of the time base (12 R394): a tick is two cycles. -/
def tickTime (c : Cabinet) : Cabinet := if c.tmr.phase then beginTick 1 c else { c with tmr := { c.tmr with phase := true } }

/-- A cycle of the drawer clock, four cycles each (11 R368): at its start the driven levels move through the synchronizers (R371), and
each stalled drawer is counted (14 R449 0x2F). -/
def tickDrawers (c : Cabinet) : Cabinet :=
  let c := { c with drw := { c.drw with phase := (c.drw.phase + 1) % 4 } }
  if c.drw.phase = 0 then
    let next := c.drw.dr.map drwClock
    let h := c.drw.driven
    let waits := (next.toList.filter (·.2)).length
    let c := { c with drw := { c.drw with dr := next.map (·.1), driven := #v[drivenPins c, h[0], h[1]] } }
    bump 0x2E waits {} (bump 0x2F ((List.finRange 4).filter (fun n => (c.drw.dr[n]).stall.isSome)).length {} c)
  else c

/-- A cycle of the core: CYCLES and WFICYC count, a line fill in progress grows older (14 R449; 05 R179). -/
def tickCore (c : Cabinet) : Cabinet :=
  let at' : Attr := { lvl := some (lvlAttr c), prog := some (curPc c).toNat }
  let c := bump 0x00 1 at' c
  let c := if c.pipe.hold == .wfi && !c.frame.inRun then bump 0x38 1 at' c else c
  { c with pipe := { c.pipe with fill := c.pipe.fill.map (fun f => { f with age := f.age + 1 }) } }

/-- A cycle of the comparators' levels: a change is complete after 16 (08 R295). -/
def tickLevels (c : Cabinet) : Cabinet :=
  { c with cmpr := { c.cmpr with move := c.cmpr.move.map (fun x =>
      x.bind (fun m => if m.left ≤ 1 then none else some { m with left := m.left - 1 })) } }

/-- A cycle of a cabinet whose clocks run (19 R613). -/
def tickCab (c : Cabinet) : Cabinet :=
  if c.clocksRun then tickLevels (tickDrawers (tickTime (tickFrame (tickCore c)))) else c

/-- One cycle of CCLK in the whole chip; none passes in a reset of class P (15 R490: ring time runs from its end). -/
def tick (ch : Chip) : Chip :=
  if ch.side.reset.isSome then ch else { cabs := ch.cabs.map tickCab, side := ch.side.advance }

end Sys2Proof.Machine
end

