-- ==== Sys2Proof/Safety.lean ====
section
/-!
DEFINITION. What counts as a well-formed state, in the terms that the statements use.
-/
namespace Sys2Proof.Machine

/-- Every cabinet's memories are in canonical form: each is a list of addresses and contents with strictly rising addresses, those of
data memory and frame scratch inside those memories (03 R101, R104). -/
def Chip.memsWf (ch : Chip) : Prop := ∀ k : Fin 16, (ch.cabs[k]).mems.wf = true

/-- The same of a state. -/
def MemsCanonical (s : State) : Prop := s.chip.memsWf

/-- Each cabinet stands in the place of its number (01 R19). -/
def Chip.numbered (ch : Chip) : Prop := ∀ k : Fin 16, (ch.cabs[k]).id = k

/-! ## The words of the statements -/

/-- Cabinet `k` of a state. -/
abbrev State.cab (s : State) (k : Fin 16) : Cabinet := s.chip.cabs[k]

/-- Two states agree but for cabinet `k`, the sideboard and what it holds: the queue and every other cabinet are the same. -/
def OnlyCabinet (k : Fin 16) (s t : State) : Prop := t.pending = s.pending ∧ ∀ j : Fin 16, j ≠ k → t.cab j = s.cab j

/-- The core of cabinet `k` executes the instruction `i` now: no reset of class P stands, it is ready to issue (04 R164; 06 R211; 02 R60),
the fetch raises no exception (03 R101, R106; 13 R432), and the syllables fetched are `i` (03 R120 to R123; 04). -/
def Executes (k : Fin 16) (i : Instr) (s : State) : Prop :=
  s.chip.side.reset = none ∧ ready (s.cab k) = true ∧ (fetchInstr (s.cab k)).exc = none ∧
  decodeCore k (fetchInstr (s.cab k)).w1 (fetchInstr (s.cab k)).w2 = some (coded i)

/-- The core's registers once an instruction that leaves the cabinet `x` has retired and `next` follows it: in a run the run's program
counter moves on; outside, the program counter does, and the deferred writes of control registers come one instruction nearer
(05 R198). -/
def coreAfter (x : Cabinet) (next : Word) : Core :=
  if x.frame.inRun then { x.core with runPc := next }
  else (ageDeferred { x with core := { x.core with pc := next } }).core

/-- Instruction `i` of cabinet `k` retires: `exec` answers a next state with the registers, the memories, the store buffer and the blocks
of `x`, and `next` as the address that follows; nothing of another cabinet changes. The registers are not claimed where the
instruction ends a run behind which a WFI waited and retires with it (04 R164). -/
def Retires (k : Fin 16) (i : Instr) (s : State) (x : Cabinet) (next : Word) : Prop :=
  ∃ t, exec i s = .next t ∧ OnlyCabinet k s t ∧
    ((s.cab k).pipe.hold ≠ .wfi ∨ (t.cab k).frame.inRun = true → (t.cab k).core = coreAfter x next) ∧
    (t.cab k).mems = x.mems ∧ (t.cab k).pipe.sbuf = x.pipe.sbuf ∧ (t.cab k).fbk = x.fbk ∧ (t.cab k).tmr = x.tmr ∧
    (t.cab k).dec = x.dec ∧ (t.cab k).ord = x.ord ∧ (t.cab k).ordRings = x.ordRings ∧ (t.cab k).repRings = x.repRings

/-- The address of the instruction that follows one of `len` syllables. -/
def after (len : Nat) (c : Cabinet) : Word := curPc c + BitVec.ofNat 32 len

/-- Command `i` acts on cabinet `k` alone: the next state has the cabinet `c`, its event sources latched and its messages with the
sideboard (`settleCab`). -/
def Acts (k : Fin 16) (i : Instr) (s : State) (c : Cabinet) : Prop := exec i s = .next { s with chip := settleCab k c s.chip }

/-- Command `i` acts on the sideboard alone. -/
def SideActs (i : Instr) (s : State) (d : Side) : Prop := exec i s = .next { s with chip := { s.chip with side := d } }

/-- Cabinet `k` takes commands: no reset of class P stands and the cabinet's clocks run (19 R599, R613). -/
def Live (k : Fin 16) (s : State) : Prop := s.chip.side.reset = none ∧ (s.cab k).clocksRun = true

end Sys2Proof.Machine
end

