-- ==== Sys2Proof/Certificates/Slice0/Obligations.lean ====
section
/-!
DEFINITION. The statements for the provers, from the numbered rules of spec/ (file number and rule in each docstring).
-/
namespace Sys2Proof.Claims
open Sys2Proof.Machine
/-- Flags Z and N of a result, with C and V as given (04 R130). -/
def resultFlags (r : Word) (cy v : Bool) : FlagUpd := { z := some (r == 0), n := some r.msb, c := some cy, v := some v }

/-- Flags Z and N of a result; C and V stay. -/
def signFlags (r : Word) : FlagUpd := { z := some (r == 0), n := some r.msb }

/-- Flags Z and N of a result, with V cleared; C stays. -/
def logicFlags (r : Word) : FlagUpd := { z := some (r == 0), n := some r.msb, v := some false }

/-- SAT is ORed in. -/
def satFlags (sat : Bool) : FlagUpd := { sticky := if sat then 0x10 else 0 }

/-- A result in d[Rd] with its flags. -/
def result (rd : Fin 16) (r : Word) (u : FlagUpd) (c : Cabinet) : Cabinet := putFlags u (setD rd r c)

/-- The sum a + b + C in d[Rd]: C is the carry out, V the signed overflow (04 R130). -/
def sumInto (rd : Fin 16) (a b : Word) (cin : Bool) (c : Cabinet) : Cabinet :=
  let r := a + b + (if cin then 1 else 0)
  result rd r (resultFlags r (decide (2 ^ 32 ≤ a.toNat + b.toNat + cin.toNat)) (decide (a.toInt + b.toInt + cin.toNat ≠ r.toInt))) c

/-- The difference a − b − (1 − C). -/
def difference (a b : Word) (cin : Bool) : Word := a - b - (if cin then 0 else 1)

/-- Its flags: C is set on no borrow, V on signed overflow. -/
def differenceFlags (a b : Word) (cin : Bool) : FlagUpd :=
  let r := difference a b cin
  resultFlags r (decide (b.toNat + (!cin).toNat ≤ a.toNat)) (decide (a.toInt - b.toInt - (!cin).toNat ≠ r.toInt))

/-- The difference in d[Rd]. -/
def differenceInto (rd : Fin 16) (a b : Word) (cin : Bool) (c : Cabinet) : Cabinet :=
  result rd (difference a b cin) (differenceFlags a b cin) c

/-- A shift result in d[Rd]: by an amount of 0 C stays, else it is the last bit shifted out; V is cleared (04 R130). -/
def shiftInto (rd : Fin 16) (r : Word) (n : Nat) (out : Bool) (c : Cabinet) : Cabinet :=
  result rd r { z := some (r == 0), n := some r.msb, c := if n = 0 then none else some out, v := some false } c

/-- The integer nearest to `x` in the signed range of `n` bits. -/
def clampS (n : Nat) (x : Int) : Int := max (- 2 ^ (n - 1)) (min (2 ^ (n - 1) - 1) x)

/-- A 32-bit saturating result in d[Rd], with SAT where the exact `x` lies outside (03 R111). -/
def satInto (rd : Fin 16) (x : Int) (c : Cabinet) : Cabinet :=
  result rd (BitVec.ofInt 32 (clampS 32 x)) (satFlags (decide (clampS 32 x ≠ x))) c

/-- The signed elements of a packed pair. -/
def lowHalf (w : Word) : Int := (w.setWidth 16).toInt
def highHalf (w : Word) : Int := ((w >>> 16).setWidth 16).toInt

/-- A packed pair of two 16-bit patterns. -/
def pairOf (hi lo : Int) : Word := (BitVec.ofInt 16 hi).setWidth 32 <<< 16 ||| (BitVec.ofInt 16 lo).setWidth 32

/-- A saturating pair result in d[Rd] (03 R111; 04 R135). -/
def pairInto (rd : Fin 16) (hi lo : Int) (c : Cabinet) : Cabinet :=
  result rd (pairOf (clampS 16 hi) (clampS 16 lo)) (satFlags (decide (clampS 16 hi ≠ hi) || decide (clampS 16 lo ≠ lo))) c


/-- Where cabinet `k` executes instruction `i`, the instruction retires and leaves the cabinet `x`, and `next` follows it. -/
def Runs (k : Fin 16) (i : Instr) (s : State) (x : Cabinet) (next : Word) : Prop := Executes k i s → Retires k i s x next

/-! Memory accesses, branches and traps. -/

/-- The low `n` bytes of a value as a register takes them: sign-extended or zero-extended (04 R137, R138). -/
def extended (n : Nat) (signed : Bool) (v : Nat) : Word :=
  if signed then (BitVec.ofNat (8 * n) v).signExtend 32 else BitVec.ofNat 32 v

/-- Every form of a load into d[Rd] through a[An]: the instruction, its syllables, its mode, its bytes, whether it extends the sign. -/
def loadForms (k rd : Fin 16) (an : Fin 8) (m : Mode) (sm : SMode) : List (Instr × Nat × Mode × Nat × Bool) :=
  [(.ld k rd an sm, 1, sm.long, 4, false), (.ldW k rd an m, 2, m, 4, false), (.ldH k rd an m, 2, m, 2, true),
   (.ldHu k rd an m, 2, m, 2, false), (.ldB k rd an m, 2, m, 1, true), (.ldBu k rd an m, 2, m, 1, false)]

/-- Every form of a store of d[Rd] through a[An]: the instruction, its syllables, its mode, its bytes. -/
def storeForms (k rd : Fin 16) (an : Fin 8) (m : Mode) (sm : SMode) : List (Instr × Nat × Mode × Nat) :=
  [(.st k rd an sm, 1, sm.long, 4), (.stW k rd an m, 2, m, 4), (.stH k rd an m, 2, m, 2), (.stB k rd an m, 2, m, 1)]

/-- The cabinet with one more store behind the others of its store buffer (05 R182). -/
def buffered (a n : Nat) (v : Word) (c : Cabinet) : Cabinet :=
  { c with pipe := { c.pipe with sbuf := c.pipe.sbuf ++ [⟨a, n, v, c.level⟩] } }

/-- Whether a branch with this condition is taken on these flags (04 R140). -/
def takenOn (cond : Nat) (z n c v : Bool) : Bool :=
  match cond with
  | 0 => true
  | 1 => z
  | 2 => !z
  | 3 => c
  | 4 => !c
  | 5 => n
  | 6 => !n
  | 7 => v
  | 8 => !v
  | 9 => c && !z
  | 10 => !c || z
  | 11 => n == v
  | 12 => !(n == v)
  | 13 => !z && n == v
  | _ => z || !(n == v)

/-- The address that follows a conditional branch of `len` syllables. -/
def branchNext (cond len : Nat) (off : Word) (c : Cabinet) : Word :=
  let f := getFlags c
  if takenOn cond (f.getLsbD 0) (f.getLsbD 1) (f.getLsbD 2) (f.getLsbD 3) then curPc c + off else after len c

/-- Instruction `i` of cabinet `k`, outside a run, raises the fault `e`: the fault waits for its entry and no register, no flag and no
memory changes, the program counter included (04 R126). -/
def Faults (k : Fin 16) (i : Instr) (s : State) (e : Exc) : Prop :=
  ∃ t, exec i s = .next t ∧ OnlyCabinet k s t ∧ (t.cab k).pipe.fault = some e ∧ (t.cab k).core = (s.cab k).core ∧
    (t.cab k).mems = (s.cab k).mems ∧ (t.cab k).pipe.sbuf = (s.cab k).pipe.sbuf

/-- Instruction `i` of cabinet `k` answers a next state in which the trap `e` waits for its entry, or none. -/
def Traps (k : Fin 16) (i : Instr) (s : State) (e : Option Exc) : Prop :=
  ∃ t, exec i s = .next t ∧ (t.cab k).pipe.trap = e


/-! Floating point. -/

/-- A binary32 operand that is a NaN (03 R114). -/
def nanWord (w : Word) : Prop := fld w 23 8 = 255 ∧ fld w 0 23 ≠ 0

/-- A finite binary32 operand. -/
def finiteWord (w : Word) : Prop := fld w 23 8 ≠ 255

/-- The exact value of a finite operand in units of 2^-149; a subnormal counts as zero (03 R114). -/
def exactValue (w : Word) : Int :=
  let e := fld w 23 8
  let m : Int := ((2 ^ 23 + fld w 0 23) * 2 ^ (e - 1) : Nat)
  if e = 0 then 0 else if w.msb then - m else m

/-- The word `r` is the rounding to nearest of `num / den` in units of 2^-149, ties to the even significand, where it is finite and not
zero. -/
def nearest (num : Int) (den : Nat) (r : Word) : Prop :=
  finiteWord r → exactValue r ≠ 0 → ∀ w, finiteWord w →
    (exactValue r * den - num).natAbs ≤ (exactValue w * den - num).natAbs ∧
    ((exactValue r * den - num).natAbs = (exactValue w * den - num).natAbs → exactValue w ≠ exactValue r → r.getLsbD 0 = false)

/-- A float result: one NaN word, no subnormal, and no flag but the sticky floating-point ones (03 R114). -/
def floatResult (r : AluRes) : Prop :=
  (nanWord r.val → r.val = 0x7FC00000) ∧ (fld r.val 23 8 = 0 → fld r.val 0 23 = 0) ∧
  r.upd = { sticky := r.upd.sticky } ∧ r.upd.sticky &&& ~~~ (0x001F0000 : Word) = 0

/-- A float result in d[Rd]. -/
def resultOf (rd : Fin 16) (r : AluRes) (c : Cabinet) : Cabinet := result rd r.val r.upd c

/-! Faults and traps of instructions. -/

/-- Instruction `i` of cabinet `k`, in a run, raises the exception `e`: the run ends, and the exception waits for its entry at Machine
level behind nothing else (02 R58). -/
def RunEnds (k : Fin 16) (i : Instr) (s : State) (e : Exc) : Prop :=
  ∃ t, exec i s = .next t ∧ OnlyCabinet k s t ∧ (t.cab k).pipe.runExc = some e ∧ (t.cab k).frame.inRun = false ∧
    (t.cab k).frame.stat.getLsbD 5 = true

/-- Instruction `i` raises the fault `e` wherever it executes. -/
def FaultsAnywhere (k : Fin 16) (i : Instr) (s : State) (e : Exc) : Prop :=
  Executes k i s → if (s.cab k).frame.inRun then RunEnds k i s e else Faults k i s e

/-- The instructions that can overflow: the instruction, its syllables, whether it does (04 R129, R130). -/
def overflowForms (k rd rs : Fin 16) (imm : BitVec 14) (c : Cabinet) : List (Instr × Nat × Bool) :=
  let a := getD rd c
  let b := getD rs c
  let m : Word := imm.signExtend 32
  let cy := (carry c).toNat
  [(.add k rd rs, 1, decide (a.toInt + b.toInt ≠ (a + b).toInt)),
   (.addc k rd rs, 1, decide (a.toInt + b.toInt + cy ≠ (a + b + BitVec.ofNat 32 cy).toInt)),
   (.sub k rd rs, 1, decide (a.toInt - b.toInt ≠ (a - b).toInt)),
   (.subc k rd rs, 1, decide (a.toInt - b.toInt - (1 - cy : Nat) ≠ (a - b - BitVec.ofNat 32 (1 - cy)).toInt)),
   (.neg k rd rs, 1, b == 0x80000000), (.abs k rd rs, 1, b == 0x80000000),
   (.addi k rd imm, 2, decide (a.toInt + m.toInt ≠ (a + m).toInt))]

/-- The dividing instructions: the instruction, its syllables, whether it is DIV. -/
def divisionForms (k rd rs : Fin 16) : List (Instr × Nat × Bool) :=
  [(.div k rd rs, 1, true), (.divu k rd rs, 1, false), (.rem k rd rs, 2, false), (.remu k rd rs, 2, false)]

/-- The trap of a form, in a run or outside it: in a run it ends the run; outside, it keeps the level at which the instruction ran (06
R208). -/
def TrapsAnywhere (k : Fin 16) (i : Instr) (s : State) (e : Option Exc) : Prop :=
  if (s.cab k).frame.inRun then (∀ x, e = some x → RunEnds k i s x)
  else Traps k i s (e.map (fun x => { x with level := some (s.cab k).level }))

/-! Loop path, walks, custom instructions. -/

/-- The cycle count at which an instruction of a run retires (05 R205). -/
def runCount (len : Nat) (ops : List Micro) (c : Cabinet) : Nat :=
  (c.pipe.sched.instr ((curPc c).toNat + len - 1) false false ops none).2 + 1

/-- The elements of a walk have all completed, and the core is where it was. -/
def walked (c : Cabinet) (n : Nat) (w : Walk) : Prop :=
  w.exc = none ∧ w.held = false ∧ w.done = n ∧ w.c.pipe.hold = c.pipe.hold ∧ w.c.frame.inRun = c.frame.inRun

/-- The element at which a resumable instruction starts (04 R158, R159), or goes on between two events of its execution. -/
def firstElement (c : Cabinet) : Nat :=
  if c.frame.inRun then 0
  else match c.pipe.walked with
    | some m => m
    | none => if c.core.prg.getLsbD 16 then c.core.prg.toNat % 2 ^ 16 else 0

/-- PRG once a resumable instruction has been ended with `n` elements done (04 R157). -/
def prgOf (n : Nat) : Word := BitVec.ofNat 32 (n % 2 ^ 16) ||| 0x10000

/-- The cabinet once a resumable instruction has completed: outside a run PRG is 0 (04 R158, R159). -/
def completed (inRun : Bool) (c : Cabinet) : Cabinet := if inRun then c else { c with core := { c.core with prg := 0 } }

/-- A word of memory that a load reads at once: in memory, allowed, in no buffered store, with good parity. -/
def plainWord (a : Word) (c : Cabinet) : Prop :=
  accessFault a 4 .load c = none ∧ isMem a.toNat = true ∧ youngest c a.toNat 4 = none ∧ loadFails c a.toNat 4 = 0

/-- The word there. -/
def wordAt (a : Word) (c : Cabinet) : Word := BitVec.ofNat 32 (memRead c a.toNat 4)

/-- Two cabinets differ in the counters, in the events of blocks and in the integrity block alone. -/
def sameButCounts (d c : Cabinet) : Prop := ∃ p e q, d = { c with prf := p, errs := e, par := q }

/-- The micro-operations of a slot. -/
def microOps (c : Cabinet) (slot : Fin 16) : List Uop :=
  (slotEntries c.dec.slot[slot]).filterMap (fun i => uopDecode (uopAt c i))

/-- The custom instruction of slot `slot` executed on the cabinet `f` whose syllables have been fetched. -/
def customRun (slot : Fin 16) (o : CxOps) (f : Cabinet) : CxState :=
  cxRun o true (microOps f slot) { c := f, base := f, x := ctx f, flags := getFlags f }

/-- What it leaves: its context, its flags, its stores. -/
def customLeaves (z : CxState) : Cabinet :=
  z.st.foldl (fun c x => pushStore .u x.1 4 x.2 c) (setFlags z.flags (setCtx z.x z.c))

/-- The two forms of a custom instruction: the instruction, its syllables, its operands (04 R161; 07 R236). -/
def customForms (k slot : Fin 16) (rd rs : Fin 8) (d s t imm4 : Fin 16) : List (Instr × Nat × CxOps) :=
  [(.cx k slot rd rs, 1, ⟨rd.val, rs.val, rd.val, 0⟩), (.cxL k slot d s t imm4, 2, ⟨d.val, s.val, t.val, imm4.val⟩)]


/-! The blocks of a cabinet. -/

/-- Command `i` acts within cabinet `k`, which it leaves as `P` says. -/
def Reaches (k : Fin 16) (i : Instr) (s : State) (P : Cabinet → Prop) : Prop :=
  ∃ t, exec i s = .next t ∧ OnlyCabinet k s t ∧ P (t.cab k)

/-- Software at level `l` may write the word `w` to the register at `a`: the level reaches it, and the write changes no field that the
level may not change (00 R8, R10; 03 R106). -/
def MayWrite (k : Fin 16) (l : Level) (a : Nat) (w : Word) (s : State) : Prop :=
  Live k s ∧ softReach l a (s.cab k) = true ∧ regViolates l a w (s.cab k) = false

/-- Pulse-end, trip: the enables of a comparator side and its blanking (08 R297 to R299). -/
def pulseEnabled (c : Cabinet) (n : Fin 8) (low : Bool) : Prop :=
  (c.cmpr.pe[n]).getLsbD (if low then 1 else 0) = true ∧ c.cmpr.blankPulse.getLsbD n.val = false
def tripEnabled (c : Cabinet) (n : Fin 8) (low : Bool) : Prop :=
  (c.cmpr.cfg[n]).getLsbD (if low then 23 else 24) = true ∧ c.cmpr.blankTrip.getLsbD n.val = false

/-- The pair that comparator `n` ends the pulse of. -/
def pulsePair (c : Cabinet) (n : Fin 8) : Fin 4 := Fin.ofNat 4 ((c.cmpr.pe[n]).toNat / 2 ^ 4 % 4)

/-- A value moved into a range. -/
def within (lo hi v : Nat) : Nat := max lo (min hi v)

/-- The frame's window for the sample instant. -/
def windowLo (c : Cabinet) : Nat := c.cnv.win.toNat % 2 ^ 10
def windowHi (c : Cabinet) : Nat := c.cnv.win.toNat / 2 ^ 16 % 2 ^ 10

/-- The estimate of a pair's dead time after a measurement (09 R317). -/
def follow (e t : Nat) : Nat := if e < t then t else if t < e then e - 1 else e

/-- The position moved by one, with the cause of a wrap (10 R341). -/
def stepPosition (neg : Bool) (p : Word) : Word := if neg then p - 1 else p + 1


/-- The step of the position in its direction, FBK_CFG.DIRINV taken into account (10 R341). -/
def counted (c : Cabinet) (rev : Bool) (p : Word) : Word := stepPosition (rev != c.fbk.cfg.getLsbD 2) p

/-- `n` positions in the direction of FBK_CFG.DIRINV. -/
def countedBy (c : Cabinet) (n : Nat) (p : Word) : Word :=
  if c.fbk.cfg.getLsbD 2 then p - BitVec.ofNat 32 n else p + BitVec.ofNat 32 n


/-- The drawer clocks from a step to the next (11 R368). -/
def stepClocks (d : Drawer) : Nat := d.cfg.toNat % 2 ^ 8 + 1

/-- A drawer that has taken a step to `next` with the outputs of its entry (11 R368, R373). -/
def stepped (d : Drawer) (oe out next : Nat) : Drawer :=
  { d with out := out, oe := oe, pinsSafe := false, state := next, stall := none, stallFlagged := false, clk := stepClocks d }

/-- What DEPOSIT and FETCH leave in the drawer (11 R374, R376); what a queue gains or loses in a drawer clock is counted (R379). -/
def deposited (arg : Nat) (d : Drawer) : Drawer :=
  { d with
    inq := if arg % 2 = 1 then d.inq ++ [d.gath] else d.inq, iqIn := d.iqIn + arg % 2,
    posBuf := if arg / 2 % 2 = 1 then some d.gath else d.posBuf, gath := 0, gcnt := 0 }
def fetched (v : Word) (rest : List Word) (d : Drawer) : Drawer :=
  { d with send := v, scnt := d.cfg.toNat / 2 ^ 16 % 2 ^ 5 + 1, outq := rest, oqOut := d.oqOut + 1 }

/-- DEPOSIT into the inbound queue or the position buffer can complete, and so can FETCH (11 R377, R379). -/
def depositFits (arg : Nat) (d : Drawer) : Prop :=
  (arg % 2 = 1 → d.inq.length + d.iqOut < 4) ∧ (arg / 2 % 2 = 1 → d.posBuf = none ∧ d.posFreed = false)
def fetchFits (d : Drawer) : Prop := d.oqIn < d.outq.length

/-- The interrupt-line latch of a drawer that listens to line `src` sets, for the steps from the next drawer clock on; a second event
before a step is lost (11 R372). -/
def heardLine (src : Nat) (d : Drawer) : Drawer :=
  if d.cfg.toNat / 2 ^ 24 % 2 ^ 5 = src then
    (if d.irqLatch then { d with evlost := true } else { d with irqLatch := true, irqNew := true })
  else d

/-- Drawer `n` is left as `d`, unless the report of its interrupt trips the cabinet, which may stop the drawer (01 R22; 11 R388). -/
def LeavesDrawer (c : Cabinet) (n : Fin 4) (d : Drawer) (x : Cabinet) : Prop := x.latch = c.latch → x.drw.dr[n] = d


/-- A count stands at or after another, modulo 2^64 (12 R400). -/
def reached (a b : BitVec 64) : Prop := (b - a).toNat < 2 ^ 63

/-- Source `n` can be claimed: it is pending, enabled and above the running priority (12 R414, R415). -/
def claimable (u : Icu) (n : Fin 128) : Prop :=
  (u.src[n]).pend = true ∧ (u.src[n]).en = true ∧ runPri u < (u.src[n]).prio

/-- Counter `n`'s register bits in PRF_OVFL and PRF_OVFH (14 R448). -/
def wrapped (p : Prf) (n : Fin 64) : Bool := if n.val < 32 then p.ovfl.getLsbD n.val else p.ovfh.getLsbD (n.val - 32)


/-- Command `i` enters the chip safe state of a cause: every cabinet's trip latch sets, and no command waits (01 R40). -/
def EntersSafe (i : Instr) (s : State) (cause : SafeCause) : Prop :=
  ∃ t, exec i s = .next t ∧ t.pending = s.pending ∧ t.chip.side.safe = some cause ∧ t.chip.side.waiting = [] ∧
    ∀ k : Fin 16, (t.cab k).latch = true ∧ (t.cab k).chipSafe = true ∧ (t.cab k).pwm.tripsrc.getLsbD 6 = true ∧
      ((s.cab k).latch = false → (s.cab k).mode = .loaded ∨ (s.cab k).mode = .armed ∨ (s.cab k).mode = .running →
        (t.cab k).mode = .tripped)

/-- Command `i` starts a reset of class P (19 R599 to R601): the cabinets are EMPTY, firmware does not run, the scan is due. -/
def StartsReset (i : Instr) (s : State) (src : ResetSrc) (P : State → Prop) : Prop :=
  ∃ t, exec i s = .next t ∧ t.pending = s.pending ∧ t.chip.side.reset = some src ∧ t.chip.side.rstSrc = src ∧
    t.chip.side.booted = false ∧ t.chip.side.ledger.scan = true ∧ t.chip.side.ringA.phase = .out ∧ t.chip.side.ringB.phase = .out ∧
    (∀ k : Fin 16, (t.cab k).mode = .empty ∧ (t.cab k).frame.running = false ∧ (t.cab k).core.psw = ({} : Core).psw ∧
      (t.cab k).pend = [] ∧ (t.cab k).pipe.sbuf = []) ∧ P t

/-- Core `x` comes before core `y` in the order of 19 R617 after core `last`. -/
def before (last : Nat) (x y : Fin 4) : Prop := (x.val + 3 - last % 4 + 4) % 4 < (y.val + 3 - last % 4 + 4) % 4


/-- The status byte of the bench port (15 R500). -/
def statusByte (d : Side) : Byte :=
  BitVec.ofNat 8 (cond d.bench.replies.isEmpty 0 1 + cond d.bench.busy 2 0 + cond d.bench.crcErr 4 0 + cond d.bench.lenErr 8 0 +
    cond d.bench.ovr 16 0 + cond d.booted 32 0 + cond d.safe.isSome 64 0)

/-- The outcome bits of a WRITE on the bench port, with what BP_MISO returned (15 R500, R501). -/
def writeOutcome (d : Side) (n : Nat) (crc len ovr : Bool) : Side :=
  { d with bench := { d.bench with miso := statusByte d :: List.replicate n 0, crcErr := crc, lenErr := len, ovr := ovr } }

/-- The device is in ring `r`, and neither of its hops is wrapped (15 R483, R491). -/
def passes (r : RingId) (d : Side) : Prop := (d.ring r).inRing = true ∧ d.ringA.wrapped = false ∧ d.ringB.wrapped = false

/-- A frame more on the output of ring `r`. -/
def onLine (r : RingId) (f : JFrame) (d : Side) : Side := d.setRing r { d.ring r with line := (d.ring r).line ++ [f] }


/-! Command packets. -/

/-- The sideboard once it has taken packet `p` of a session, and once it processes it (15 R480; 16 R513 to R516). -/
def taken (p : Packet) (d : Side) : Side := (portTakes p.port d).onSession p.session (fun x => { x with lastPort := some p.port })
def inProcess (p : Packet) (d : Side) : Side := (taken p d).onSession p.session (fun x => { x with busy := true })

/-- Packet `p` of opcode `opc` arrives with a right MAC at a port that can deliver it, is well formed, and nothing of its session is held
back (16 R504 to R509, R513, R516 steps 1 to 4). -/
def Arrives (opc : Nat) (p : Packet) (s : State) : Prop :=
  let d := s.chip.side
  p.opc = opc ∧ d.serving = true ∧ portOpen p.port d = true ∧ p.payload.length ≤ 1024 ∧ p.unauth = false ∧ authOk p d = true ∧
    headerOk p = true ∧ payloadOk opc p.payload = true ∧ (d.session p.session).window = [] ∧ (d.session p.session).again = []

/-- It carries the sequence that its open session expects, and no command of the session is in process (16 R513). -/
def InSequence (opc : Nat) (p : Packet) (s : State) : Prop :=
  let x := s.chip.side.session p.session
  Arrives opc p s ∧ x.isOpen = true ∧ p.seq = x.e ∧ x.busy = false

/-- Its principal may send it, and the ledger and its ring have room (16 R516 steps 5 to 7). -/
def Due (opc : Nat) (p : Packet) (s : State) : Prop :=
  InSequence opc p s ∧ permitted p (inProcess p s.chip.side) = true ∧
    roomCheck p { s.chip with side := inProcess p s.chip.side } = none

/-- The command is journaled and answered with a status and data (16 R517; 17 R551). -/
def Answers (i : Instr) (p : Packet) (s : State) (st : Nat) (data : List Byte) : Prop :=
  SideActs i s (finish p st data (inProcess p s.chip.side))

/-- The same, with the sideboard changed to `f` of it first. -/
def Changes (i : Instr) (p : Packet) (s : State) (st : Nat) (data : List Byte) (f : Side → Side) : Prop :=
  SideActs i s (finish p st data (f (inProcess p s.chip.side)))

/-- The command is unsequenced: its reply leaves at once (16 R511, R516). -/
def Replies (i : Instr) (p : Packet) (s : State) (st : Nat) (data : List Byte) : Prop :=
  SideActs i s (answerPacket p st data (taken p s.chip.side))

/-- The command goes to its cabinet with a ticket; the cabinet becomes `c` of the ticket (16 R521). -/
def CabinetGets (i : Instr) (p : Packet) (s : State) (c : Nat → Cabinet) : Prop :=
  let w := inProcess p s.chip.side
  exec i s = .next { s with chip := settleCab (cabOf p.cab) (c w.ticket) { s.chip with side := { w with
    ticket := w.ticket + 1, waiting := w.waiting ++ [⟨w.ticket, p⟩] } } }

/-- The command goes to its cabinet, which it leaves as `P` says. -/
def CabinetLeft (i : Instr) (p : Packet) (s : State) (P : Nat → Cabinet → Prop) : Prop :=
  ∃ t, exec i s = .next t ∧ OnlyCabinet (cabOf p.cab) s t ∧ P s.chip.side.ticket (t.cab (cabOf p.cab))

/-- The cabinet answers the command of ticket `t`. -/
def told (c : Cabinet) (t st : Nat) (data : List Byte) : Cabinet := { c with notes := c.notes ++ [.answer t st data] }

/-- A transition becomes pending (01 R32, R35). -/
def pended (c : Cabinet) (k : LifeCmd) (t : Nat) : Cabinet := { c with pend := c.pend ++ [⟨k, some t⟩] }

/-- The little-endian field of `n` bytes at byte `o` of a payload. -/
def field (p : Packet) (o n : Nat) : Nat := natOfBytes ((p.payload.drop o).take n)


/-- The packet's function byte is `n`, and its other head bytes name nothing reserved (16 R525; 18 R589). -/
def Function (n : Nat) (p : Packet) : Prop := p.payload.head? = some (BitVec.ofNat 8 n)

/-- The bytes of an image of one section (18 R592). -/
def imageBytes (bank : Bool) (evb kind addr : Nat) (data : List Byte) : List Byte :=
  bytesOf 4 0x42434C44 ++ [1, cond bank 1 0] ++ bytesOf 2 1 ++ bytesOf 4 evb ++ bytesOf 4 0 ++
    bytesOf 4 kind ++ bytesOf 4 addr ++ bytesOf 4 data.length ++ data ++ List.replicate ((4 - data.length % 4) % 4) 0

/-- The stage of a cabinet closes: nothing is staged into its bank (16 R525). -/
def unstaged (c : Cabinet) : Cabinet := { c with stage := none, bank := { c.bank with staging := false } }


/-- A commit more waits (17 R551). -/
def committing (ws : List LWrite) (rs : List Release) (d : Side) : Side :=
  { d with ledger := { d.ledger with commits := d.ledger.commits ++ [{ writes := ws, releases := rs }] } }

/-- The unconfirmed orders of a cabinet's ring, oldest first (16 R528, R529). -/
def liveOrders (k : Fin 16) (r : Fin 128) (d : Side) : List (Nat × Entry) :=
  (ringOrders k.val r.val d.view).filter (fun x => x.2.state.occupies)

/-- The cabinet's state, in the sideboard's copy, is one of a state mask (16 R526). -/
def masked (mask : Nat) (k : Fin 16) (d : Side) : Prop := mask / 2 ^ ((d.copies[k]).state.toNat % 8) % 2 = 1


/-- An item names a setting of 18 R575, its cabinet and index are in range, and its reserved bits are 0 (18 R577; the cards of the
registers). -/
def settingOk (x : Item) : Prop :=
  (x.code = 1 ∧ x.cab ≤ 15 ∧ x.idx ≤ 7) ∨
  (x.code = 2 ∧ x.cab ≤ 15 ∧ x.idx = 0 ∧ x.value &&& 0x0E000000 = 0) ∨
  (x.code = 3 ∧ x.cab ≤ 15 ∧ x.idx = 0 ∧ x.value &&& 0xFFFFCC00 = 0) ∨
  (x.code = 4 ∧ x.cab ≤ 15 ∧ x.idx = 0 ∧ (x.value = 0 ∨ x.value = 1)) ∨
  (x.code = 5 ∧ x.cab = 0xFF ∧ x.idx ≤ 31 ∧ x.value &&& 0xFFF00000 = 0) ∨
  (x.code = 6 ∧ x.cab = 0xFF ∧ x.idx = 0) ∨
  (x.code = 7 ∧ x.cab = 0xFF ∧ x.idx = 0 ∧ x.value &&& 0xFFFFC0FE = 0)

/-- Item `j` of a PROTECT_PROPOSE (18 R576). -/
def item (p : Packet) (j : Nat) : Item :=
  ⟨field p (36 + 8 * j) 1, field p (37 + 8 * j) 1, field p (38 + 8 * j) 1, BitVec.ofNat 32 (field p (40 + 8 * j) 4)⟩

/-- One proposal more is open (18 R577, R578). -/
def proposed (p : Packet) (keyOk : Bool) (c : Change) (d : Side) : Side :=
  { d with prot := { d.prot with
      next := d.prot.next + 1
      proposals := d.prot.proposals ++ [{
        number := d.prot.next, prin := (d.session p.session).prin, keyOk := keyOk, digest := (p.payload.drop 4).take 32, change := c,
        win := d.prot.pcfg.toNat / 2 ^ 8 % 2 ^ 6 }] } }

/-- Proposal `n` closes with an outcome (18 R579, R582). -/
def closing (n out : Nat) (d : Side) : Side :=
  { d with prot := { d.prot with
      proposals := d.prot.proposals.filter (fun q => q.number != n), prop := n, out := out,
      expired := if out = 3 then d.prot.expired ++ [n] else d.prot.expired } }


/-- The cabinet that a command acts on alone: an instruction of its core, an event of its blocks or pins, an access of its software
to a register (01 R17, R19). -/
def actsOn : Instr → Option (Fin 16)
  | .add k .. | .sub k .. | .and k .. | .or k .. | .xor k .. | .cmp k .. | .addc k .. | .subc k .. | .shl k .. | .shr k ..
  | .sar k .. | .ror k .. | .min k .. | .max k .. | .abs k .. | .neg k .. | .addi k .. | .andi k .. | .ori k .. | .cmpi k ..
  | .shli k .. | .shri k .. | .sari k .. | .rori k .. | .extb k .. | .extbu k .. | .exth k .. | .exthu k .. | .clz k ..
  | .cls k .. | .macQ k .. | .msuQ k .. | .mulqS k .. | .addqS k .. | .subqS k .. | .rdt k .. | .rdr k .. | .rdl k .. | .rdi k ..
  | .rdg k .. | .wrq k .. | .wri k .. | .clr k .. | .macI k .. | .msuI k .. | .mac2Q k .. | .msu2Q k .. | .macuI k ..
  | .add2S k .. | .sub2S k .. | .mul2q k .. | .absqS k .. | .negqS k .. | .shlqS k .. | .add2 k .. | .sub2 k .. | .mov k ..
  | .mova k .. | .movd k .. | .movaa k .. | .movi k .. | .adda k .. | .movh k .. | .moviL k .. | .ld k .. | .st k .. | .ldW k ..
  | .ldH k .. | .ldHu k .. | .ldB k .. | .ldBu k .. | .stW k .. | .stH k .. | .stB k .. | .bcc k .. | .bccL k .. | .call k ..
  | .callr k .. | .ret k .. | .jmp k .. | .fadd k .. | .fsub k .. | .fmul k .. | .fneg k .. | .fabs k .. | .fcvtWs k ..
  | .fcvtSw k .. | .fcvtQs k .. | .fcvtSq k .. | .fcmp k .. | .fmin k .. | .fmax k .. | .fmadd k .. | .div k .. | .divu k ..
  | .sincos k .. | .atan2 k .. | .sqrt k .. | .divq k .. | .fdiv k .. | .fsqrt k .. | .rem k .. | .remu k .. | .smprd k ..
  | .duty k .. | .waitf k .. | .xformClarke3 k .. | .xformClarke2 k .. | .xformPark k .. | .xformIpark k .. | .xformParksc k ..
  | .xformIparksc k .. | .xformSvt k .. | .vmac k .. | .interp k .. | .bmove k .. | .cx k .. | .cxL k .. | .nop k .. | .sys k ..
  | .brk k .. | .rete k .. | .syncI k .. | .syncC k .. | .wfi k .. | .mtc k .. | .mfc k .. | .pwrite k .. | .storeDrain k ..
  | .exceptionEntry k .. | .lineFillComplete k .. | .fetchRedirect k .. | .cacheParityRefetch k .. | .parBucketLeak k ..
  | .frameBoundary k .. | .dumpRecordComplete k .. | .heartbeatPeriod k .. | .heartbeatLoss k .. | .updatePointU1 k ..
  | .sampleInstant k .. | .supervisoryDiscard k .. | .sampleSetComplete k .. | .frameGuard k .. | .dutyPortCommit k ..
  | .shadowLatch k .. | .trackerUpdate k .. | .spareMatchBlock k .. | .calibrationComplete k .. | .seqTriggerOffset k ..
  | .seqConversionStart k .. | .seqResult k .. | .cnvSeqswWrite k .. | .cnvResRead k .. | .cnvCalStart k .. | .cnvTrkWrite k ..
  | .comparatorAssert k .. | .comparatorDeassert k .. | .blankingEnd k .. | .ckTripNLow k .. | .ckEnNHigh k ..
  | .dtAdaptMeasure k .. | .pwmDtfixWrite k .. | .pwmDtlimWrite k .. | .hallTransition k .. | .toothEdge k ..
  | .fbkExtposWrite k .. | .fbkPosWrite k .. | .fbkCfgWrite k .. | .fbkTcfgWrite k .. | .fbkEdgetslRead k ..
  | .positionBufferWrite k .. | .drawerStep k .. | .bit k .. | .deposit k .. | .fetch k .. | .flag k .. | .raise k ..
  | .wait k .. | .waitEnd k .. | .stop k .. | .stallComplete k .. | .stallLimit k .. | .drwRunStart k .. | .drwRunStop k ..
  | .drwFlush k .. | .drwOutqWrite k .. | .drwInqRead k .. | .drwTdataWrite k .. | .drwTdataRead k .. | .timeOffsetDelivery k ..
  | .slewTick k .. | .alignmentTimeout k .. | .tmrTblRead k .. | .compareFire k .. | .tmrCmplWrite k .. | .tmrCmphWrite k ..
  | .tmrCmpDisarm k .. | .capture k .. | .tmrCapRead k .. | .tmrCapFlush k .. | .icuClaimRead k .. | .icuCompleteWrite k ..
  | .icuSwsetWrite k .. | .parTestWrite k .. | .parBucketWrite k .. | .prfCntlRead k .. | .prfCntlWrite k .. | .prfCnthWrite k ..
  | .prfDumpAreaWrite k .. | .prfSmpstatClr k .. | .preciseSample k .. | .decSlotValidate k .. | .decSlotInvalidate k ..
  | .cabBankselReqWrite k .. | .registerWrite k .. | .selfTestComplete k .. | .referenceClockLoss k .. | .freeRunSwitch k ..
  | .relock k .. | .ioBankLoss k .. | .parkComplete k .. | .wakeRestore k .. | .wakeComplete k .. | .orderDispatch k ..
  | .ordPopRead k .. | .ordDoneWrite k .. | .ordPushWrite k .. | .carrierCrossing k .. | .deadTimeElapsed k ..
  | .counterWrap k .. | .ioBankReturn k .. => some k
  | _ => none

end Sys2Proof.Claims

open Sys2Proof Sys2Proof.Machine Sys2Proof.Claims

/-- ADD, ADDI, ADDC, SUB, SUBC, NEG, CMP, CMPI: the result, all four flags, and no other register, flag or byte of memory (04 R129 to
R131).
AND, OR, XOR, ANDI, ORI, MIN, MAX, ABS, the extensions, CLZ and CLS (04 R129 to R131).
The eight shifts and rotates, by a register's low five bits or by an amount in the instruction (04 R129 to R131). -/
def Obligations.IntegerInstructions : Prop :=
  (∀ (k : Fin 16) (rd rs : Fin 16) (imm : BitVec 14) (s : State),
     let c := s.cab k
     let a := getD rd c
     let b := getD rs c
     let m : Word := imm.signExtend 32
     (Runs k (.add k rd rs) s (sumInto rd a b false c) (after 1 c) ∧
       Runs k (.addc k rd rs) s (sumInto rd a b (carry c) c) (after 1 c) ∧
       Runs k (.sub k rd rs) s (differenceInto rd a b true c) (after 1 c) ∧
       Runs k (.subc k rd rs) s (differenceInto rd a b (carry c) c) (after 1 c) ∧
       Runs k (.neg k rd rs) s (differenceInto rd 0 b true c) (after 1 c) ∧
       Runs k (.cmp k rd rs) s (putFlags (differenceFlags a b true) c) (after 1 c)) ∧
     (Runs k (.addi k rd imm) s (sumInto rd a m false c) (after 2 c) ∧
       Runs k (.cmpi k rd imm) s (putFlags (differenceFlags a m true) c) (after 2 c))) ∧
  (∀ (k : Fin 16) (rd rs : Fin 16) (imm : BitVec 14) (s : State),
     let c := s.cab k
     let a := getD rd c
     let b := getD rs c
     let m : Word := imm.setWidth 32
     let least := if a.toInt ≤ b.toInt then a else b
     let most := if b.toInt ≤ a.toInt then a else b
     let mag : Word := if b.toInt < 0 then 0 - b else b
     let extb : Word := (b.setWidth 8).signExtend 32
     let extbu : Word := (b.setWidth 8).setWidth 32
     let exth : Word := (b.setWidth 16).signExtend 32
     let exthu : Word := (b.setWidth 16).setWidth 32
     (Runs k (.and k rd rs) s (result rd (a &&& b) (logicFlags (a &&& b)) c) (after 1 c) ∧
       Runs k (.or k rd rs) s (result rd (a ||| b) (logicFlags (a ||| b)) c) (after 1 c) ∧
       Runs k (.xor k rd rs) s (result rd (a ^^^ b) (logicFlags (a ^^^ b)) c) (after 1 c) ∧
       Runs k (.min k rd rs) s (result rd least (signFlags least) c) (after 1 c) ∧
       Runs k (.max k rd rs) s (result rd most (signFlags most) c) (after 1 c) ∧
       Runs k (.abs k rd rs) s
         (result rd mag { z := some (mag == 0), n := some mag.msb, v := some (b == 0x80000000) } c) (after 1 c)) ∧
     (Runs k (.andi k rd imm) s (result rd (a &&& m) (logicFlags (a &&& m)) c) (after 2 c) ∧
       Runs k (.ori k rd imm) s (result rd (a ||| m) (logicFlags (a ||| m)) c) (after 2 c) ∧
       Runs k (.extb k rd rs) s (result rd extb (signFlags extb) c) (after 2 c) ∧
       Runs k (.extbu k rd rs) s (result rd extbu (signFlags extbu) c) (after 2 c) ∧
       Runs k (.exth k rd rs) s (result rd exth (signFlags exth) c) (after 2 c) ∧
       Runs k (.exthu k rd rs) s (result rd exthu (signFlags exthu) c) (after 2 c) ∧
       (∀ n : Nat, n ≤ 32 → b.toNat < 2 ^ (32 - n) → (n < 32 → 2 ^ (31 - n) ≤ b.toNat) →
         Runs k (.clz k rd rs) s (result rd (BitVec.ofNat 32 n) { z := some (n == 0) } c) (after 2 c)) ∧
       (∀ n : Nat, n ≤ 31 → (∀ j < n, b.getLsbD (30 - j) = b.msb) → (n < 31 → b.getLsbD (30 - n) = !b.msb) →
         Runs k (.cls k rd rs) s (result rd (BitVec.ofNat 32 n) { z := some (n == 0) } c) (after 2 c)))) ∧
  (∀ (k : Fin 16) (rd rs : Fin 16) (amount : BitVec 5) (s : State),
     let c := s.cab k
     let a := getD rd c
     let left (n : Nat) := shiftInto rd (a <<< n) n (a.getLsbD (32 - n)) c
     let right (n : Nat) := shiftInto rd (a >>> n) n (a.getLsbD (n - 1)) c
     let arith (n : Nat) := shiftInto rd (a.sshiftRight n) n (a.getLsbD (n - 1)) c
     let rotate (n : Nat) := shiftInto rd (a.rotateRight n) n (a.getLsbD (n - 1)) c
     let n := (getD rs c).toNat % 32
     let m := amount.toNat
     (Runs k (.shl k rd rs) s (left n) (after 1 c) ∧
       Runs k (.shr k rd rs) s (right n) (after 1 c) ∧
       Runs k (.sar k rd rs) s (arith n) (after 1 c) ∧
       Runs k (.ror k rd rs) s (rotate n) (after 1 c)) ∧
     (Runs k (.shli k rd amount) s (left m) (after 2 c) ∧
       Runs k (.shri k rd amount) s (right m) (after 2 c) ∧
       Runs k (.sari k rd amount) s (arith m) (after 2 c) ∧
       Runs k (.rori k rd amount) s (rotate m) (after 2 c)))

/-- The seven multiply-accumulates, WRQ, WRI and CLR: the accumulator modulo 2^72, and no other register, flag or byte of memory (03 R112;
04 R132 to R134).
RDT, RDR, RDL, RDI, RDG: how an accumulator narrows (03 R113; 04 R133).
The saturating and the packed operations: the nearest limit and SAT outside the range, V and C unchanged (03 R111, R113; 04 R132,
R135). -/
def Obligations.AccumulatorsAndSaturation : Prop :=
  (∀ (k : Fin 16) (x : Fin 2) (ra rb : Fin 16) (s : State),
     let c := s.cab k
     let acc := (getAcc x c).toInt
     let a := getD ra c
     let b := getD rb c
     let put (v : Int) := setAcc x (BitVec.ofInt 72 v) c
     let pairs := (lowHalf a * lowHalf b + highHalf a * highHalf b) * 2 ^ 33
     (Runs k (.macQ k x ra rb) s (put (acc + 2 * (a.toInt * b.toInt))) (after 1 c) ∧
       Runs k (.msuQ k x ra rb) s (put (acc - 2 * (a.toInt * b.toInt))) (after 1 c) ∧
       Runs k (.wrq k x ra) s (put (a.toInt * 2 ^ 32)) (after 1 c) ∧
       Runs k (.wri k x ra) s (put a.toInt) (after 1 c) ∧
       Runs k (.clr k x 0) s (put 0) (after 1 c)) ∧
     (Runs k (.macI k x ra rb) s (put (acc + a.toInt * b.toInt)) (after 2 c) ∧
       Runs k (.msuI k x ra rb) s (put (acc - a.toInt * b.toInt)) (after 2 c) ∧
       Runs k (.macuI k x ra rb) s (put (acc + a.toNat * b.toNat)) (after 2 c) ∧
       Runs k (.mac2Q k x ra rb) s (put (acc + pairs)) (after 2 c) ∧
       Runs k (.msu2Q k x ra rb) s (put (acc - pairs)) (after 2 c))) ∧
  (∀ (k : Fin 16) (rd : Fin 16) (x : Fin 2) (s : State),
     let c := s.cab k
     let acc := getAcc x c
     Runs k (.rdt k rd x) s (satInto rd (acc.toInt / 2 ^ 32) c) (after 1 c) ∧
       Runs k (.rdr k rd x) s (satInto rd ((acc.toInt + 2 ^ 31) / 2 ^ 32) c) (after 1 c) ∧
       Runs k (.rdi k rd x) s (satInto rd acc.toInt c) (after 1 c) ∧
       Runs k (.rdl k rd x) s (setD rd (acc.setWidth 32) c) (after 1 c) ∧
       Runs k (.rdg k rd x) s (setD rd (BitVec.ofInt 32 (acc.toInt / 2 ^ 64)) c) (after 1 c)) ∧
  (∀ (k : Fin 16) (rd rs : Fin 16) (amount : BitVec 5) (s : State),
     let c := s.cab k
     let a := getD rd c
     let b := getD rs c
     let round (x y : Int) := (x * y + 2 ^ 14) / 2 ^ 15
     (Runs k (.mulqS k rd rs) s (satInto rd ((a.toInt * b.toInt + 2 ^ 30) / 2 ^ 31) c) (after 1 c) ∧
       Runs k (.addqS k rd rs) s (satInto rd (a.toInt + b.toInt) c) (after 1 c) ∧
       Runs k (.subqS k rd rs) s (satInto rd (a.toInt - b.toInt) c) (after 1 c)) ∧
     (Runs k (.add2S k rd rs) s (pairInto rd (highHalf a + highHalf b) (lowHalf a + lowHalf b) c) (after 2 c) ∧
       Runs k (.sub2S k rd rs) s (pairInto rd (highHalf a - highHalf b) (lowHalf a - lowHalf b) c) (after 2 c) ∧
       Runs k (.mul2q k rd rs) s
         (pairInto rd (round (highHalf a) (highHalf b)) (round (lowHalf a) (lowHalf b)) c) (after 2 c) ∧
       Runs k (.absqS k rd rs) s (satInto rd b.toInt.natAbs c) (after 2 c) ∧
       Runs k (.negqS k rd rs) s (satInto rd (- b.toInt) c) (after 2 c) ∧
       Runs k (.shlqS k rd rs amount) s (satInto rd (b.toInt * 2 ^ amount.toNat) c) (after 2 c) ∧
       Runs k (.add2 k rd rs) s (setD rd (pairOf (highHalf a + highHalf b) (lowHalf a + lowHalf b)) c) (after 2 c) ∧
       Runs k (.sub2 k rd rs) s (setD rd (pairOf (highHalf a - highHalf b) (lowHalf a - lowHalf b)) c) (after 2 c)))

/-- The moves, NOP and SMPRD; a7 is the current level's stack pointer, whose two low bits a write does not take (03 R93, R95; 04 R136,
R150, R162). -/
def Obligations.Moves : Prop :=
  ∀ (k : Fin 16) (rd rs : Fin 16) (ad sa : Fin 8) (imm6 : BitVec 6) (imm16 : BitVec 16) (n : Fin 4) (s : State),
    let c := s.cab k
    (Runs k (.mov k rd rs) s (setD rd (getD rs c) c) (after 1 c) ∧
      Runs k (.mova k (ad.castLE (by decide)) rs) s (setA ad (getD rs c) c) (after 1 c) ∧
      Runs k (.movd k rd (sa.castLE (by decide))) s (setD rd (getA sa c) c) (after 1 c) ∧
      Runs k (.movaa k (ad.castLE (by decide)) (sa.castLE (by decide))) s (setA ad (getA sa c) c) (after 1 c) ∧
      Runs k (.movi k rd imm6) s (setD rd (imm6.signExtend 32) c) (after 1 c) ∧
      Runs k (.nop k) s c (after 1 c) ∧
      Runs k (.smprd k rd n) s (setD rd c.core.s[n] c) (after 1 c)) ∧
    (Runs k (.adda k ad imm16) s (setA ad (getA ad c + imm16.signExtend 32) c) (after 2 c) ∧
      Runs k (.movh k rd imm16) s (setD rd (imm16 ++ (getD rd c).setWidth 16) c) (after 2 c) ∧
      Runs k (.moviL k rd imm16) s (setD rd (imm16.signExtend 32) c) (after 2 c)) ∧
    (∀ v : Word, getA 7 (setA 7 v c) = v &&& 0xFFFFFFFC ∧ getA 7 c = getSp c.level c)

/-- The effective address of each mode and what it leaves in its address register (03 R115, R118, R119).
Which accesses of a load or a store raise an exception, and which one: misalignment before reach (02 R57; 03 R104 to R108; 00 R7). -/
def Obligations.AddressesAndAccess : Prop :=
  (∀ (i n : Nat) (o : BitVec 8) (c : Cabinet), i < 8 → (n = 1 ∨ n = 2 ∨ n = 4) →
     let a := getA i c
     let ml := c.core.ml[Fin.ofNat 8 i]
     let len := (ml.toNat % 2 ^ 16 : Int)
     let base := (ml.toNat / 2 ^ 16 * 4 : Int)
     let up := (a.toNat + n : Int)
     let down := (a.toNat - n : Int)
     let w := c.core.brv.toNat % 16
     let h := if n = 4 then 2 else n - 1
     Mode.ea .ind n a = a ∧ Mode.next .ind i n c = none ∧
     Mode.ea (.off o) n a = a + BitVec.ofInt 32 (o.toInt * n) ∧ Mode.next (.off o) i n c = none ∧
     Mode.ea .inc n a = a ∧ Mode.next .inc i n c = some (a + BitVec.ofNat 32 n) ∧
     Mode.ea .dec n a = a ∧ Mode.next .dec i n c = some (a - BitVec.ofNat 32 n) ∧
     Mode.ea .modInc n a = a ∧
     Mode.next .modInc i n c = some (BitVec.ofInt 32 (if len ≠ 0 ∧ base + len ≤ up then up - len else up)) ∧
     Mode.ea .modDec n a = a ∧
     Mode.next .modDec i n c = some (BitVec.ofInt 32 (if len ≠ 0 ∧ down < base then down + len else down)) ∧
     Mode.ea .brev n a = a ∧
     (w = 0 → Mode.next .brev i n c = some (a + BitVec.ofNat 32 n)) ∧
     (w ≠ 0 → ∃ v, Mode.next .brev i n c = some v ∧
       bitrev w (v.toNat / 2 ^ h % 2 ^ w) = (bitrev w (a.toNat / 2 ^ h % 2 ^ w) + 1) % 2 ^ w ∧
       ∀ j, j < h ∨ h + w ≤ j → v.getLsbD j = a.getLsbD j)) ∧
  (∀ (c : Cabinet) (a : Word) (n : Nat) (load : Bool), (n = 1 ∨ n = 2 ∨ n = 4) →
     let x := a.toNat
     let k : AccKind := if load then .load else .store
     let regs := decide (0x40000 ≤ x) && decide (x < 0x4B000)
     let window := c.core.uperm.getLsbD 17 && decide (c.core.udlo.toNat % 2 ^ 18 ≤ x) &&
       decide (x + n ≤ c.core.udhi.toNat % 2 ^ 18 + 1)
     let block := c.core.uperm.getLsbD ((x - 0x40000) / 0x1000)
     (x % n ≠ 0 → accessFault a n k c = some { vec := 7, acc := k, addr := a }) ∧
     (regs = true → n ≠ 4 → accessFault a n k c = some { vec := 7, acc := k, addr := a }) ∧
     (x % n = 0 → (regs = true → n = 4) → (accessFault a n k c = none ∨ accessFault a n k c = some { vec := 8, acc := k, addr := a }) ∧
       (c.frame.inRun = true → (accessFault a n k c = none ↔ 0x20000 ≤ x ∧ x + n ≤ 0x22000)) ∧
       (c.frame.inRun = false → c.level = .machine → (accessFault a n k c = none ↔ x < 0x22000 ∨ regs = true)) ∧
       (c.frame.inRun = false → c.level = .kernel → (accessFault a n k c = none ↔ x < 0x21F00 ∨ regs = true)) ∧
       (c.frame.inRun = false → c.level = .user → x < 0x22000 →
         (accessFault a n k c = none ↔ x < 0x21F00 ∧ window = true)) ∧
       (c.frame.inRun = false → c.level = .user → regs = true → (x - 0x40000) / 0x1000 ≠ 8 →
         (accessFault a n k c = none ↔ block = true)) ∧
       (c.frame.inRun = false → c.level = .user → 0x22000 ≤ x → regs = false → accessFault a n k c ≠ none)))

/-- LD, LD.W, LD.H, LD.HU, LD.B, LD.BU from data memory or frame scratch in every mode: the bytes of memory, or those that the youngest
older store forwards, in d[Rd], the mode's step in a[An]; no other register, no flag and no byte of memory changes (03 R115, R116; 04
R137 to R139; 05 R185). -/
def Obligations.Loads : Prop :=
  ∀ (k rd : Fin 16) (an : Fin 8) (m : Mode) (sm : SMode) (s : State),
    ∀ f ∈ loadForms k rd an m sm,
      let c := s.cab k
      let len := f.2.1
      let mode := f.2.2.1
      let n := f.2.2.2.1
      let a := mode.ea n (getA an c)
      let loaded (v : Nat) := stepMode mode an n (setD rd (extended n f.2.2.2.2 v) c)
      Executes k f.1 s → accessFault a n .load c = none → isMem a.toNat = true →
      (youngest c a.toNat n = none → loadFails c a.toNat n = 0 →
        Retires k f.1 s (loaded (memRead c a.toNat n)) (after len c)) ∧
      (∀ e, youngest c a.toNat n = some e → rangeHolds e.addr e.size a.toNat n = true →
        Retires k f.1 s (loaded (e.forward a.toNat n)) (after len c))

/-- ST, ST.W, ST.H, ST.B in every mode: one entry more in the store buffer, with the address, the bytes and the level, the mode's step in
a[An]; no other register, no flag and no byte of memory changes before the entry drains (03 R115, R116; 04 R137 to R139; 05 R182).
STORE_DRAIN: the oldest store leaves the buffer; one to memory writes exactly its bytes, little-endian, and one to a register that its
level may change takes effect as a write of that register (03 R105; 05 R183, R189; 06 R654). -/
def Obligations.StoresAndDrain : Prop :=
  (∀ (k rd : Fin 16) (an : Fin 8) (m : Mode) (sm : SMode) (s : State),
     ∀ f ∈ storeForms k rd an m sm,
       let c := s.cab k
       let len := f.2.1
       let mode := f.2.2.1
       let n := f.2.2.2
       let a := mode.ea n (getA an c)
       Executes k f.1 s → accessFault a n .store c = none → c.pipe.sbuf.length < 8 →
         Retires k f.1 s (stepMode mode an n (buffered a.toNat n (getD rd c) c)) (after len c)) ∧
  (∀ (k : Fin 16) (s : State) (e : StoreEntry) (t : List StoreEntry),
     let c := s.cab k
     let c' := { c with pipe := { c.pipe with sbuf := t } }
     Live k s → c.pipe.sbuf = e :: t →
     (e.addr + e.size ≤ 0x22000 → 0 < e.size →
       ∃ q, exec (.storeDrain k) s = .next q ∧ OnlyCabinet k s q ∧ (q.cab k).pipe.sbuf = t ∧
         (c.pipe.hold ≠ .wfi → (q.cab k).core = c.core) ∧
         ∀ a, memByte (q.cab k) a =
           if e.addr ≤ a ∧ a < e.addr + e.size then BitVec.ofNat 8 (e.data.toNat / 256 ^ (a - e.addr)) else memByte c a) ∧
     (0x22000 ≤ e.addr → regViolates e.level e.addr e.data c' = false →
       Acts k (.storeDrain k) s (regApply false e.addr e.data c')) ∧
     (0x22000 ≤ e.addr → regViolates e.level e.addr e.data c' = true →
       Acts k (.storeDrain k) s { c' with pipe := { c'.pipe with
         violation := c.pipe.violation ++ [(e.level, BitVec.ofNat 32 e.addr)] } }))

/-- A load or a store that its checks refuse, outside a run, is a fault: no register, no flag, no byte of memory and no buffered store
changes, and the exception waits for its entry (03 R105 to R108, R116; 04 R126, R139). -/
def Obligations.AccessFaults : Prop :=
  ∀ (k rd : Fin 16) (an : Fin 8) (m : Mode) (sm : SMode) (s : State) (e : Exc),
    let c := s.cab k
    c.frame.inRun = false →
    (∀ f ∈ loadForms k rd an m sm, Executes k f.1 s →
      accessFault (f.2.2.1.ea f.2.2.2.1 (getA an c)) f.2.2.2.1 .load c = some e → Faults k f.1 s e) ∧
    (∀ f ∈ storeForms k rd an m sm, Executes k f.1 s →
      accessFault (f.2.2.1.ea f.2.2.2 (getA an c)) f.2.2.2 .store c = some e → Faults k f.1 s e)

/-- The branches, short and long, and JMP: only the program counter moves (04 R140 to R142). -/
def Obligations.Branches : Prop :=
  ∀ (k : Fin 16) (cond : Fin 15) (off6 : BitVec 6) (off16 : BitVec 16) (an : Fin 8) (s : State),
    let c := s.cab k
    (Runs k (.bcc k (cond.castLE (by decide)) off6) s c (branchNext cond 1 (off6.signExtend 32) c) ∧
      Runs k (.jmp k an) s c (getA an c)) ∧
    (Runs k (.bccL k cond off16) s c (branchNext cond 2 (off16.signExtend 32) c))

/-- CALL, CALLR and RET: the return address goes to the word below the level's stack pointer and comes back from it (03 R93; 04 R142). -/
def Obligations.CallsAndReturns : Prop :=
  ∀ (k : Fin 16) (off : BitVec 16) (an : Fin 8) (s : State),
    let c := s.cab k
    let l := c.level
    let sp := getSp l c
    let pushed (len : Nat) := setSp l (sp - 4) (buffered (sp - 4).toNat 4 (after len c &&& 0x3FFFF) c)
    (accessFault (sp - 4) 4 .store c = none → c.pipe.sbuf.length < 8 →
      (Runs k (.call k off) s (pushed 2) (curPc c + off.signExtend 32)) ∧
      (Runs k (.callr k an) s (pushed 1) (getA an c))) ∧
    (accessFault sp 4 .load c = none → isMem sp.toNat = true → (youngest c sp.toNat 4 = none → loadFails c sp.toNat 4 = 0 →
        Runs k (.ret k) s (setSp l (sp + 4) c) (BitVec.ofNat 32 (memRead c sp.toNat 4) &&& 0x3FFFF)) ∧
      (∀ e, youngest c sp.toNat 4 = some e → rangeHolds e.addr e.size sp.toNat 4 = true →
        Runs k (.ret k) s (setSp l (sp + 4) c) (BitVec.ofNat 32 (e.forward sp.toNat 4) &&& 0x3FFFF)))

/-- The thirteen float instructions of R143: the result and the sticky flags, FCMP the flags alone, and no other register, flag or byte of
memory (04 R143 to R145). -/
def Obligations.FloatInstructions : Prop :=
  ∀ (k rd rs rt : Fin 16) (s : State),
    let c := s.cab k
    let a := getD rd c
    let b := getD rs c
    (Runs k (.fadd k rd rs) s (resultOf rd (fadd a b) c) (after 1 c) ∧
      Runs k (.fsub k rd rs) s (resultOf rd (fsub a b) c) (after 1 c) ∧
      Runs k (.fmul k rd rs) s (resultOf rd (fmul a b) c) (after 1 c) ∧
      Runs k (.fneg k rd) s (resultOf rd (fneg a) c) (after 1 c) ∧
      Runs k (.fabs k rd) s (resultOf rd (fabs a) c) (after 1 c) ∧
      Runs k (.fcvtWs k rd) s (resultOf rd (fcvtInt 0 a) c) (after 1 c) ∧
      Runs k (.fcvtSw k rd) s (resultOf rd (fcvtFloat 0 a) c) (after 1 c) ∧
      Runs k (.fcvtQs k rd) s (resultOf rd (fcvtInt 31 a) c) (after 1 c) ∧
      Runs k (.fcvtSq k rd) s (resultOf rd (fcvtFloat 31 a) c) (after 1 c)) ∧
    (Runs k (.fcmp k rd rs) s (putFlags (fcmp a b).upd c) (after 2 c) ∧
      Runs k (.fmin k rd rs) s (resultOf rd (fminmax false a b) c) (after 2 c) ∧
      Runs k (.fmax k rd rs) s (resultOf rd (fminmax true a b) c) (after 2 c) ∧
      Runs k (.fmadd k rd rs rt) s (resultOf rd (fmadd a b (getD rt c)) c) (after 2 c))

/-- What float values the operations deliver: correctly rounded, one NaN word, no subnormal (03 R114; 04 R143 to R145). -/
def Obligations.FloatValues : Prop :=
  ∀ a b d : Word,
    floatResult (fadd a b) ∧ floatResult (fsub a b) ∧ floatResult (fmul a b) ∧ floatResult (fmadd d a b) ∧ floatResult (fdiv a b) ∧
    floatResult (fsqrt b) ∧ floatResult (fminmax false a b) ∧ floatResult (fminmax true a b) ∧ floatResult (fneg a) ∧
    floatResult (fabs a) ∧ floatResult (fcvtFloat 0 a) ∧ floatResult (fcvtFloat 31 a) ∧
    ((nanWord a ∨ nanWord b) →
      (fadd a b).val = 0x7FC00000 ∧ (fsub a b).val = 0x7FC00000 ∧ (fmul a b).val = 0x7FC00000 ∧ (fmadd d a b).val = 0x7FC00000 ∧
      (fdiv a b).val = 0x7FC00000 ∧ fminmax false a b = { val := 0x7FC00000, upd := { sticky := 0x10000 } } ∧
      fminmax true a b = { val := 0x7FC00000, upd := { sticky := 0x10000 } } ∧
      (fcmp a b).upd = { z := some false, n := some false, c := some false, v := some true, sticky := 0x10000 }) ∧
    (nanWord a → fneg a = { val := 0x7FC00000 } ∧ fabs a = { val := 0x7FC00000 } ∧
      fcvtInt 0 a = { val := 0, upd := { sticky := 0x10000 } } ∧ fcvtInt 31 a = { val := 0, upd := { sticky := 0x10000 } }) ∧
    (fld a 23 8 ≠ 0 → ¬ nanWord a → fneg a = { val := a ^^^ 0x80000000 } ∧ fabs a = { val := a &&& 0x7FFFFFFF }) ∧
    nearest (a.toInt * 2 ^ 149) 1 (fcvtFloat 0 a).val ∧ nearest (a.toInt * 2 ^ 118) 1 (fcvtFloat 31 a).val ∧
    (finiteWord a → finiteWord b →
      nearest (exactValue a + exactValue b) 1 (fadd a b).val ∧
      nearest (exactValue a - exactValue b) 1 (fsub a b).val ∧
      nearest (exactValue a * exactValue b) (2 ^ 149) (fmul a b).val ∧
      (finiteWord d → nearest (exactValue d * 2 ^ 149 + exactValue a * exactValue b) (2 ^ 149) (fmadd d a b).val) ∧
      (exactValue b ≠ 0 →
        nearest (exactValue a * 2 ^ 149 * (exactValue b).sign) (exactValue b).natAbs (fdiv a b).val) ∧
      (fcmp a b).upd = { z := some (decide (exactValue a = exactValue b)), n := some (decide (exactValue a < exactValue b)),
                         c := some (decide (exactValue b ≤ exactValue a)), v := some false } ∧
      exactValue (fminmax false a b).val = min (exactValue a) (exactValue b) ∧
      exactValue (fminmax true a b).val = max (exactValue a) (exactValue b) ∧
      ∀ scale : Nat, scale = 0 ∨ scale = 31 → ∃ q : Int, (fcvtInt scale a).val = BitVec.ofInt 32 (clampS 32 q) ∧
        (2 * (q * 2 ^ 149 - exactValue a * 2 ^ scale)).natAbs ≤ 2 ^ 149 ∧
        ((2 * (q * 2 ^ 149 - exactValue a * 2 ^ scale)).natAbs = 2 ^ 149 → q % 2 = 0)) ∧
    (fminmax false 0x80000000 0).val = 0x80000000 ∧ (fminmax false 0 0x80000000).val = 0x80000000 ∧
    (fminmax true 0x80000000 0).val = 0 ∧ (fminmax true 0 0x80000000).val = 0 ∧
    (finiteWord b → 0 < exactValue b → exactValue (fsqrt b).val ≠ 0 → ∀ w, finiteWord w → 0 ≤ exactValue w →
      (exactValue w < exactValue (fsqrt b).val → (exactValue w + exactValue (fsqrt b).val) ^ 2 ≤ 4 * (exactValue b * 2 ^ 149)) ∧
      (exactValue (fsqrt b).val < exactValue w → 4 * (exactValue b * 2 ^ 149) ≤ (exactValue w + exactValue (fsqrt b).val) ^ 2))

/-- DIV, DIVU, REM, REMU, SQRT, DIVQ, FDIV, FSQRT, SINCOS and ATAN2 (04 R146 to R149). -/
def Obligations.LongOperations : Prop :=
  ∀ (k rd rs : Fin 16) (s : State),
    let c := s.cab k
    let a := getD rd c
    let b := getD rs c
    let limit : Word := if a.toInt < 0 then 0x80000000 else 0x7FFFFFFF
    let quo : Word := if b = 0 then limit else BitVec.ofInt 32 (a.toInt.tdiv b.toInt)
    let quoU : Word := if b = 0 then 0xFFFFFFFF else BitVec.ofNat 32 (a.toNat / b.toNat)
    let rest : Word := if b = 0 then a else BitVec.ofInt 32 (a.toInt.tmod b.toInt)
    let restU : Word := if b = 0 then a else BitVec.ofNat 32 (a.toNat % b.toNat)
    let put (r : Word) (v : Bool) := result rd r { z := some (r == 0), n := some r.msb, v := some v } c
    (Runs k (.div k rd rs) s (put quo (b == 0 || (a == 0x80000000 && b == 0xFFFFFFFF))) (after 1 c) ∧
      Runs k (.divu k rd rs) s (put quoU (b == 0)) (after 1 c) ∧
      (rd.val % 2 = 0 → Runs k (.sincos k rd rs) s
        (putFlags (satFlags (sincos b).2.2) (setD (rd + 1) (sincos b).2.1 (setD rd (sincos b).1 c))) (after 1 c)) ∧
      (rs.val % 2 = 0 → Runs k (.atan2 k rd rs) s (setD rd (atan2W b (getD (rs + 1) c)) c) (after 1 c))) ∧
    (Runs k (.rem k rd rs) s (put rest (b == 0)) (after 2 c) ∧
      Runs k (.remu k rd rs) s (put restU (b == 0)) (after 2 c) ∧
      (b.toInt < 0 → Runs k (.sqrt k rd rs) s (result rd 0 (satFlags true) c) (after 2 c)) ∧
      (∀ r : Nat, 0 ≤ b.toInt → r * r ≤ b.toNat * 2 ^ 31 → b.toNat * 2 ^ 31 < (r + 1) * (r + 1) →
        Runs k (.sqrt k rd rs) s (setD rd (BitVec.ofNat 32 r) c) (after 2 c)) ∧
      Runs k (.divq k rd rs) s
        (if b = 0 then result rd limit (satFlags true) c else satInto rd ((a.toInt * 2 ^ 31).tdiv b.toInt) c) (after 2 c) ∧
      Runs k (.fdiv k rd rs) s (resultOf rd (fdiv a b) c) (after 2 c) ∧
      Runs k (.fsqrt k rd rs) s (resultOf rd (fsqrt b) c) (after 2 c)) ∧
    (sincos 0).2.1 = 0x7FFFFFFF ∧ (sincos 0).2.2 = true ∧ (sincos 0x40000000).1 = 0x7FFFFFFF ∧ (sincos 0x40000000).2.2 = true ∧
    atan2W 0 0 = 0

/-- The seven XFORM variants work in place on their group: the registers that each leaves and SAT; no other register, flag or byte of
memory changes (04 R152, R153). The values are those of TransformValues. -/
def Obligations.Transforms : Prop :=
  (∀ (k : Fin 16) (g : Fin 4) (s : State),
    let c := s.cab k
    let b (p : Fin 4) := getD (groupReg g p) c
    let pair (r : XformRes) := putFlags (satFlags r.sat) (setD (groupReg g 1) r.b1 (setD (groupReg g 0) r.b0 c))
    let four (r : XformRes) := putFlags (satFlags r.sat)
      (setD (groupReg g 3) r.b3 (setD (groupReg g 2) r.b2 (setD (groupReg g 1) r.b1 (setD (groupReg g 0) r.b0 c))))
    Runs k (.xformClarke3 k g) s (pair (xformClarke3 (b 0) (b 1) (b 2) (b 3))) (after 1 c) ∧
      Runs k (.xformClarke2 k g) s (pair (xformClarke2 (b 0) (b 1) (b 2) (b 3))) (after 1 c) ∧
      Runs k (.xformPark k g) s (pair (xformPark (b 0) (b 1) (b 2) (b 3))) (after 1 c) ∧
      Runs k (.xformIpark k g) s (pair (xformIpark (b 0) (b 1) (b 2) (b 3))) (after 1 c) ∧
      Runs k (.xformParksc k g) s (pair (xformParksc (b 0) (b 1) (b 2) (b 3))) (after 1 c) ∧
      Runs k (.xformIparksc k g) s (pair (xformIparksc (b 0) (b 1) (b 2) (b 3))) (after 1 c) ∧
      Runs k (.xformSvt k g) s (four (xformSvt (b 0) (b 1) (b 2) (b 3))) (after 1 c))

/-- The results of the transforms: the error of those whose exact results are fractions is at most 2^-26, and SVT gives sector, durations
and the zero vector (04 R152, R153). Where inside the bound a value lies is free (log 13). -/
def Obligations.TransformValues : Prop :=
  (∀ b0 b1 b2 b3 : Word,
    let near (w : Word) (num : Int) (den : Nat) : Prop :=
      ∃ y : Int, w = BitVec.ofInt 32 (clampS 32 y) ∧ (den * y - num).natAbs ≤ 32 * den
    near (xformClarke3 b0 b1 b2 b3).b0 (2 * b0.toInt - b1.toInt - b2.toInt) 3 ∧
    (xformClarke2 b0 b1 b2 b3).b0 = b0 ∧
    near (xformParksc b0 b1 b2 b3).b0 (b0.toInt * b3.toInt + b1.toInt * b2.toInt) (2 ^ 31) ∧
    near (xformParksc b0 b1 b2 b3).b1 (- (b0.toInt * b2.toInt) + b1.toInt * b3.toInt) (2 ^ 31) ∧
    near (xformIparksc b0 b1 b2 b3).b0 (b0.toInt * b3.toInt - b1.toInt * b2.toInt) (2 ^ 31) ∧
    near (xformIparksc b0 b1 b2 b3).b1 (b0.toInt * b2.toInt + b1.toInt * b3.toInt) (2 ^ 31) ∧
    xformSvt 0 0 b2 b3 = { b0 := 0, b1 := 0, b2 := 1, b3 := 0x7FFFFFFF, sat := false } ∧
    let r := xformSvt b0 b1 b2 b3
    let va := b0.toInt
    let vb := b1.toInt
    let sector : Nat :=
      if 0 < va ∧ 0 ≤ vb ∧ vb * vb < 3 * va * va then 1
      else if 0 < vb ∧ (if 0 ≤ va then 3 * va * va ≤ vb * vb else 3 * va * va < vb * vb) then 2
      else if va < 0 ∧ 0 < vb then 3
      else if va < 0 ∧ vb ≤ 0 ∧ vb * vb < 3 * va * va then 4
      else if vb < 0 ∧ (if va ≤ 0 then 3 * va * va ≤ vb * vb else 3 * va * va < vb * vb) then 5
      else 6
    (b0 ≠ 0 ∨ b1 ≠ 0 → r.b2 = BitVec.ofNat 32 sector) ∧
    0 ≤ r.b0.toInt ∧ 0 ≤ r.b1.toInt ∧ 0 ≤ r.b3.toInt ∧ (r.sat = true → r.b0 + r.b1 = 0x7FFFFFFF ∧ r.b3 = 0))

/-- The traps: overflow under OVE, division by zero under DZE, SYS; each retires its instruction first, and in a run each ends the run (04
R126, R129, R146, R148, R162; 02 R58).
Illegal forms and privileged instructions: vector 3, vector 4, BRK vector 12, as faults; outside a run no register, no flag and no
byte of memory changes, and a run ends (04 R125 to R128, R147, R162). -/
def Obligations.TrapsAndIllegalForms : Prop :=
  (∀ (k rd rs : Fin 16) (imm : BitVec 14) (s : State),
     let c := s.cab k
     let ove := c.core.psw.getLsbD 10
     let dze := c.core.psw.getLsbD 9
     (∀ f ∈ overflowForms k rd rs imm c, Executes k f.1 s →
       TrapsAnywhere k f.1 s (if f.2.2 && ove then some { vec := 6 } else none)) ∧
     (∀ f ∈ divisionForms k rd rs, Executes k f.1 s →
       TrapsAnywhere k f.1 s
         (if getD rs c = 0 ∧ dze = true then some { vec := 5 }
          else if f.2.2 = true ∧ getD rd c = 0x80000000 ∧ getD rs c = 0xFFFFFFFF ∧ ove = true then some { vec := 6 } else none)) ∧
     (Executes k (.sys k) s → TrapsAnywhere k (.sys k) s (some { vec := 11 }) ∧ Retires k (.sys k) s c (after 1 c))) ∧
  (∀ (k rd rs ad sa : Fin 16) (x : Fin 2) (g : Fin 4) (mask : Fin 16) (an : Fin 8) (n : Fin 32) (off : BitVec 6) (s : State),
     let c := s.cab k
     FaultsAnywhere k (.bcc k 15 off) s { vec := 3 } ∧
     (8 ≤ ad.val → FaultsAnywhere k (.mova k ad rs) s { vec := 3 }) ∧
     (8 ≤ sa.val → FaultsAnywhere k (.movd k rd sa) s { vec := 3 }) ∧
     (8 ≤ ad.val ∨ 8 ≤ sa.val → FaultsAnywhere k (.movaa k ad sa) s { vec := 3 }) ∧
     (rd.val ≠ 0 → FaultsAnywhere k (.clr k x rd) s { vec := 3 }) ∧
     (rd.val % 2 = 1 → FaultsAnywhere k (.sincos k rd rs) s { vec := 3 }) ∧
     (rs.val % 2 = 1 → FaultsAnywhere k (.atan2 k rd rs) s { vec := 3 }) ∧
     FaultsAnywhere k (.brk k) s { vec := 12 } ∧
     (c.frame.inRun = false → FaultsAnywhere k (.duty k g mask) s { vec := 3 }) ∧
     (c.frame.inRun = true →
       FaultsAnywhere k (.wfi k) s { vec := 3 } ∧ FaultsAnywhere k (.rete k) s { vec := 3 } ∧
       FaultsAnywhere k (.pwrite k an rd) s { vec := 3 } ∧ (n.val ≠ 0 → FaultsAnywhere k (.mtc k n rd) s { vec := 3 })) ∧
     (c.frame.inRun = false → c.level = .user →
       FaultsAnywhere k (.waitf k) s { vec := 4 } ∧ FaultsAnywhere k (.wfi k) s { vec := 4 } ∧
       FaultsAnywhere k (.rete k) s { vec := 4 } ∧ FaultsAnywhere k (.syncC k) s { vec := 4 } ∧
       FaultsAnywhere k (.pwrite k an rd) s { vec := 4 }) ∧
     (c.frame.inRun = false → (ctlLowest n.val).isSome = true → ctlReach c.level n.val = false →
       FaultsAnywhere k (.mtc k n rd) s { vec := 4 } ∧ FaultsAnywhere k (.mfc k rd n) s { vec := 4 }))

/-- DUTY in a run hands its values to the duty port unless the guard has acted or another DUTY came first; WAITF ends a run (02 R62 to
R65, R67, R69; 04 R151).
WFI and the supervisory WAITF: issue is held until an enabled source pends, or until the end of the next run (02 R65; 04 R164). -/
def Obligations.CommitAndWait : Prop :=
  (∀ (k : Fin 16) (g : Fin 4) (mask : Fin 16) (s : State),
     let c := s.cab k
     let f := c.frame
     let late := f.guarding = true ∧ f.committed = false ∧ f.deadline < runCount 1 (dutyBody g mask c).ops c
     f.inRun = true →
       Runs k (.duty k g mask) s c (after 1 c) ∧
       (Executes k (.duty k g mask) s → ∃ t, exec (.duty k g mask) s = .next t ∧
         (f.acted = false → f.committed = false → ¬ late →
           (t.cab k).frame.committed = true ∧ (t.cab k).frame.guarding = false ∧
           (t.cab k).frame.commit = .port mask.val ((List.finRange 4).map (fun p => getD (groupReg g p) c))) ∧
         (f.acted = true ∨ late → (t.cab k).frame.stat.getLsbD 3 = true ∧ (t.cab k).frame.committed = f.committed) ∧
         (late → (t.cab k).frame.acted = true ∧ (t.cab k).frame.stat.getLsbD 0 = true ∧ (t.cab k).pipe.overrun = true) ∧
         (f.acted = false → f.committed = true → (t.cab k).frame.stat.getLsbD 2 = true ∧ (t.cab k).frame.commit = f.commit)) ∧
       (Executes k (.waitf k) s → ∃ t, exec (.waitf k) s = .next t ∧ OnlyCabinet k s t ∧ (t.cab k).frame.inRun = false ∧
         (t.cab k).pipe.issueStop = false ∧
         (t.cab k).pipe.runExc = c.pipe.runExc ∧ (c.pipe.hold = .waitf → (t.cab k).pipe.hold = .none) ∧
         (c.pipe.hold ≠ .wfi → (t.cab k).core = { c.core with runPc := after 1 c }))) ∧
  (∀ (k : Fin 16) (s : State),
     let c := s.cab k
     c.frame.inRun = false → c.level ≠ .user →
       Runs k (.waitf k) s c (after 1 c) ∧
       (Executes k (.waitf k) s →
         ∃ t, exec (.waitf k) s = .next t ∧ (t.cab k).pipe.hold = if c.frame.running then .waitf else .none) ∧
       (anyPending c = true → Runs k (.wfi k) s c (after 1 c)) ∧
       (Executes k (.wfi k) s → anyPending c = false → ∃ t, exec (.wfi k) s = .next t ∧ OnlyCabinet k s t ∧ (t.cab k).mems = c.mems ∧
         (((t.cab k).pipe.hold = .wfi ∧ (t.cab k).core = c.core ∧ anyPending (t.cab k) = false) ∨
          ((t.cab k).pipe.hold = .none ∧ (t.cab k).core = coreAfter c (after 1 c) ∧ anyPending (t.cab k) = true))))

/-- MTC, MFC and SYNC.C complete: reserved registers, the merged value, immediate and deferred effect, in a run and outside (03 R96 to R98;
04 R163; 05 R197 to R199).
A deferred write comes one instruction nearer with each that retires, and takes effect when its count ends; SYNC.C lets it take effect
at once; of several writes of one register the last prevails, and a write that it overtakes is dropped (05 R197 to R199). -/
def Obligations.ControlRegisters : Prop :=
  (∀ (k rd : Fin 16) (n : Fin 32) (s : State),
     let c := s.cab k
     let w := getD rd c
     let reserved := (ctlLowest n.val).isNone = true
     let held (v : Word) : Deferred := ⟨n.val, v, if c.normalService then some 3 else none⟩
     (c.frame.inRun = false →
       (reserved → Runs k (.mtc k n rd) s c (after 2 c) ∧ Runs k (.mfc k rd n) s (setD rd 0 c) (after 2 c)) ∧
       (¬ reserved → ctlReach c.level n.val = true →
         Runs k (.mfc k rd n) s (setD rd (ctlGet n.val c) c) (after 2 c) ∧
         (n.val ≠ 0 → (ctlCard n.val).violates c.level (ctlGet n.val c) w = false →
           Runs k (.mtc k n rd) s
             (let v := (ctlCard n.val).merge (ctlGet n.val c) w
              if n.val = 1 ∨ (20 ≤ n.val ∧ n.val ≤ 24) then
                { c with pipe := { c.pipe with deferred := c.pipe.deferred ++ [held v] } }
              else ctlSetNow n.val v c) (after 2 c)) ∧
         (let w' := if n.val = 0 ∧ w.toNat / 2 ^ 12 % 4 = 2 then (w &&& 0xFFFFCFFF) ||| (ctlGet 0 c &&& 0x3000) else w
          ((ctlCard n.val).violates c.level (ctlGet n.val c) w' = true → Executes k (.mtc k n rd) s →
            Faults k (.mtc k n rd) s { vec := 4 }) ∧
          (n.val = 0 → (ctlCard 0).violates c.level (ctlGet 0 c) w' = false →
            Runs k (.mtc k n rd) s
              (let v := (ctlCard 0).merge (ctlGet 0 c) w'
               let x : Cabinet := { c with core := { c.core with psw := (c.core.psw &&& ~~~ arithMask) ||| (v &&& arithMask) } }
               if v &&& pswDeferred = ctlGet 0 c &&& pswDeferred ∧ (∀ y ∈ c.pipe.deferred, y.reg ≠ 0) then x
               else { x with pipe := { c.pipe with deferred := c.pipe.deferred ++ [held v] } }) (after 2 c))))) ∧
     (c.frame.inRun = true →
       Runs k (.mfc k rd 0) s (setD rd ((c.core.frmFlags &&& 0x001F001F) ||| (ctlGet 0 c &&& 0x700) ||| 0x7000) c) (after 2 c) ∧
       (n.val ≠ 0 → Runs k (.mfc k rd n) s (setD rd (if reserved then 0 else ctlGet n.val c) c) (after 2 c)) ∧
       Runs k (.mtc k 0 rd) s (setFlags w c) (after 2 c)) ∧
     (c.frame.inRun = false → c.level ≠ .user → Runs k (.syncC k) s (applyAllDeferred c) (after 1 c)) ∧
     (c.frame.inRun = true → Runs k (.syncC k) s c (after 1 c))) ∧
  (∀ (n m : Nat) (v : Word) (after? : Option Nat) (c : Cabinet), n ≠ 0 →
     let only (x : Option Nat) : Cabinet := { c with pipe := { c.pipe with deferred := [⟨n, v, x⟩] } }
     let none' : Cabinet := { c with pipe := { c.pipe with deferred := [] } }
     ageDeferred (only (some (m + 2))) = only (some (m + 1)) ∧
     ageDeferred (only (some 1)) = ctlSetNow n v none' ∧
     ageDeferred (only none) = only none ∧
     applyAllDeferred (only after?) = ctlSetNow n v none' ∧
     ctlGet n (only after?) = v) ∧
  (∀ (n : Nat) (v : Word) (after? : Option Nat) (l r : List Deferred) (c : Cabinet),
     let held (x : Option Nat) (r : List Deferred) : Cabinet := { c with pipe := { c.pipe with deferred := l ++ ⟨n, v, x⟩ :: r } }
     let due := ageDeferred (held (some 1) [])
     let all := applyAllDeferred (held after? [])
     let psw (d : Cabinet) : Prop := d.core.psw = (c.core.psw &&& 0xFFFFC8FF) ||| (v &&& 0x3700)
     all.pipe.deferred = [] ∧ (∀ y ∈ due.pipe.deferred, y.reg ≠ n) ∧ (n = 0 → psw due ∧ psw all) ∧
     (n = 1 ∨ (20 ≤ n ∧ n ≤ 24) →
       ctlNow n due = v ∧ ctlNow n all = v ∧ ((∀ y ∈ r, y.reg ≠ n) → ctlGet n (held after? r) = v)))

/-- SYNC.C, MTC and MFC answer a next state wherever the core executes them and their level reaches the register: SYNC.C in a run and at
every level but User; MFC of every register that the level reads, reserved ones included; MTC of the flags in a run, and outside a run
of every register that the level reaches with a value that changes no field above the level. The program counter then stands behind
the instruction, and the register read or written holds its value (03 R96 to R98; 04 R163; 05 R197 to R199). -/
def Obligations.ControlAccessCompletes : Prop :=
  ∀ (k rd : Fin 16) (n : Fin 32) (s : State),
    let c := s.cab k
    let run := c.frame.inRun
    let reserved := (ctlLowest n.val).isNone
    let old := ctlGet n.val c
    let w := getD rd c
    let w' := if n.val = 0 ∧ w.toNat / 2 ^ 12 % 4 = 2 then (w &&& 0xFFFFCFFF) ||| (old &&& 0x3000) else w
    let goesOn (t : State) (next : Word) : Prop :=
      OnlyCabinet k s t ∧ (t.cab k).mems = c.mems ∧ (t.cab k).pipe.sbuf = c.pipe.sbuf ∧
      (run = false → (t.cab k).core.pc = next) ∧ (c.pipe.hold ≠ .wfi → run = true → (t.cab k).core.runPc = next)
    (Executes k (.syncC k) s → run = true ∨ c.level ≠ .user →
      ∃ t, exec (.syncC k) s = .next t ∧ goesOn t (after 1 c) ∧
        (run = false → (t.cab k).pipe.deferred = [] ∧ (t.cab k).core.evb = ctlGet 1 c)) ∧
    (Executes k (.mfc k rd n) s → ctlReach c.level n.val = true →
      ∃ t, exec (.mfc k rd n) s = .next t ∧ goesOn t (after 2 c) ∧
        ((t.cab k).frame.inRun = run → getD rd (t.cab k) =
          if n.val = 0 ∧ run = true then (c.core.frmFlags &&& 0x001F001F) ||| (ctlGet 0 c &&& 0x700) ||| 0x7000
          else if reserved = true then 0 else old)) ∧
    (Executes k (.mtc k n rd) s →
      (run = true ∧ n.val = 0) ∨ (run = false ∧ reserved = true) ∨
      (run = false ∧ ctlReach c.level n.val = true ∧ (ctlCard n.val).violates c.level old w' = false) →
      ∃ t, exec (.mtc k n rd) s = .next t ∧ goesOn t (after 2 c) ∧
        (run = true → (t.cab k).frame.inRun = true → getFlags (t.cab k) = w &&& arithMask) ∧
        (run = false → n.val = 8 ∨ n.val = 11 ∨ (12 ≤ n.val ∧ n.val ≤ 19) → (∀ y ∈ c.pipe.deferred, y.reg ≠ n.val) →
          ctlNow n.val (t.cab k) = (ctlCard n.val).merge old w) ∧
        (run = false → n.val = 1 ∨ (20 ≤ n.val ∧ n.val ≤ 24) →
          ctlGet n.val (t.cab k) = (ctlCard n.val).merge old w ∧
          ((∀ y ∈ c.pipe.deferred, y.reg ≠ n.val) → ctlNow n.val (t.cab k) = ctlNow n.val c)))

/-- PWRITE writes one syllable of the program store with good parity, and SYNC.I empties what fetch keeps (04 R163; 05 R194, R196). -/
def Obligations.ProgramStore : Prop :=
  ∀ (k rd : Fin 16) (an : Fin 8) (s : State),
    let c := s.cab k
    let a := getA an c
    (c.frame.inRun = false → c.level ≠ .user →
      (a.toNat < 0x20000 → c.par.inj = false →
        Runs k (.pwrite k an rd) s
          (setA an (a + 1) { c with mems := { c.mems with
            prog := assocPut a.toNat (physSyl ((getD rd c).setWidth 14)) c.mems.prog } }) (after 2 c)) ∧
      (0x20000 ≤ a.toNat → Executes k (.pwrite k an rd) s → Faults k (.pwrite k an rd) s { vec := 8, acc := .store, addr := a })) ∧
    (Runs k (.syncI k) s c (after 1 c) ∧
      (Executes k (.syncI k) s → c.frame.inRun = false → ∃ t, exec (.syncI k) s = .next t ∧ (t.cab k).pipe.cache = [] ∧ (t.cab k).pipe.lineBuf = none ∧
        (t.cab k).pipe.fill = none ∧ (t.cab k).pipe.fetchBuf = [])) ∧
    (∀ y : BitVec 14, sylOf (physSyl y) = y ∧ laneFails (physSyl y) = 0)

/-- VMAC, INTERP and BMOVE: every element, PRG at the end; between two elements, where an event falls, the core stands there, and what ends
them there sets PRG (04 R154, R157 to R159; in ExceptionEntry and LoopEvents the entry and the discard).
One element of VMAC, BMOVE and INTERP on plain words of memory (04 R155; 03 R112, R118). -/
def Obligations.ResumableInstructions : Prop :=
  (∀ (k rn : Fin 16) (x : Fin 2) (p q r : Fin 8) (ended : Nat) (s : State),
     let c := s.cab k
     let d := (fetchInstr c).c
     let n := (getD rn c).toNat % 2 ^ 16
     let first := firstElement c
     let part (elem : Cabinet → Elem) (m : Nat) := walk elem (m - first) { c := d, done := first }
     let all (e : Option Nat) := [(Instr.vmac k x p q rn e, vmacElem x p q), (.interp k p q r rn e, interpElem p q r),
       (.bmove k p q rn e, bmoveElem p q)]
     first ≤ n →
       (∀ f ∈ all none, walked c n (part f.2 n) →
         Runs k f.1 s (completed c.frame.inRun (part f.2 n).c) (after 2 c)) ∧
       (∀ f ∈ all (some ended), c.frame.inRun = true → walked c n (part f.2 n) →
         Runs k f.1 s (part f.2 n).c (after 2 c)) ∧
       (∀ f ∈ all (some ended), Executes k f.1 s → c.frame.inRun = false → first ≤ ended → ended < n →
         walked c ended (part f.2 ended) →
         ∃ t, exec f.1 s = .next t ∧ OnlyCabinet k s t ∧ (t.cab k).pipe.walked = some ended ∧
           (t.cab k).core = (part f.2 ended).c.core ∧ (t.cab k).mems = (part f.2 ended).c.mems ∧ (t.cab k).pipe.sbuf = (part f.2 ended).c.pipe.sbuf)) ∧
  (∀ (x : Fin 2) (p q r : Fin 8) (c : Cabinet),
     let a := getA p c
     let b := getA q c
     let u := wordAt a c
     let t := getA r c + BitVec.ofNat 32 (4 * (u.toNat / 2 ^ 24))
     let t0 := wordAt t c
     let t1 := wordAt (t + 4) c
     let y := BitVec.ofInt 32 (t0.toInt + ((t1.toInt - t0.toInt) * (u.toNat / 2 ^ 8 % 2 ^ 16 : Nat) + 2 ^ 15) / 2 ^ 16)
     let steps (d : Cabinet) := stepMode .modInc q 4 (stepMode .modInc p 4 d)
     plainWord a c → c.pipe.sbuf.length < 8 →
       (plainWord b c →
         ∃ d f, vmacElem x p q c = { c := d, got := .val 0, fast := f } ∧
           sameButCounts d (steps (setAcc x (BitVec.ofInt 72 ((getAcc x c).toInt + 2 * (u.toInt * (wordAt b c).toInt))) c))) ∧
       (accessFault b 4 .store c = none →
         ∃ d f, bmoveElem p q c = { c := d, got := .val 0, fast := f, wrote := some b.toNat } ∧ sameButCounts d (steps (buffered b.toNat 4 u c))) ∧
       (accessFault b 4 .store c = none → plainWord t c → plainWord (t + 4) c →
         ∃ d f, interpElem p q r c = { c := d, got := .val 0, fast := f, wrote := some b.toNat } ∧ sameButCounts d (steps (buffered b.toNat 4 y c))))

/-- CX and CX.L: a slot that is not valid, a run outside its slots, a register beyond d15 are vector 9 with their record; otherwise the
micro-operations act on a private context that is taken over whole (04 R161; 07 R236, R245, R246, R249).
A micro-operation other than a load leaves the cabinet as it is; an integer micro-operation delivers what the native operation does
(07 R238, R241, R249). -/
def Obligations.CustomInstructions : Prop :=
  (∀ (k slot : Fin 16) (rd rs : Fin 8) (d e g imm4 : Fin 16) (s : State),
     ∀ f ∈ customForms k slot rd rs d e g imm4,
       let c := s.cab k
       let x := c.dec.slot[slot]
       let z := customRun slot f.2.2 (fetchInstr c).c
       let parity := (slotEntries x).any (uopBadParity c)
       let beyond := (microOps c slot).any (cxBeyond f.2.2)
       let bad (reason : Nat) : Prop :=
         FaultsAnywhere k f.1 s { vec := 9 } ∧
         ∃ t, exec f.1 s = .next t ∧ (t.cab k).dec.fault = BitVec.ofNat 32 (slot.val + 16 * reason)
       Executes k f.1 s →
         (x.valid = false → bad 1) ∧
         (x.valid = true → c.frame.inRun = true → x.fs = false → bad 2) ∧
         (x.valid = true → (c.frame.inRun = true → x.fs = true) → parity = false → beyond = true → bad 3) ∧
         (x.valid = true → (c.frame.inRun = true → x.fs = true) → parity = false → beyond = false → z.exc = none → z.held = false →
           (customLeaves z).pipe.hold = c.pipe.hold → (customLeaves z).frame.inRun = c.frame.inRun →
           Retires k f.1 s (customLeaves z) (after f.2.1 c))) ∧
  (∀ (o : CxOps) (u : Uop) (z : CxState),
     (u.op ≠ .ldw → (cxUop o u z).c = z.c) ∧
     (∀ op, u.op = .alu op →
       let r := aluOp op (cxIn o u z u.a) (cxIn o u z u.b) (z.flags.getLsbD 2)
       (op ≠ .cmp → u.d ≤ 9 → cxIn o u (cxUop o u z) u.d = r.val) ∧
       (cxUop o u z).flags = (if u.wf then r.upd else { sticky := r.upd.sticky }).apply z.flags ∧
       (cxUop o u z).x.acc = z.x.acc ∧ (cxUop o u z).st = z.st) ∧
     (∀ m, u.op = .mac m → (cxUop o u z).x.d = z.x.d ∧ (cxUop o u z).flags = z.flags ∧
       (cxUop o u z).x.acc[if u.d = 13 then (1 : Fin 2) else 0] =
         macOp m (z.x.acc[if u.d = 13 then (1 : Fin 2) else 0]) (cxIn o u z u.a) (cxIn o u z u.b)))

/-- Which cause is entered first, and at which level (06 R208, R228, R231).
EXCEPTION_ENTRY: EPC and EPSW are pushed, the cause and the resume address are saved, the level and IE change, and the handler's
address comes from the vector table (06 R212, R215 to R217). -/
def Obligations.ExceptionEntry : Prop :=
  (∀ (c : Cabinet) (e : Exc),
     let p := c.pipe
     let quiet := p.runExc = none ∧ p.heldTrap = none ∧ p.heldViol = []
     (p.runExc = some e → selectCause c = some { exc := e, level := .machine, run := true, pick := .runExc }) ∧
     (quiet → p.trap = some e → selectCause c = some { exc := e, level := takenAt e.vec (e.level.getD c.level), pick := .trap }) ∧
     (∀ l a t, quiet → p.trap = none → p.violation = (l, a) :: t →
       selectCause c = some { exc := { vec := 4, acc := .store, addr := a }, level := takenAt 4 l, pick := .viol }) ∧
     (quiet → p.trap = none → p.violation = [] → p.fault = some e → e.vec = 1 →
       selectCause c = some { exc := e, level := .machine, pick := .fault }) ∧
     (quiet → p.trap = none → p.violation = [] → p.overrun = true → p.mdepth = 0 → (∀ x, pendingFault c = some x → x.vec ≠ 1) →
       selectCause c = some { exc := { vec := 10 }, level := .machine, pick := .overrun }) ∧
     (quiet → p.trap = none → p.violation = [] → p.overrun = false → pendingFault c = some e →
       selectCause c = some { exc := e, level := takenAt e.vec (e.level.getD c.level), pick := .fault }) ∧
     (quiet → p.trap = none → p.violation = [] → p.overrun = false → pendingFault c = none → c.core.psw.getLsbD 8 = false →
       selectCause c = none) ∧
     (∀ v l, takenAt v l = if v = 1 ∨ v = 2 ∨ v = 9 ∨ v = 10 ∨ v = 13 then .machine
       else if v = 11 then (if l = .user then .kernel else .machine) else if l = .machine then .machine else .kernel)) ∧
  (∀ (k : Fin 16) (x : Cause) (s : State),
     let c := s.cab k
     let l := x.level
     let sp := getSp l c
     let low := sp.toNat - 8
     let va := c.core.evb.toNat / 2 ^ 8 % 2 ^ 9 * 256 + 4 * x.exc.vec
     let v := memRead c va 4
     let accCode : Nat := match x.exc.acc with | .fetch => 0 | .load => 1 | .store => 2 | .none => 3
     let core := { c.core with
       epc := c.core.pc &&& 0x3FFFF, epsw := c.core.psw &&& 0x001F371F,
       ecause := BitVec.ofNat 32 x.exc.vec ||| (if x.run then 0x40 else 0) ||| BitVec.ofNat 32 (accCode * 256),
       eaddr := if x.exc.vec = 4 ∨ x.exc.vec = 7 ∨ x.exc.vec = 8 then x.exc.addr else 0,
       prg := match c.pipe.walked with | some m => prgOf m | none => c.core.prg,
       psw := (c.core.psw &&& 0xFFFFCEFF) ||| BitVec.ofNat 32 (l.code * 4096), pc := BitVec.ofNat 32 v }
     s.chip.side.reset = none → mayEnter c = true → c.pipe.sbuf = [] → c.pipe.deferred = [] → c.pipe.fresh = none →
     selectCause c = some x → x.exc.vec ≠ 2 → stackOk l sp.toNat = true → c.par.inj = false → (va + 4 ≤ low ∨ sp.toNat ≤ va) →
     loadFails c va 4 = 0 → v < 2 ^ 18 →
       ∃ t, exec (.exceptionEntry k) s = .next t ∧ OnlyCabinet k s t ∧
         (t.cab k).core = (setSp l (sp - 8) { c with core := core }).core ∧
         (t.cab k).pipe.mdepth = (if l = .machine then c.pipe.mdepth + 1 else c.pipe.mdepth) ∧
         (∀ a, memByte (t.cab k) a =
           if low ≤ a ∧ a < low + 4 then BitVec.ofNat 8 (c.core.epsw.toNat / 256 ^ (a - low))
           else if low + 4 ≤ a ∧ a < low + 8 then BitVec.ofNat 8 (c.core.epc.toNat / 256 ^ (a - low - 4)) else memByte c a))

/-- RETE: the status and the program counter come back from EPSW and EPC, and those from the stack; a level above the handler's, or the
reserved one, is vector 13 (06 R224, R225). -/
def Obligations.ExceptionReturn : Prop :=
  ∀ (k : Fin 16) (s : State),
    let c := s.cab k
    let l := c.level
    let sp := getSp l c
    let back := c.core.epsw.toNat / 2 ^ 12 % 4
    Executes k (.rete k) s → c.frame.inRun = false → l ≠ .user → c.pipe.deferred = [] →
      ((back = 2 ∨ l.code < back) → Faults k (.rete k) s { vec := 13 }) ∧
      (¬ (back = 2 ∨ l.code < back) → popReach c l sp.toNat = true → c.pipe.sbuf = [] → loadFails c sp.toNat 4 = 0 →
        loadFails c (sp.toNat + 4) 4 = 0 →
        Retires k (.rete k) s
          (setSp l (sp + 8) { c with
            core := { c.core with
              psw := c.core.epsw, epsw := BitVec.ofNat 32 (memRead c sp.toNat 4) &&& 0x001F371F,
              epc := BitVec.ofNat 32 (memRead c (sp.toNat + 4) 4) &&& 0x3FFFF } }) c.core.epc ∧
        ∃ t, exec (.rete k) s = .next t ∧
          (t.cab k).pipe.mdepth = if l = .machine then c.pipe.mdepth - 1 else c.pipe.mdepth)

/-- The events of instruction fetch: a line fill delivers, a redirect abandons a young fill, keeps an old one and starts another, a line whose
parity fails is counted and filled again, the bucket leaks (05 R178, R179, R653; 13 R428, R430, R434).
Where the core does not execute an instruction now, where the syllables are another instruction, or where a reset of class P stands, an
instruction does nothing (04 R164; 19 R599; log 7). An exception of the fetch, and syllables that are no instruction, take the place of
the instruction; bits 13:10 of the first syllable say how many syllables there are (03 R120, R123; 06 R228; log 8). -/
def Obligations.FetchAndIssue : Prop :=
  (∀ (k : Fin 16) (second l8 l6 leak : Bool) (s : State),
     let c := s.cab k
     let pc := c.core.pc.toNat
     let a := pc + second.toNat
     let cancels := leak = true ∧ c.par.leak ≠ 0 ∧ c.par.leak ≤ c.par.leakCount
     let up := ¬ cancels ∧ c.par.bucket < 0xFFFF
     Live k s →
       (∀ f, c.pipe.fill = some f →
         ∃ t, exec (.lineFillComplete k) s = .next t ∧ OnlyCabinet k s t ∧ (t.cab k).pipe.fill = none ∧
           (f.line.good = true → cacheFind (t.cab k) f.line.line = some f.line ∧ (t.cab k).pipe.lineBuf = some f.line) ∧
           (f.line.good = false →
             (t.cab k).pipe.cache = c.pipe.cache ∧ ∀ l, (t.cab k).pipe.lineBuf = some l → l.line ≠ f.line.line) ∧
           (supReady c = true → pc / 16 = f.line.line → laneFails (f.line.words[pc % 16]?.getD 0) ≠ 0 →
             (t.cab k).pipe.fault = some { vec := 1, acc := .fetch })) ∧
       (c.frame.inRun = false → pc < 0x20000 → c.pipe.fill = none ∨ (∃ f, c.pipe.fill = some f ∧ f.age < 8) →
         ∃ t, exec (.fetchRedirect k) s = .next t ∧ OnlyCabinet k s t ∧ (t.cab k).pipe.fetchBuf = [] ∧
           (t.cab k).pipe.cache = c.pipe.cache ∧
           (t.cab k).pipe.fill = if cacheHas c (pc / 16) || bufferHas c (pc / 16) then none else some ⟨storeLine c (pc / 16), 0⟩) ∧
       (∀ f, c.frame.inRun = false → c.pipe.fill = some f → 8 ≤ f.age → f.line.good = true →
         ∃ t, exec (.fetchRedirect k) s = .next t ∧ cacheFind (t.cab k) f.line.line = some f.line ∧ (t.cab k).pipe.fetchBuf = []) ∧
       (supReady c = true → a < 0x20000 → cacheHas c (a / 16) = true → (l8 = true ∨ l6 = true) →
         (second = true → coreLen (sylOf (fetchWord pc c).2) = 2) → (storeLine c (a / 16)).good = true →
         ∃ t, exec (.cacheParityRefetch k second l8 l6 leak) s = .next t ∧ OnlyCabinet k s t ∧
           (t.cab k).par.ccnt = Nat.min (c.par.ccnt + 1) 0xFFFFFFFF ∧
           (up → (t.cab k).par.bucket = c.par.bucket + 1) ∧ (¬ up → (t.cab k).par.bucket = c.par.bucket) ∧
           (t.cab k).par.clog = BitVec.ofNat 32 (a + 2 ^ 18 * l8.toNat + 2 ^ 19 * l6.toNat + 2 ^ 31) ∧
           cacheFind (t.cab k) (a / 16) = some (storeLine c (a / 16)) ∧ (t.cab k).core = c.core ∧
           (up → c.par.bucket = c.par.thresh → ((t.cab k).errs[7]).irq.getLsbD 0 = true)) ∧
       (c.par.leak ≠ 0 → c.par.leak ≤ c.par.leakCount →
         Acts k (.parBucketLeak k) s { c with par := { c.par with bucket := c.par.bucket - 1, leakCount := 0 } })) ∧
  (∀ (k rd rs : Fin 16) (an : Fin 8) (m : Mode) (s : State),
     let all := [Instr.add k rd rs, .macQ k 0 rd rs, .ldW k rd an m, .stW k rd an m, .jmp k an, .fadd k rd rs, .div k rd rs, .duty k 0 15,
       .cx k rd 0 0, .vmac k 0 an an rd none, .sys k, .mtc k 1 rd, .mfc k rd 1, .syncC k]
     let f := fetchInstr (s.cab k)
     let instead (i : Instr) (e : Exc) : Prop := if (s.cab k).frame.inRun then RunEnds k i s e else Faults k i s e
     (ready (s.cab k) = false → ∀ i ∈ all, Acts k i s (s.cab k)) ∧
     (s.chip.side.reset ≠ none → ∀ i ∈ all, exec i s = .next s) ∧
     (s.chip.side.reset = none → ready (s.cab k) = true →
       (∀ i ∈ all, ∀ e, f.exc = some e → instead i e) ∧
       (∀ i ∈ all, f.exc = none → decodeCore k f.w1 f.w2 = none → instead i { vec := 3 }) ∧
       (∀ i ∈ all, ∀ j, f.exc = none → decodeCore k f.w1 f.w2 = some j → j ≠ coded i → Acts k i s (s.cab k)))) ∧
  (∀ (k : Fin 16) (w1 w2 w3 : Syl), (coreLen w1 = 2 ↔ w1.toNat / 2 ^ 10 = 14) ∧ (coreLen w1 = 1 ∨ coreLen w1 = 2) ∧
     (coreLen w1 = 1 → decodeCore k w1 w2 = decodeCore k w1 w3))

/-- A write of a register by software: outside its reach it is no write, a change of a field beyond its level is a pending privilege
violation and changes nothing else, and otherwise the register takes the word as its card says (00 R8, R10; 06 R654). -/
def Obligations.SoftwareWrites : Prop :=
  ∀ (k : Fin 16) (l : Level) (a : Nat) (w : Word) (n : Fin 4) (m : Fin 16) (q : Fin 8) (tag : Word) (s : State), Live k s →
    ∀ f ∈ [((.registerWrite k l a w : Instr), (a : Nat), (w : Word)), (.cnvSeqswWrite k l (w.setWidth 8), 0x41084, (w.setWidth 8).setWidth 32),
      (.cnvCalStart k l, 0x4102C, 4), (.cnvTrkWrite k l w, 0x41008, w), (.pwmDtfixWrite k l n w, 0x42044 + 16 * n.val, w),
      (.pwmDtlimWrite k l n w, 0x42048 + 16 * n.val, w), (.fbkExtposWrite k l w, 0x43040, w), (.fbkPosWrite k l w, 0x43010, w),
      (.fbkCfgWrite k l w, 0x43000, w), (.fbkTcfgWrite k l w, 0x43004, w), (.drwOutqWrite k l n w, 0x44010 + 64 * n.val, w),
      (.drwTdataWrite k l n w, 0x44024 + 64 * n.val, w), (.tmrCmplWrite k l m w, 0x45040 + 16 * m.val, w),
      (.tmrCmphWrite k l m w, 0x45044 + 16 * m.val, w), (.tmrCmpDisarm k l m, 0x4504C + 16 * m.val, 0x100),
      (.tmrCapFlush k l q (w.setWidth 7), 0x45200 + 16 * q.val, (w.setWidth 7).setWidth 32 ||| 0x80),
      (.icuSwsetWrite k l (w.setWidth 8), 0x46220, (w.setWidth 8).setWidth 32),
      (.parBucketWrite k l (w.setWidth 16), 0x47000, (w.setWidth 16).setWidth 32), (.prfSmpstatClr k l, 0x480C4, 0x2000),
      (.ordDoneWrite k l tag, 0x49008, tag)],
      let c := s.cab k
      (softReach l f.2.1 c = false → Acts k f.1 s c) ∧
      (softReach l f.2.1 c = true → regViolates l f.2.1 f.2.2 c = true →
        Acts k f.1 s { c with pipe := { c.pipe with violation := c.pipe.violation ++ [(l, BitVec.ofNat 32 f.2.1)] } }) ∧
      (MayWrite k l f.2.1 f.2.2 s → Acts k f.1 s (regApply false f.2.1 f.2.2 c))

/-- The frame boundary, U1 and the heartbeat of a cabinet whose frame does not run (01 R30, R32; 02 R48, R49, R77, R79). -/
def Obligations.FrameBoundary : Prop :=
  ∀ (k : Fin 16) (s : State),
    let c := s.cab k
    Live k s →
      (c.frame.running = true → c.mode ≠ .parked → c.pend = [] →
        Reaches k (.frameBoundary k) s (fun d =>
          d.frame.count = c.frame.count + 1 ∧ d.frame.pos = 0 ∧ (d.icu.src[48]).pend = true ∧ d.protWait = [] ∧
          d.ord.delivered = [] ∧ (d.frame.running = true → d.frame.due = some false))) ∧
      (∀ x, c.frame.running = true → c.mode = .armed → c.pend = [⟨.run, x⟩] →
        Reaches k (.frameBoundary k) s (fun d => d.pend = [] ∧ (d.mode = .running ∨ d.latch = true))) ∧
      (∀ x, c.frame.running = true → c.mode = .armed ∨ c.mode = .running → c.pend = [⟨.park, x⟩] →
        Reaches k (.frameBoundary k) s (fun d => d.mode = .parked ∧ d.park = .entering ∧ d.frame.running = false)) ∧
      (∀ x, c.frame.running = false → c.mode = .loaded → c.pend = [⟨.arm, x⟩] →
        Reaches k (.frameBoundary k) s (fun d =>
          (d.mode = .armed ∧ d.frame.running = true ∨ d.latch = true) ∧ d.frame.count = 0 ∧ d.par.inj = false)) ∧
      (c.frame.running = true → c.frame.dual = true →
        Reaches k (.updatePointU1 k) s (fun d =>
          d.frame.running = true → d.frame.due = some true ∧ d.frame.pos = c.frame.flen / 2 ∧
            (∀ t, c.cnv.ahead = some t → d.cnv.instant = t ∧ d.cnv.decided = true) ∧
            (c.cnv.ahead = none → windowLo c ≤ 16 → d.cnv.decided = true ∧
              d.cnv.instant = within (windowLo c) (windowHi c)
                (if c.cnv.trk.getLsbD 26 then c.cnv.trk.toNat / 2 ^ 16 % 2 ^ 10 else c.cnv.e1)) ∧
            (c.cnv.ahead = none → 16 < windowLo c → d.cnv.decided = false))) ∧
      (c.frame.running = false → c.mode ≠ .parked →
        Acts k (.heartbeatPeriod k) s { c with
          frame := { c.frame with hbCount := 0 }, par := { c.par with leakCount := c.par.leakCount + 1 },
          notes := c.notes ++ [.heartbeat] })

/-- The loop path: the sample instant, the discard, the set and the dispatch, the guard, the commit and the latch (02 R51, R52, R55, R59,
R60, R66, R67, R70; 09 R308 to R311, R323; 10 R361). -/
def Obligations.LoopEvents : Prop :=
  ∀ (k : Fin 16) (vd : Vector Int 8) (s : State),
    let c := s.cab k
    let f := c.frame
    let codes := c.cnv.held
    let input (p : Fin 4) : Fin 8 := Fin.ofNat 8 (c.cnv.sel.toNat / 2 ^ (4 * p.val) % 8)
    let span := if c.pwm.triangle then f.flen / 2 else f.flen
    let dutyOf (mask : Nat) (vals : List Word) (p : Fin 4) : Word :=
      if mask / 2 ^ p.val % 2 = 1 then vals.getD p.val 0 else (c.pwm.pair[p]).duty
    let compareOf (p : Fin 4) (d : Word) : Nat :=
      if (c.pwm.pair[p]).cfg.getLsbD 2 then min (20 * span) (d.toNat % 2 ^ 24)
      else if d.toInt ≤ 0 then 0 else min (20 * span) ((d.toNat * (20 * span) + 2 ^ 30) / 2 ^ 31)
    Live k s →
      (∀ half, f.due = some half → f.running = true →
        Reaches k (.sampleInstant k vd) s (fun d =>
          d.frame.inRun = false ∧ (d.frame.running = true → d.frame.sampling = true) ∧ d.frame.due = none ∧ d.fbk.snappos = c.fbk.pos ∧
          d.fbk.snapper = c.fbk.period ∧ d.fbk.snapage = c.fbk.age ∧ d.fbk.snapseq = (c.fbk.snapseq + 1) % 65536 ∧
          d.fbk.snaphalf = half ∧ d.pipe.issueStop = true ∧
          (∀ p : Fin 4, d.cnv.held[p] = convert c c.cnv.pos[p] vd[input p]) ∧
          (f.inRun = true → d.frame.stat.getLsbD 1 = true ∧ d.pipe.overrun = true))) ∧
      (c.pipe.issueStop = true → c.pipe.mdepth = 0 → f.inRun = false →
        Reaches k (.supervisoryDiscard k) s (fun d =>
          d.pipe.sbuf = [] ∧ d.pipe.fault = none ∧ d.pipe.hold ≠ .wfi ∧ d.pipe.walked = none ∧
          (∀ m, c.pipe.walked = some m → d.core.prg = prgOf m))) ∧
      (f.sampling = true → f.running = true → c.pipe.sbuf = [] → c.pipe.walked = none →
        (c.pipe.mdepth = 0 → c.pipe.stopped = false →
          Reaches k (.sampleSetComplete k) s (fun d =>
            d.core = { c.core with
              s := codes.map (fun x => (x.setWidth 32 : Word) <<< 18), frm := {}, frmFlags := 0, runPc := 0x20000 } ∧
            d.frame.inRun = true ∧ d.frame.guarding = true ∧ d.frame.committed = false ∧ d.frame.acted = false ∧
            d.frame.stat.getLsbD 8 = f.lastHalf)) ∧
        (0 < c.pipe.mdepth ∨ c.pipe.stopped = true →
          Reaches k (.sampleSetComplete k) s (fun d =>
            d.frame.stat.getLsbD 4 = true ∧ d.frame.inRun = f.inRun ∧ d.pipe.issueStop = false ∧
            d.core.s = codes.map (fun x => (x.setWidth 32 : Word) <<< 18)))) ∧
      (f.guarding = true → f.committed = false →
        Reaches k (.frameGuard k) s (fun d =>
          d.frame.acted = true ∧ d.frame.guarding = false ∧ d.frame.stat.getLsbD 0 = true ∧ d.pipe.overrun = true ∧
          d.frame.stat.toNat / 2 ^ 16 = min (f.stat.toNat / 2 ^ 16 + 1) 0xFFFF ∧
          (f.ovtrip = true → d.latch = true) ∧ (f.fallback = true → d.pwm.rel = false ∧ d.pwm.fbsafe = true))) ∧
      (f.guarding = false ∨ f.committed = true → Acts k (.frameGuard k) s c) ∧
      (∀ mask vals, f.commit = .port mask vals →
        Reaches k (.dutyPortCommit k) s (fun d =>
          ∀ p : Fin 4, (d.pwm.pair[p]).duty = dutyOf mask vals p ∧ (d.pwm.pair[p]).shd = compareOf p (dutyOf mask vals p))) ∧
      (f.commit = .shadow →
        Reaches k (.shadowLatch k) s (fun d =>
          (∀ p : Fin 4, (d.pwm.pair[p]).cmp = (c.pwm.pair[p]).shd) ∧ d.frame.commit = .none ∧
          (c.mode = .running → c.pwm.enN = false → d.latch = false → d.pwm.rel = true)))

/-- Codes of voltages, the tracker, calibration and matching of the spare (08 R257, R270 to R276, R284, R287, R288, R290, R291).
The sequencer: triggers, conversions, results and their reads (08 R262, R264 to R269). -/
def Obligations.TrackerAndSequencer : Prop :=
  (∀ (c : Cabinet) (conv : Fin 5) (vd : Int),
     let t := c.cnv.trim[conv]
     let ideal : Int := (vd * 16384 + 8000000) / 16000000
     ∃ e : Int, (convert c conv.val vd).toInt = max (-8192) (min 8191 (ideal + e + t.adj)) ∧
       (t.cal ≠ none → -8192 ≤ ideal → ideal ≤ 8192 → e.natAbs ≤ 9)) ∧
  (∀ (k : Fin 16) (half : Bool) (samples : List Int) (l : Level) (s : State),
     let c := s.cab k
     let n := c.cnv
     let d := decideInstants c
     let e := if half then n.e1 else n.e0
     let slope : Nat := (n.trk.toNat / 2 ^ 4 % 2 ^ 4 + 1) * 32000
     let ringing (i : Nat) : Prop :=
       windowLo c + i ≤ windowHi c ∧ ∃ x y, samples[i]? = some x ∧ samples[i + 4]? = some y ∧ slope < (y - x).natAbs
     let tracked (target : Nat) : Prop :=
       let e' := follow e (min target (windowHi c))
       let moved : Cabinet := { d with cnv := { d.cnv with e0 := if half then n.e0 else e', e1 := if half then e' else n.e1 } }
       Acts k (.trackerUpdate k half samples) s
         (if windowHi c < target then ({ moved with cnv := { moved.cnv with trk := n.trk ||| 0x8000 } }).orIrq .cnv 8 else moved)
     let q := n.matchSum
     let m : Int := if 0 ≤ q then (q + 8) / 16 else - ((- q + 8) / 16)
     let block : Cnv := { n with matchN := 0, matchSum := 0, mdiff := max (-127) (min 127 m) }
     let trimOf (x : Cnv) : Trim := x.trim.toList.getD n.spare {}
     let rests : SpareState := if c.frame.running then .matching else .waiting
     Live k s →
       (c.frame.running = true → n.trk.getLsbD 26 = false → (half = true → c.frame.dual = true) →
         ((∀ i, ¬ ringing i) → tracked (windowLo c)) ∧
         (∀ i, ringing i → (∀ j, i < j → ¬ ringing j) → tracked (windowLo c + i + n.trk.toNat / 2 ^ 8 % 2 ^ 6))) ∧
       (n.matchN = 16 → n.spst = .matching ∨ n.spst = .ready → n.spare < 5 →
         (m.natAbs ≤ n.rotcfg.toNat / 2 ^ 16 % 2 ^ 6 →
           Reaches k (.spareMatchBlock k) s (fun d =>
             (d.frame.running = true → d.cnv.spst = .ready) ∧ d.cnv.matchN = 0 ∧ d.cnv.mdiff = block.mdiff ∧
             (trimOf d.cnv).adj = (trimOf n).adj - m ∧ (trimOf d.cnv).cal = (trimOf n).cal)) ∧
         (n.rotcfg.toNat / 2 ^ 16 % 2 ^ 6 < m.natAbs →
           Acts k (.spareMatchBlock k) s (raiseErr .cnv 0x20 { c with cnv := { block with
             spst := if n.spareBusy then .waiting else .calibrating } }))) ∧
       (n.initCal = true → c.mode ≠ .test → c.armWait = false →
         Acts k (.calibrationComplete k 0 0) s { c with free := c.free + 1, cnv := { n with
           initCal := false, calDone := true, spst := rests, matchN := 0, matchSum := 0,
           trim := Vector.ofFn (fun _ => { cal := some c.free }) } }) ∧
       (n.initCal = true → c.mode ≠ .test → c.armWait = true →
         Reaches k (.calibrationComplete k 0 0) s (fun d =>
           d.cnv.calDone = true ∧ d.armWait = false ∧ (d.latch = c.latch → d.pend = c.pend ++ [⟨.arm, none⟩]))) ∧
       (∀ refFail calFail : BitVec 5, n.initCal = true → c.mode ≠ .test →
         Reaches k (.calibrationComplete k refFail calFail) s (fun d =>
           d.cnv.calDone = true ∧ d.cnv.initCal = false ∧
           (refFail ||| calFail ≠ 0 → d.cnv.calFail = true) ∧
           (refFail ≠ 0 → (d.errs[1]).berr.getLsbD 6 = true) ∧
           (calFail &&& ~~~ refFail ≠ 0 → (d.errs[1]).berr.getLsbD 4 = true) ∧
           ∀ i : Fin 5, d.cnv.trim[i] = if (refFail ||| calFail).getLsbD i.val then n.trim[i] else { cal := some c.free })) ∧
       (∀ refFail calFail : BitVec 5, n.initCal = false → c.mode ≠ .test → n.spst = .calibrating → n.spare < 5 →
         ((refFail ||| calFail).getLsbD n.spare = true →
           Acts k (.calibrationComplete k refFail calFail) s
             (raiseErr .cnv (if refFail.getLsbD n.spare then 0x40 else 0x10)
               { c with cnv := { n with spst := rests, matchN := 0, matchSum := 0 } })) ∧
         ((refFail ||| calFail).getLsbD n.spare = false →
           Reaches k (.calibrationComplete k refFail calFail) s (fun d =>
             d.cnv.spst = rests ∧ d.cnv.matchN = 0 ∧ trimOf d.cnv = { cal := some c.free } ∧
             ∀ i : Fin 5, i.val ≠ n.spare → d.cnv.trim[i] = n.trim[i]))) ∧
       (MayWrite k l 0x4102C 4 s →
         (c.mode = .loaded → Acts k (.cnvCalStart k l) s { c with cnv := { n with
           initCal := true, calDone := false, calFail := false, spst := .calibrating, matchN := 0, matchSum := 0 } }) ∧
         (c.mode = .armed ∨ c.mode = .running ∨ c.mode = .tripped →
           Acts k (.cnvCalStart k l) s { c with cnv := { n with
             spst := if n.spareBusy then .waiting else .calibrating, matchN := 0, matchSum := 0 } }) ∧
         (c.mode = .empty ∨ c.mode = .parked ∨ c.mode = .test → Acts k (.cnvCalStart k l) s c)) ∧
       (∀ w, MayWrite k l 0x41008 w s →
         let v := ((n.trk &&& 0xF800C008) ||| (w &&& 0x07FF3FF7)) &&& ~~~ (w &&& 0xC000)
         let fix := w.toNat / 2 ^ 16 % 2 ^ 10
         let fixIn := within (windowLo c) (windowHi c) fix
         let same := n.trk.getLsbD 26 = true ∧ n.trk.toNat / 2 ^ 16 % 2 ^ 10 = fix
         let becomes (x : Cnv) : Prop := Acts k (.cnvTrkWrite k l w) s { d with cnv := x }
         (w.getLsbD 26 = true → ¬ same →
           becomes { d.cnv with trk := if fix ≠ n.e0 ∨ (c.frame.dual = true ∧ fix ≠ n.e1) then v ||| 0x4000 else v }) ∧
         (w.getLsbD 26 = true → same → becomes { d.cnv with trk := v }) ∧
         (w.getLsbD 26 = false → n.trk.getLsbD 26 = true →
           becomes { d.cnv with trk := v, e0 := fixIn, e1 := if c.frame.dual then fixIn else n.e1 }) ∧
         (w.getLsbD 26 = false → n.trk.getLsbD 26 = false → becomes { d.cnv with trk := v }))) ∧
  (∀ (k : Fin 16) (n : Fin 8) (vd : Int) (l : Level) (s : State),
     let c := s.cab k
     let v := c.cnv
     let trig (m : Fin 8) := (v.seq[m]).toNat / 2 ^ 8 % 2 ^ 3
     let pos (m : Fin 8) := (v.seq[m]).toNat / 2 ^ 4 % 2 ^ 2
     let conv := v.pos.toList.getD (pos n) 0
     let inService := (c.mode = .loaded ∨ c.mode = .armed ∨ c.mode = .running ∨ c.mode = .tripped) ∧ v.initCal = false
     let serves (m : Fin 8) : Prop := inService ∧ (c.frame.running = true ∨ (trig m ≠ 1 ∧ trig m ≠ 2))
     let free := ∀ i : Fin 8, v.seqPhase[i] ≠ .converting conv
     let lowest := ∀ m : Fin 8, m < n → v.seqPhase[m] = .waiting → pos m = pos n → ¬ serves m
     let reserved := match c.frame.due with
       | some half => (if half then c.frame.flen / 2 else 0) + windowLo c - 16
       | none => nextReserved c
     let fits := c.frame.running = false ∨ (c.frame.sampling = false ∧ c.frame.pos + 48 ≤ reserved)
     let starts := v.seqPhase[n] = .waiting ∧ serves n ∧ fits ∧ free ∧ lowest
     let waits : Cabinet := { c with cnv := { v with seqPhase := v.seqPhase.set n .waiting } }
     Live k s →
       (c.frame.running = true → trig n = 1 ∨ (trig n = 2 ∧ c.frame.dual = true) →
         (v.seqPhase[n] = .idle → inService → Acts k (.seqTriggerOffset k n) s waits) ∧
         (¬ (v.seqPhase[n] = .idle ∧ inService) →
           Acts k (.seqTriggerOffset k n) s { c with cnv := { v with seqMiss := v.seqMiss ||| 2 ^ n.val } })) ∧
       (starts → Acts k (.seqConversionStart k n) s { c with cnv := { v with seqPhase := v.seqPhase.set n (.converting conv) } }) ∧
       (¬ starts → Acts k (.seqConversionStart k n) s c) ∧
       (∀ x, v.seqPhase[n] = .converting x →
         Reaches k (.seqResult k n vd) s (fun d =>
           d.cnv.res = v.res.set n ((convert c x vd).setWidth 32 <<< 18 ||| 1 ||| (if (v.res[n]).getLsbD 0 then 2 else 0)) ∧
           d.cnv.seqPhase = v.seqPhase.set n .idle ∧ (d.errs[1]).irq.getLsbD 0 = true ∧
           (v.spareBusy = true → x = v.spare → d.cnv.spst = .calibrating ∧ d.cnv.spareBusy = false))) ∧
       Acts k (.cnvResRead k n) s { c with rdata := v.res[n], cnv := { v with res := v.res.set n (v.res[n] &&& 0xFFFFFFFC) } } ∧
       (MayWrite k l 0x41084 (BitVec.ofNat 32 (2 ^ n.val)) s → trig n = 4 →
         (v.seqPhase[n] = .idle → inService → Acts k (.cnvSeqswWrite k l (BitVec.ofNat 8 (2 ^ n.val))) s waits) ∧
         (¬ (v.seqPhase[n] = .idle ∧ inService) → Acts k (.cnvSeqswWrite k l (BitVec.ofNat 8 (2 ^ n.val))) s
           { c with cnv := { v with seqMiss := v.seqMiss ||| 2 ^ n.val } })))

/-- The window comparators: levels, assertion, pulse end, trip, deassertion, the end of blanking (08 R285, R293 to R300). -/
def Obligations.Comparators : Prop :=
  ∀ (k : Fin 16) (n : Fin 8) (low : Bool) (vd : Int) (s : State),
    let c := s.cab k
    let side := n.val + (if low then 8 else 0)
    let other := n.val + (if low then 0 else 8)
    let mask : Word := BitVec.ofNat 32 (2 ^ side)
    let p := pulsePair c n
    let cfg := (c.cmpr.cfg[n]).toNat
    let thr := (c.cmpr.thr[n]).toNat
    let code : Nat := if low then (if (c.cmpr.cfg[n]).getLsbD 23 then cfg % 2 ^ 10 else thr % 2 ^ 10)
      else (if (c.cmpr.cfg[n]).getLsbD 24 then cfg / 2 ^ 10 % 2 ^ 10 else thr / 2 ^ 16 % 2 ^ 10)
    let level : Int := ((code : Int) - 512) * 15625
    let h : Int := match cfg / 2 ^ 25 % 4 with | 0 => 0 | 1 => 32000 | 2 => 64000 | _ => 128000
    let beyond := if low then vd < level else level < vd
    let back := if low then level + h < vd else vd < level - h
    let still := c.cmpr.move[Fin.ofNat 16 side] = none
    let powered := c.mode = .test ∨ (c.park ≠ .stopped ∧ c.park ≠ .waking)
    let seen : Cabinet := { c with cnv := { c.cnv with vd := c.cnv.vd.set (Fin.ofNat 8 (cfg / 2 ^ 20 % 8)) vd } }
    Live k s →
      (powered → c.cmpr.stat.getLsbD side = false → still → beyond →
        Reaches k (.comparatorAssert k n low vd) s (fun d =>
          d.cmpr.stat = c.cmpr.stat ||| mask ∧
          (c.testParked = false → d.cmpr.flag = c.cmpr.flag ||| mask ∧ (d.errs[1]).irq.getLsbD 1 = true) ∧
          (c.testParked = true → d.cmpr.flag = c.cmpr.flag) ∧
          (c.mode ≠ .test → pulseEnabled c n low → (d.pwm.pair[p]).cut = !low ∧ (d.pwm.pair[p]).boost = low) ∧
          (c.mode ≠ .test → tripEnabled c n low → d.latch = true ∧ d.cmpr.trip.getLsbD side = true) ∧
          (c.mode = .test → d.cmpr.trip = c.cmpr.trip ∧ ∀ x : Fin 4,
            (d.pwm.pair[x]).cut = (c.pwm.pair[x]).cut ∧ (d.pwm.pair[x]).boost = (c.pwm.pair[x]).boost))) ∧
      (¬ powered ∨ c.cmpr.stat.getLsbD side = true ∨ (still ∧ ¬ beyond) → Acts k (.comparatorAssert k n low vd) s seen) ∧
      (powered → c.cmpr.stat.getLsbD side = true → still → back →
        Acts k (.comparatorDeassert k n low vd) s { seen with cmpr := { c.cmpr with stat := c.cmpr.stat &&& ~~~ mask } }) ∧
      (¬ powered ∨ c.cmpr.stat.getLsbD side = false ∨ (still ∧ ¬ back) → Acts k (.comparatorDeassert k n low vd) s seen) ∧
      (c.cmpr.blankTrip.getLsbD n.val = true → c.mode ≠ .test → c.cmpr.stat.getLsbD side = true → c.cmpr.stat.getLsbD other = false →
        (c.cmpr.cfg[n]).getLsbD (if low then 23 else 24) = true →
        Reaches k (.blankingEnd k n true) s (fun d =>
          d.latch = true ∧ d.cmpr.trip.getLsbD side = true ∧ d.cmpr.blankTrip.getLsbD n.val = false)) ∧
      (c.cmpr.blankPulse.getLsbD n.val = true → c.mode ≠ .test → c.cmpr.stat.getLsbD side = true →
        c.cmpr.stat.getLsbD other = false → (c.cmpr.pe[n]).getLsbD (if low then 1 else 0) = true →
        Reaches k (.blankingEnd k n false) s (fun d => (d.pwm.pair[p]).cut = !low ∧ (d.pwm.pair[p]).boost = low)) ∧
      (c.cmpr.blankPulse.getLsbD n.val = true → c.mode ≠ .test → c.cmpr.stat.getLsbD side = true →
        c.cmpr.stat.getLsbD other = true → (c.cmpr.pe[n]).toNat % 4 = 3 →
        Reaches k (.blankingEnd k n false) s (fun d => (d.pwm.pair[p]).cut = true ∧ (d.pwm.pair[p]).boost = false))

/-- The pins, the carrier's crossings and the dead times of the outputs (09 R311, R313, R314, R317, R318, R322, R325, R326). -/
def Obligations.OutputEvents : Prop :=
  ∀ (k : Fin 16) (p : Fin 4) (sideB below : Bool) (m : Option Nat) (w : Word) (l : Level) (s : State),
    let c := s.cab k
    let q := c.pwm.pair[p]
    let one := if sideB then q.b else q.a
    let partner := if sideB then q.a else q.b
    let became (d : Cabinet) : Output := if sideB then (d.pwm.pair[p]).b else (d.pwm.pair[p]).a
    let safeCode := c.pwm.safe.toNat / 2 ^ (4 * p.val + if sideB then 2 else 0) % 4
    let lo := q.dtlim.toNat % 2 ^ 14
    let hi := q.dtlim.toNat / 2 ^ 16 % 2 ^ 14
    let margin := q.dtadp.toNat / 2 ^ 8 % 2 ^ 8
    let target := match m with
      | some x => if x + margin ≤ hi then max lo (x + margin) else max lo hi
      | none => max lo hi
    let limited := match m with
      | some x => decide (hi < x + margin)
      | none => true
    let q1 := if sideB then { q with eb := follow q.eb target } else { q with ea := follow q.ea target }
    Live k s →
      (c.pwm.tripN = true → c.latch = false →
        Reaches k (.ckTripNLow k none) s (fun d =>
          d.latch = true ∧ d.pwm.tripN = false ∧ d.pwm.first = 1 ∧ d.pwm.tripsrc.getLsbD 1 = true ∧ d.forced = true ∧
          (c.mode = .running → d.mode = .tripped))) ∧
      (∀ ps, ps < 2000 → Acts k (.ckTripNLow k (some ps)) s { c with free := c.free + 1, pwm := { c.pwm with tripN := true } }) ∧
      (c.pwm.enN = false →
        Reaches k (.ckEnNHigh k none) s (fun d =>
          d.pwm.enN = true ∧ d.pwm.rel = false ∧ d.forced = true ∧ (c.pwm.safe.getLsbD 24 = true → d.latch = true))) ∧
      (c.frame.running = true → q.cfg.toNat % 4 = 0 → q.dtfix.getLsbD 31 = false →
        Acts k (.dtAdaptMeasure k p sideB m) s
          (if limited then (setPair c p { q1 with dtadp := q.dtadp ||| 0x40000000 }).orIrq .pwm 4 else setPair c p q1)) ∧
      (MayWrite k l (0x42044 + 16 * p.val) w s →
        let a := w.toNat % 2 ^ 14
        let b := w.toNat / 2 ^ 16 % 2 ^ 14
        let v := (q.dtfix &&& 0x4000C000) ||| (w &&& 0xBFFF3FFF)
        (w.getLsbD 31 = true → q.dtfix.getLsbD 31 = false →
          Acts k (.pwmDtfixWrite k l p w) s (setPair c p { q with
            dtfix := v, dtadp := if a ≠ q.ea ∨ b ≠ q.eb then q.dtadp ||| 0x80000000 else q.dtadp })) ∧
        (w.getLsbD 31 = false → q.dtfix.getLsbD 31 = true →
          Acts k (.pwmDtfixWrite k l p w) s (setPair c p { q with dtfix := v, ea := within lo hi a, eb := within lo hi b }))) ∧
      (MayWrite k l (0x42048 + 16 * p.val) w s →
        let a := w.toNat % 2 ^ 14
        let b := w.toNat / 2 ^ 16 % 2 ^ 14
        (b < a → Acts k (.pwmDtlimWrite k l p w) s c) ∧
        (a ≤ b → Acts k (.pwmDtlimWrite k l p w) s (setPair c p { q with
          dtlim := (q.dtlim &&& 0xC000C000) ||| (w &&& 0x3FFF3FFF), ea := within a b q.ea, eb := within a b q.eb }))) ∧
      (c.frame.running = true → 0 < q.cmp → q.cmp < 20 * (if c.pwm.triangle then c.frame.flen / 2 else c.frame.flen) →
        Reaches k (.carrierCrossing k p below) s (fun d =>
          (d.pwm.pair[p]).below = below ∧
          (q.below ≠ below → (d.pwm.pair[p]).cut = (q.cut && !below) ∧ (d.pwm.pair[p]).boost = (q.boost && below)))) ∧
      (c.forced = false → one.asks = true → one.ripe = false → partner.active = false →
        Reaches k (.deadTimeElapsed k p sideB false) s (fun d =>
          d.latch = c.latch → (became d).active = true ∧ (became d).ripe = true)) ∧
      (c.forced = true → one.asks = true → one.ripe = false → partner.active = false →
        Reaches k (.deadTimeElapsed k p sideB false) s (fun d =>
          (became d).active = one.active ∧ (d.latch = c.latch → (became d).ripe = true))) ∧
      (c.forced = true → one.safe = true → safeCode = 1 → partner.active = false →
        Reaches k (.deadTimeElapsed k p sideB true) s (fun d => (became d).active = true)) ∧
      (one.asks = false → Acts k (.deadTimeElapsed k p sideB false) s c) ∧
      (c.forced = false → Acts k (.deadTimeElapsed k p sideB true) s c)

/-- The feedback unit: the glitch filter, Hall transitions, tooth edges and their gap, cross mode, writes of its registers, latching reads,
and the drawers' position buffer (10 R339 to R360, R362, R363). The times that it stamps lie within two ticks of the time base
(R340). -/
def Obligations.PositionFeedback : Prop :=
  ∀ (k : Fin 16) (x : Fin 8) (pin : Bool) (m a b : Nat) (l : Level) (w : Word) (n : Fin 4) (lost : Bool) (s : State),
    let c := s.cab k
    let f := c.fbk
    let mode := f.cfg.toNat % 4
    let filt := f.cfg.toNat / 2 ^ 8 % 2 ^ 9
    let accepted (run : Nat) : Prop := filt ≤ run + m + 1 ∧ (m = 0 ∨ run + m < filt)
    let hallOn := ∀ i : Fin 3, x.val / 2 ^ i.val % 2 ≠ f.hall / 2 ^ i.val % 2 → accepted f.hallRun[i]
    let xs := List.replicate (m + 1) x
    let edge := pin = !f.cfg.getLsbD 3
    let tooth := mode = 1 ∧ f.hall < 8 ∧ f.hall % 2 ≠ pin.toNat ∧ edge ∧ accepted f.hallRun[0]
    let crossTooth := mode = 2 ∧ f.tooth ≠ pin ∧ edge ∧ accepted f.toothRun
    let ps := List.replicate (m + 1) pin
    let rev := decide (a = (b + 1) % 6)
    let turned := f.hallDir == some true
    let ref := f.tcfg.toNat / 2 ^ 11 % 2 ^ 3
    let teeth := f.tcfg.toNat % 2 ^ 11
    let period := min (stampOf 1 0 { c with free := c.free + 1 } - f.edgets).toNat 0xFFFFFFFF
    let adjacent := f.judged = some f.hall ∧ hallSector f.hall = some a ∧ hallSector x.val = some b ∧
      (b = (a + 1) % 6 ∨ a = (b + 1) % 6)
    Live k s →
      (∀ ys : List (Fin 8), f.hall < 8 → (∀ i : Fin 3, f.hallRun[i] + ys.length < filt) →
        Reaches k (.hallTransition k ys) s (fun d => d.fbk.hall = f.hall ∧ d.fbk.pos = f.pos ∧ d.fbk.judged = f.judged)) ∧
      (mode = 0 → hallOn → adjacent →
        Reaches k (.hallTransition k xs) s (fun d =>
          d.fbk.pos = counted c rev f.pos ∧ d.fbk.hall = x.val ∧ d.fbk.judged = some x.val ∧ d.fbk.prevDir = some rev ∧
          d.fbk.age = 0 ∧ (d.errs[3]).irq.getLsbD 3 = true ∧ (d.fbk.edgets - c.tmr.count).toInt.natAbs ≤ 2 ∧
          (f.prevDir ≠ some (!rev) → f.timingLost = false → d.fbk.dir = rev ∧
            d.fbk.period = BitVec.ofNat 32 (min (d.fbk.edgets - f.edgets).toNat 0xFFFFFFFF)) ∧
          (f.prevDir = some (!rev) → d.fbk.period = f.period ∧ d.fbk.dir = f.dir ∧ d.fbk.stat.getLsbD 1 = true))) ∧
      (mode = 2 → hallOn → adjacent →
        Reaches k (.hallTransition k xs) s (fun d =>
          d.fbk.pos = f.pos ∧ d.fbk.hpos = counted c rev f.hpos ∧ d.fbk.hallDir = some rev ∧ d.fbk.toothSinceHall = 0 ∧
          (f.hallDir = some (!rev) → d.fbk.stat.getLsbD 1 = true ∧ d.fbk.tsync = .nosync ∧ d.fbk.toothN = 0))) ∧
      (mode = 0 ∨ mode = 2 → hallOn → f.hall < 8 → x.val ≠ f.hall → hallSector x.val = none →
        Reaches k (.hallTransition k xs) s (fun d =>
          d.fbk.pos = f.pos ∧ d.fbk.hall = x.val ∧ d.fbk.judged = none ∧ d.fbk.stat.getLsbD 0 = true ∧
          (d.errs[3]).berr.getLsbD 0 = true)) ∧
      (tooth → f.skipTest = false → f.toothN < 2 →
        Reaches k (.toothEdge k ps) s (fun d =>
          d.fbk.pos = counted c false f.pos ∧ d.fbk.tidx = (f.tidx + 1) % teeth ∧ d.fbk.toothN = f.toothN + 1 ∧ d.fbk.age = 0 ∧
          (d.errs[3]).irq.getLsbD 3 = true ∧
          (1 ≤ f.toothN → f.timingLost = false → d.fbk.period = BitVec.ofNat 32 period))) ∧
      (tooth → f.skipTest = false → 2 ≤ f.toothN → 1 ≤ ref → ref ≤ 3 →
        f.tcfg.toNat / 2 ^ 16 % 2 ^ 8 * f.period.toNat < period * 16 →
        Reaches k (.toothEdge k ps) s (fun d =>
          d.fbk.pos = countedBy c (ref + 1) f.pos ∧ d.fbk.tidx = 0 ∧
          (f.timingLost = false → d.fbk.period = BitVec.ofNat 32 (period / (ref + 1))) ∧
          (f.tsync = .nosync → d.fbk.tsync = .pend) ∧
          (f.tsync ≠ .nosync → d.fbk.tsync = if f.sinceRef + 1 = teeth - ref then .sync else .pend) ∧
          (f.tsync = .sync → f.sinceRef + 1 ≠ teeth - ref → (d.errs[3]).berr.getLsbD 1 = true))) ∧
      (crossTooth → f.skipTest = false → f.toothN < 2 →
        Reaches k (.toothEdge k ps) s (fun d =>
          d.fbk.pos = counted c turned f.pos ∧ d.fbk.toothN = f.toothN + 1 ∧ d.fbk.prevDir = some turned ∧
          d.fbk.hallSinceTooth = 0 ∧ (f.prevDir = some (!turned) → d.fbk.stat.getLsbD 1 = true ∧ d.fbk.period = f.period))) ∧
      (MayWrite k l 0x43040 w s →
        Reaches k (.fbkExtposWrite k l w) s (fun d =>
          d.fbk.extpos = w ∧ d.fbk.extts = c.tmr.count ∧ d.fbk.extseq = (f.extseq + 1) % 256 ∧ (d.errs[3]).irq.getLsbD 4 = true ∧
          (f.cfg.toNat % 4 = 3 → d.fbk.pos = w ∧ d.fbk.age = 0) ∧ (f.cfg.toNat % 4 ≠ 3 → d.fbk.pos = f.pos))) ∧
      (MayWrite k l 0x43010 w s → Acts k (.fbkPosWrite k l w) s { c with fbk := { f with pos := w } }) ∧
      (MayWrite k l 0x43000 w s →
        let filt := min (w.toNat / 2 ^ 8 % 2 ^ 9) 256
        (c.mode = .armed ∨ c.mode = .running →
          Acts k (.fbkCfgWrite k l w) s { c with fbk := { f with cfg := setFld f.cfg 8 9 filt } }) ∧
        (c.mode ≠ .armed → c.mode ≠ .running →
          Reaches k (.fbkCfgWrite k l w) s (fun d =>
            d.fbk.cfg.toNat % 16 = w.toNat % 16 ∧ d.fbk.cfg.toNat / 2 ^ 8 % 2 ^ 9 = filt ∧ d.fbk.pos = f.pos ∧
            (w.toNat % 4 ≠ f.cfg.toNat % 4 → d.fbk.period = 0xFFFFFFFF ∧ d.fbk.tsync = .nosync ∧ d.fbk.toothN = 0)))) ∧
      (MayWrite k l 0x43004 w s →
        Reaches k (.fbkTcfgWrite k l w) s (fun d =>
          d.fbk.tcfg.toNat % 2 ^ 11 = within 3 1024 (w.toNat % 2 ^ 11) ∧
          d.fbk.tcfg.toNat / 2 ^ 16 % 2 ^ 8 = max 17 (w.toNat / 2 ^ 16 % 2 ^ 8) ∧
          d.fbk.tcfg.toNat / 2 ^ 24 % 2 ^ 4 = max 1 (w.toNat / 2 ^ 24 % 2 ^ 4) ∧
          d.fbk.tsync = if d.fbk.tcfg.toNat % 2 ^ 14 = f.tcfg.toNat % 2 ^ 14 then f.tsync else .nosync)) ∧
      Acts k (.fbkEdgetslRead k) s
        { c with rdata := f.edgets.setWidth 32, fbk := { f with edgeHi := (f.edgets >>> 32).setWidth 32 } } ∧
      (∀ v, (c.drw.dr[n]).posBuf = some v →
        Reaches k (.positionBufferWrite k n lost) s (fun d =>
          (d.drw.dr[n]).posBuf = none ∧ (d.drw.dr[n]).posFreed = true ∧ d.fbk.extpos = v ∧ d.fbk.extts = c.tmr.count ∧ d.fbk.extseq = (f.extseq + 1) % 256 ∧
          (d.errs[3]).irq.getLsbD 4 = true ∧ (f.cfg.toNat % 4 = 3 → d.fbk.pos = v ∧ d.fbk.age = 0) ∧
          (lost = true → d.fbk.stat.getLsbD 3 = true)))

/-- A drawer's step: it selects an entry by three inputs, or spends a step of a WAIT, or stops on bad parity; the end of a WAIT, of a
stall, and the stall's limit (11 R369 to R372, R374, R377, R378, R384). -/
def Obligations.DrawerSteps : Prop :=
  ∀ (k : Fin 16) (n : Fin 4) (levels : BitVec 12) (sel w : Word) (r next : Nat) (v : Word) (q : List Word) (s : State),
    let c := s.cab k
    let d := c.drw.dr[n]
    let c1 : Cabinet := { c with drw := { c.drw with gpExt := levels.toNat } }
    let code (j : Nat) := sel.toNat / 2 ^ (4 * j) % 2 ^ 4
    let entry := 8 * d.state + 4 * (drwInput d (code 2) c1).toNat + 2 * (drwInput d (code 1) c1).toNat + (drwInput d (code 0) c1).toNat
    let uses (x : Nat) : Prop := code 0 = x ∨ code 1 = x ∨ code 2 = x
    let due := d.stall = none ∧ d.wait = none ∧ d.clk = 0
    (∀ z : Drawer, z.run = true → z.wait = some (r + 2, next) →
      (z.clk = 1 → (drwClock z).1.wait = some (r + 1, next) ∧ (drwClock z).1.clk = stepClocks z ∧ (drwClock z).1.pinsSafe = false) ∧
      (z.clk = r + 2 → (drwClock z).1.wait = z.wait ∧ (drwClock z).1.clk = r + 1)) ∧
    (Live k s → d.run = true →
      (∀ a b : Bool, (a = true ↔ uses 6) → (b = true ↔ uses 7) → due →
        assocGet (0x200 + d.state) d.table = some (sel, false) → assocGet entry d.table = some (w, false) →
        Acts k (.drawerStep k n levels) s (drwEntry n w (setDrw c1 n { d with
          irqLatch := d.irqLatch && (!a || d.irqNew), frmLatch := d.frmLatch && (!b || d.frmNew) }))) ∧
      (¬ due → Acts k (.drawerStep k n levels) s c) ∧
      (due → assocGet (0x200 + d.state) d.table = some (sel, true) →
        Reaches k (.drawerStep k n levels) s (fun x =>
          (x.drw.dr[n]).run = false ∧ (x.errs[4]).berr.getLsbD (4 + n.val) = true ∧ (x.errs[4]).irq.getLsbD (4 + n.val) = true)) ∧
      (d.wait = some (1, next) → d.clk = 0 →
        Reaches k (.waitEnd k n) s (LeavesDrawer c n { d with wait := none, state := next })) ∧
      (d.wait = none ∨ d.wait = some (r + 2, next) ∨ d.clk ≠ 0 → Acts k (.waitEnd k n) s c) ∧
      (d.stall = some w → w.toNat / 2 ^ 21 % 2 ^ 3 = 3 → d.outq = v :: q → fetchFits d →
        Reaches k (.stallComplete k n) s (LeavesDrawer c n
          (fetched v q (stepped d (w.toNat / 2 ^ 16 % 2 ^ 4) (w.toNat / 2 ^ 12 % 2 ^ 4) (w.toNat % 2 ^ 6))))) ∧
      (d.stall = some w → w.toNat / 2 ^ 21 % 2 ^ 3 = 2 → depositFits (w.toNat / 2 ^ 24) d →
        Reaches k (.stallComplete k n) s (LeavesDrawer c n
          (deposited (w.toNat / 2 ^ 24) (stepped d (w.toNat / 2 ^ 16 % 2 ^ 4) (w.toNat / 2 ^ 12 % 2 ^ 4) (w.toNat % 2 ^ 6))))) ∧
      (d.stall = some w → w.toNat / 2 ^ 21 % 2 ^ 3 = 3 → ¬ fetchFits d → Acts k (.stallComplete k n) s c) ∧
      (d.stall = some w → w.toNat / 2 ^ 21 % 2 ^ 3 = 2 → ¬ depositFits (w.toNat / 2 ^ 24) d → Acts k (.stallComplete k n) s c) ∧
      (d.stall = some w → d.stallFlagged = false → d.sto.toNat % 2 ^ 16 ≠ 0 → d.sto.toNat % 2 ^ 16 ≤ d.stallClk →
        Reaches k (.stallLimit k n) s (fun x =>
          (x.errs[4]).berr.getLsbD n.val = true ∧ (d.cfg.getLsbD 29 = false → (x.drw.dr[n]).stallFlagged = true))) ∧
      (d.stall = none ∨ d.stallFlagged = true ∨ d.sto.toNat % 2 ^ 16 = 0 ∨ d.stallClk < d.sto.toNat % 2 ^ 16 →
        Acts k (.stallLimit k n) s c))

/-- The eight actions of a drawer's entry (11 R373 to R377, R379, R380, R392).
Starting, stopping and flushing a drawer, its queues, and its table port (11 R379 to R383). -/
def Obligations.DrawerActionsAndRegisters : Prop :=
  (∀ (k : Fin 16) (n : Fin 4) (arg : BitVec 8) (oe out : Fin 16) (next : Fin 64) (v : Word) (q : List Word) (s : State),
     let c := s.cab k
     let d := c.drw.dr[n]
     let z := stepped d oe.val out.val next.val
     let gwid := d.cfg.toNat / 2 ^ 8 % 2 ^ 5 + 1
     let swid := d.cfg.toNat / 2 ^ 16 % 2 ^ 5 + 1
     let gathers := arg.getLsbD 1 = true ∧ d.gcnt ≠ gwid
     let sends := arg.getLsbD 0 = true ∧ d.scnt ≠ 0
     let level := drwPin d (arg.toNat / 2 ^ 4 % 4) c
     let sent := d.send.getLsbD (if d.cfg.getLsbD 21 then d.scnt - 1 else swid - d.scnt)
     let pin := arg.toNat / 4 % 4
     let word (act : Nat) : Word := BitVec.ofNat 32 (next.val + 2 ^ 12 * out.val + 2 ^ 16 * oe.val + 2 ^ 21 * act + 2 ^ 24 * arg.toNat)
     Live k s → d.run = true → d.stall = none → d.wait = none → d.clk = 0 →
       Reaches k (.bit k n arg oe out next) s (fun x =>
         let y := x.drw.dr[n]
         y.state = next.val ∧ y.oe = oe.val ∧
         (gathers → y.gcnt = d.gcnt + 1 ∧
           y.gath = if d.cfg.getLsbD 13 then (d.gath <<< 1) ||| BitVec.ofNat 32 level.toNat
             else d.gath ||| (BitVec.ofNat 32 level.toNat <<< d.gcnt)) ∧
         (¬ gathers → y.gcnt = d.gcnt ∧ y.gath = d.gath) ∧
         (sends → y.scnt = d.scnt - 1 ∧ ∀ i, y.out.testBit i = if i = pin then sent else out.val.testBit i) ∧
         (¬ sends → y.scnt = d.scnt ∧ y.out = out.val) ∧
         (arg.getLsbD 1 = true ∧ d.gcnt = gwid ∨ arg.getLsbD 0 = true ∧ d.scnt = 0 →
           (x.errs[4]).berr.getLsbD (12 + n.val) = true)) ∧
       (depositFits arg.toNat d →
         Reaches k (.deposit k n arg oe out next) s (fun x =>
           LeavesDrawer c n (deposited arg.toNat z) x ∧
           (arg.getLsbD 0 = true → d.inq = [] → (x.errs[4]).irq.getLsbD (12 + n.val) = true))) ∧
       (¬ depositFits arg.toNat d →
         Acts k (.deposit k n arg oe out next) s (setDrw c n { d with stall := some (word 2), stallClk := 0 })) ∧
       (d.outq = v :: q → fetchFits d →
         Reaches k (.fetch k n oe out next) s (fun x =>
           LeavesDrawer c n (fetched v q z) x ∧ (q = [] → (x.errs[4]).irq.getLsbD (8 + n.val) = true))) ∧
       (arg = 0 → ¬ fetchFits d →
         Acts k (.fetch k n oe out next) s (setDrw c n { d with stall := some (word 3), stallClk := 0 })) ∧
       Reaches k (.flag k n arg oe out next) s (fun x =>
         (∀ i, (x.drw.dr[n]).flag.testBit i = if i = arg.toNat % 2 then arg.getLsbD 1 else d.flag.testBit i) ∧
         LeavesDrawer c n { z with flag := (x.drw.dr[n]).flag } x) ∧
       Reaches k (.raise k n arg oe out next) s (fun x =>
         (arg.getLsbD 0 = true → (x.errs[4]).irq.getLsbD n.val = true) ∧
         (arg.getLsbD 1 = true →
           ∀ m : Fin 4, LeavesDrawer c m (heardLine (16 + n.val) (if m = n then z else c.drw.dr[m])) x) ∧
         (arg.getLsbD 1 = false → LeavesDrawer c n z x)) ∧
       Reaches k (.wait k n arg oe out next) s
         (LeavesDrawer c n { z with state := d.state, wait := some (arg.toNat + 1, next.val) }) ∧
       Reaches k (.stop k n oe out next) s (fun x =>
         LeavesDrawer c n { z with run := false } x ∧ (x.errs[4]).irq.getLsbD (4 + n.val) = true)) ∧
  (∀ (k : Fin 16) (n : Fin 4) (l : Level) (state : Fin 64) (w v : Word) (q : List Word) (s : State),
     let c := s.cab k
     let d := c.drw.dr[n]
     let base := 0x44000 + 64 * n.val
     let ctl : Word := BitVec.ofNat 32 (2 ^ 8 * state.val + 1)
     Live k s →
       (MayWrite k l base ctl s →
         (d.run = false → Acts k (.drwRunStart k l n state) s (setDrw c n { d with run := true, safed := false, state := state.val, clk := 1 })) ∧
         (d.run = true → Acts k (.drwRunStart k l n state) s c)) ∧
       (MayWrite k l base 0 s →
         (d.run = true → Acts k (.drwRunStop k l n) s (setDrw c n { d with run := false, stall := none, stallFlagged := false })) ∧
         (d.run = false → Acts k (.drwRunStop k l n) s c)) ∧
       (MayWrite k l base 2 s → d.run = false →
         let e := setDrw c n { d with outq := [], inq := [], gcnt := 0, scnt := 0 }
         Acts k (.drwFlush k l n) s (if d.outq = [] then e else e.orIrq .drw (BitVec.ofNat 32 (2 ^ (8 + n.val))))) ∧
       (MayWrite k l (base + 0x10) w s →
         Acts k (.drwOutqWrite k l n w) s
           (setDrw c n (if d.outq.length + d.oqOut < 4 then { d with outq := d.outq ++ [w], oqIn := d.oqIn + 1 }
             else { d with oqof := true }))) ∧
       (d.inq = v :: q → d.iqIn < d.inq.length →
         Acts k (.drwInqRead k n) s (setDrw { c with rdata := v } n { d with inq := q, iqOut := d.iqOut + 1 })) ∧
       (d.inq.length ≤ d.iqIn → Acts k (.drwInqRead k n) s (setDrw { c with rdata := 0 } n { d with iquf := true })) ∧
       (MayWrite k l (base + 0x24) w s →
         (d.run = false → Reaches k (.drwTdataWrite k l n w) s (fun x =>
           (x.drw.dr[n]).taddr = (d.taddr + 1) % 1024 ∧
           ∀ a, assocGet a (x.drw.dr[n]).table = if a = d.taddr ∧ a < 0x240 then some (w, false) else assocGet a d.table)) ∧
         (d.run = true → Acts k (.drwTdataWrite k l n w) s (raiseErr .drw (BitVec.ofNat 32 (2 ^ (8 + n.val))) c))) ∧
       (d.run = false → d.taddr < 0x240 → ∀ bad, assocGet d.taddr d.table = some (w, bad) →
         Acts k (.drwTdataRead k n) s (setDrw { c with rdata := w } n { d with taddr := d.taddr + 1 })) ∧
       (d.run = true → Acts k (.drwTdataRead k n) s { c with rdata := 0 }))

/-- The time base: delivered offsets step or slew it, slew ticks, the alignment bit, the latching read (12 R394 to R399).
Compare channels and captures (12 R400 to R410). -/
def Obligations.TimeAndCompare : Prop :=
  (∀ (k : Fin 16) (s : State),
     let c := s.cab k
     let t := c.tmr
     let ring := s.chip.side.ticks
     let ofs := (t.count - ring).toInt
     let steps := c.mode ≠ .armed ∧ c.mode ≠ .running ∧ (64 < ofs.natAbs ∨ t.delivered = false)
     Live k s →
       (s.chip.side.joinedAny = false ∨ s.chip.side.syncOk = true →
         (c.hold = false → c.freeRun = false →
           Reaches k (.timeOffsetDelivery k) s (fun d =>
             d.tmr.ofs = ofs ∧ d.tmr.aligned = decide (ofs.natAbs ≤ 6) ∧ d.tmr.delivered = true ∧
             (steps → d.tmr.count = ring ∧ d.tmr.rem = 0 ∧ (d.errs[5]).irq.getLsbD 0 = true) ∧
             (¬ steps → d.tmr.count = t.count ∧ d.tmr.rem = - ofs))) ∧
         (c.hold = true ∨ c.freeRun = true → Acts k (.timeOffsetDelivery k) s c)) ∧
       (t.rem ≠ 0 → t.slewed = false →
         Reaches k (.slewTick k) s (fun d =>
           d.tmr.count = t.count + (if 0 < t.rem then 2 else 0) ∧ d.tmr.rem = (if 0 < t.rem then t.rem - 1 else t.rem + 1) ∧
           d.tmr.slewed = true ∧ d.tmr.before = t.count ∧ d.tmr.tested = t.before ∧ d.tmr.group = (t.group + 1) % 256 ∧
           (c.fbk.age ≠ 0xFFFFFFFF → d.fbk.age = c.fbk.age + 1))) ∧
       (t.rem = 0 ∨ t.slewed = true → Acts k (.slewTick k) s c) ∧
       (1280000 ≤ t.quiet → Reaches k (.alignmentTimeout k) s (fun d =>
         d.tmr = { t with aligned := false } ∧ (t.aligned = true → (d.errs[5]).irq.getLsbD 1 = true))) ∧
       (t.quiet < 1280000 → Acts k (.alignmentTimeout k) s c) ∧
       Acts k (.tmrTblRead k) s
         { c with rdata := t.count.setWidth 32, tmr := { t with tbHi := (t.count >>> 32).setWidth 32 } }) ∧
  (∀ (k : Fin 16) (n : Fin 16) (i : Fin 8) (rising : Bool) (l : Level) (w : Word) (v : Option (BitVec 64)) (m : Nat) (ts stamp : BitVec 64)
     (q : List (BitVec 64)) (cfg : BitVec 7) (s : State),
     let c := s.cab k
     let x := c.tmr.ch[n]
     let y := c.tmr.cap[i]
     let tested := c.tmr.tested
     let first := if c.tmr.phase then 3 else 2
     let source := y.cfg.toNat % 2 ^ 5
     let edge := y.cfg.toNat / 2 ^ 5 % 2 ^ 2
     let on : Prop :=
       (source ≤ 11 → (edge = 3 ∨ edge = if rising then 1 else 2) ∧ (∀ t, y.lastEdge = some t → 2 ≤ (c.tmr.count - t).toNat)) ∧
       (11 < source → edge ≠ 0 ∧ source ≠ 15)
     let due := x.armed = true ∧ x.done = false ∧ reached x.cmp tested
     Live k s →
       (MayWrite k l (0x45040 + 16 * n.val) w s → Acts k (.tmrCmplWrite k l n w) s (setCh c n { x with heldLo := w })) ∧
       (MayWrite k l (0x45044 + 16 * n.val) w s →
         Acts k (.tmrCmphWrite k l n w) s (setCh c n { x with inflight := some (some (w ++ x.heldLo), first) })) ∧
       (MayWrite k l (0x4504C + 16 * n.val) 0x100 s →
         Acts k (.tmrCmpDisarm k l n) s (setCh c n { x with inflight := some (none, first) })) ∧
       (c.tmr.rem ≠ 0 → c.tmr.slewed = false →
         Reaches k (.slewTick k) s (fun d =>
           let z := d.tmr.ch[n]
           z.done = false ∧ (x.inflight = none → z.cmp = x.cmp ∧ z.armed = x.armed) ∧
           (x.inflight = some (v, m + 2) → z.inflight = some (v, m + 1) ∧ z.cmp = x.cmp ∧ z.armed = x.armed) ∧
           (x.inflight = some (v, 1) → z.inflight = none ∧ z.armed = v.isSome ∧ z.cmp = v.getD x.cmp))) ∧
       (due → Reaches k (.compareFire k n) s (fun d =>
         let z := d.tmr.ch[n]
         z.armed = decide (x.per ≠ 0) ∧ z.cmp = x.cmp + x.per.setWidth 64 ∧ z.done = true ∧ z.inflight = x.inflight ∧
         d.tmr.cmpflag.getLsbD n.val = true ∧ (tested ≠ x.cmp → d.tmr.cmpflag.getLsbD (16 + n.val) = true) ∧
         (d.icu.src[n.castLE (by decide : 16 ≤ 128)]).pend = true ∧
         ∀ m : Fin 4, (c.drw.dr[m]).cfg.toNat / 2 ^ 24 % 2 ^ 5 = n.val → (d.drw.dr[m]).irqLatch = true)) ∧
       (¬ due → Acts k (.compareFire k n) s c) ∧
       (on → y.queue.length < 4 → Reaches k (.capture k i rising) s (fun d =>
         (∃ z, (d.tmr.cap[i]).queue = y.queue ++ [z] ∧ (d.tmr.cap[i]).inTick = y.inTick + 1 ∧
           (source = 12 ∨ source = 13 → z = c.fbk.edgets) ∧ (source = 14 → z = c.fbk.extts) ∧
           (source < 12 ∨ 14 < source → (z - c.tmr.count).toInt.natAbs ≤ 1)) ∧
         (d.icu.src[(⟨16 + i.val, by omega⟩ : Fin 128)]).pend = true)) ∧
       (on → 4 ≤ y.queue.length → Reaches k (.capture k i rising) s (fun d =>
         (d.tmr.cap[i]).queue = y.queue ∧ (d.tmr.cap[i]).excess.isSome = true ∧ d.tmr.ovf = c.tmr.ovf)) ∧
       (c.tmr.rem ≠ 0 → c.tmr.slewed = false → y.excess ≠ none →
         Reaches k (.slewTick k) s (fun d =>
           d.tmr.ovf.getLsbD i.val = true ∧ (d.errs[5]).berr.getLsbD i.val = true ∧ (d.tmr.cap[i]).queue = y.queue ∧
           (d.tmr.cap[i]).excess = none)) ∧
       (¬ on → Acts k (.capture k i rising) s c) ∧
       (y.queue = ts :: q → y.inTick < y.queue.length → y.excess = some stamp →
         Reaches k (.tmrCapRead k i) s (fun d =>
           d.rdata = 1 ||| BitVec.ofNat 32 ((q.length + 1) * 2 ^ 4) ∧
           d.tmr.cap[i] = { y with queue := q ++ [stamp], ts := ts, excess := none, inTick := y.inTick + 1 } ∧ d.tmr.ovf = c.tmr.ovf ∧
           (d.icu.src[(⟨16 + i.val, by omega⟩ : Fin 128)]).pend = true)) ∧
       (y.queue = ts :: q → y.inTick < y.queue.length → y.excess = none →
         Acts k (.tmrCapRead k i) s
           (setCap { c with rdata := 1 ||| BitVec.ofNat 32 (q.length * 2 ^ 4) } i { y with queue := q, ts := ts })) ∧
       (y.queue.length ≤ y.inTick → Acts k (.tmrCapRead k i) s { c with rdata := 0 }) ∧
       (MayWrite k l (0x45200 + 16 * i.val) (cfg.setWidth 32 ||| 0x80) s →
         Acts k (.tmrCapFlush k l i cfg) s
           (setCap c i { y with queue := [], inTick := 0, cfg := (y.cfg &&& 0xFFFFFF80) ||| cfg.setWidth 32 })))

/-- The interrupt controller: claims, completions and software sources (12 R411 to R416). -/
def Obligations.InterruptController : Prop :=
  ∀ (k : Fin 16) (l : Level) (n : Fin 128) (set : BitVec 8) (s : State),
    let c := s.cab k
    let u := c.icu
    let x := u.src[n]
    Live k s →
      (claimable u n → x.prio ≤ 8 →
        (∀ m, claimable u m → (u.src[m]).prio < x.prio ∨ ((u.src[m]).prio = x.prio ∧ n.val ≤ m.val)) →
        let d := bump 0x33 1 {} { c with
          rdata := BitVec.ofNat 32 n.val ||| BitVec.ofNat 32 (x.rep * 2 ^ 8) ||| BitVec.ofNat 32 (x.prio * 2 ^ 12) }
        Acts k (.icuClaimRead k) s { d with icu := { u with
          src := u.src.set n { x with pend := false, rep := 0 }, insvc := u.insvc.set (Fin.ofNat 8 (x.prio - 1)) (some n.val) } }) ∧
      ((∀ m, ¬ claimable u m) → Acts k (.icuClaimRead k) s { c with rdata := 0x80000000 }) ∧
      (∀ j : Fin 8, MayWrite k l 0x46208 (BitVec.ofNat 32 n.val) s → u.insvc[j] = some n.val →
        (∀ i : Fin 8, i.val < j.val → u.insvc[i] ≠ some n.val) →
        Reaches k (.icuCompleteWrite k l n) s (fun d =>
          d.icu.insvc = u.insvc.set j none ∧
          (∀ b, evSrc b = some n.val → (c.errs[b.idx]).irq &&& (c.errs[b.idx]).irqen ≠ 0 → (d.icu.src[n]).pend = true))) ∧
      (MayWrite k l 0x46208 (BitVec.ofNat 32 n.val) s → (∀ j : Fin 8, u.insvc[j] ≠ some n.val) →
        Reaches k (.icuCompleteWrite k l n) s (fun d => d.icu.insvc = u.insvc ∧ (d.errs[6]).berr.getLsbD 1 = true)) ∧
      (MayWrite k l 0x46220 (set.setWidth 32) s →
        Reaches k (.icuSwsetWrite k l set) s (fun d => ∀ i : Fin 8,
          let j : Fin 128 := ⟨56 + i.val, by omega⟩
          d.icu.src[j] = if set.getLsbD i.val then
              (if (u.src[j]).pend then { u.src[j] with rep := min ((u.src[j]).rep + 1) 15 }
               else { u.src[j] with pend := true, rep := 0 })
            else u.src[j]))

/-- The integrity and the performance registers, the wrap of a counter and the storing of a sample (13 R428, R430, R443; 14 R448, R453,
R457, R460, R463, R465).
The dump record reaches data memory little-endian, and nothing else of memory changes (14 R457, R460); words that would lie beyond data
memory are not written (the model's choice, log 100). -/
def Obligations.IntegrityAndPerformance : Prop :=
  (∀ (k : Fin 16) (l : Level) (inj mcen len : Bool) (count : BitVec 16) (n : Fin 64) (w : Word) (ws : List Word) (s : State),
     let c := s.cab k
     let p := c.prf
     let test : Word := BitVec.ofNat 32 (inj.toNat + 2 * mcen.toNat)
     Live k s →
       (MayWrite k l 0x47020 test s →
         (inj = true → c.mode = .armed ∨ c.mode = .running →
           Reaches k (.parTestWrite k l inj mcen) s (fun d => d.par = c.par ∧ (d.errs[7]).berr.getLsbD 0 = true)) ∧
         (inj = false ∨ (c.mode ≠ .armed ∧ c.mode ≠ .running) →
           Acts k (.parTestWrite k l inj mcen) s { c with par := { c.par with inj := inj, mcen := mcen } })) ∧
       (MayWrite k l 0x47000 (count.setWidth 32) s →
         Acts k (.parBucketWrite k l count) s { c with par := { c.par with bucket := count.toNat } }) ∧
       (c.par.leak ≠ 0 → c.par.leak ≤ c.par.leakCount →
         Acts k (.parBucketLeak k) s { c with par := { c.par with bucket := c.par.bucket - 1, leakCount := 0 } }) ∧
       Acts k (.prfCntlRead k n) s { c with
         rdata := (p.cnt[n]).setWidth 32, prf := { p with readHi := p.readHi.set n ((p.cnt[n] >>> 32).setWidth 16) } } ∧
       (MayWrite k l (0x48200 + 8 * n.val) w s →
         Acts k (.prfCntlWrite k l n w) s { c with prf := { p with heldLo := p.heldLo.set n w } }) ∧
       (MayWrite k l (0x48204 + 8 * n.val) w s →
         Acts k (.prfCnthWrite k l n w) s { c with prf := { p with
           cnt := p.cnt.set n (BitVec.ofNat 48 ((w.toNat % 2 ^ 16) * 2 ^ 32 + (p.heldLo[n]).toNat)) } }) ∧
       (MayWrite k l (if len then 0x48088 else 0x48084) w s →
         let base := if len then p.dumpbase else (p.dumpbase &&& 0xFFFE0003) ||| (w &&& 0x0001FFFC)
         Acts k (.prfDumpAreaWrite k l len w) s { c with prf := { p with
           dumpbase := base, dumplen := max (if len then w.toNat % 2 ^ 16 else p.dumplen) 4, dumpptr := base,
           dumpMoved := p.dump.isSome } }) ∧
       (MayWrite k l 0x480C4 0x2000 s →
         Acts k (.prfSmpstatClr k l) s { c with prf := { p with widx := 0, smpcnt := 0, smpN := 0 } }) ∧
       (c.pipe.hold ≠ .wfi → c.perfWait = [] → p.smpWait = some ws → p.widx < 64 →
         Reaches k (.preciseSample k) s (fun d =>
           d.prf.smpWait = none ∧ d.prf.widx = (p.widx + 1) % 64 ∧ d.prf.smpcnt = min (p.smpcnt + 1) 64 ∧
           d.prf.smpseq = (p.smpseq + 1) % 256 ∧
           (p.smpcnt = 63 → p.smpcfg.getLsbD 20 = true → (d.errs[8]).irq.getLsbD 1 = true) ∧
           ∀ j : Fin 256, d.prf.buf[j] = if j.val / 4 = p.widx
             then ws.getD (j.val % 4) 0 ||| (if j.val % 4 = 0 ∨ j.val % 4 = 3 then BitVec.ofNat 32 (p.smpseq * 2 ^ 24) else 0)
             else p.buf[j])) ∧
       (c.pipe.hold ≠ .wfi → c.perfWait = [] → (p.cnt[n]).toNat = 2 ^ 48 - 1 →
         Reaches k (.counterWrap k n) s (fun d =>
           (n ≠ 0x32 → n ≠ 0x2B → d.prf.cnt[n] = 0) ∧ wrapped d.prf n = true ∧ (d.errs[8]).irq.getLsbD 2 = true))) ∧
  (∀ (k : Fin 16) (ws : List Word) (a r : Nat) (s : State),
     let c := s.cab k
     Live k s → c.prf.dump = some ⟨ws, some a, r⟩ → c.perfWait = [] →
       Reaches k (.dumpRecordComplete k) s (fun d =>
         (∀ i, memByte d i = if a ≤ i ∧ i < a + 4 * ws.length ∧ a + 4 * ((i - a) / 4) < 0x20000
           then BitVec.ofNat 8 ((ws.getD ((i - a) / 4) 0).toNat / 256 ^ ((i - a) % 4)) else memByte c i) ∧
         d.prf.dump = none ∧ d.prf.dumpseq = (c.prf.dumpseq + 1) % 65536 ∧ ((d.errs[8]).irq.getLsbD 0 = true) ∧
         (c.prf.dumpMoved = false → d.prf.dumpptr = BitVec.ofNat 32 (a + 4 * ws.length))))

/-- The decode table and the bank of the loop store (02 R81, R83, R87; 07 R243, R251). -/
def Obligations.SlotsAndBanks : Prop :=
  ∀ (k : Fin 16) (l : Level) (n : Fin 16) (start : BitVec 8) (lenm1 : Fin 16) (fs req : Bool) (s : State),
    let c := s.cab k
    let new : Slot := ⟨start.toNat, lenm1.val, fs, false⟩
    let word (v : Nat) : Word := BitVec.ofNat 32 (start.toNat + 2 ^ 8 * lenm1.val + 2 ^ 12 * fs.toNat + 2 ^ 16 * v)
    let at' := 0x4A000 + 4 * n.val
    let old := c.dec.slot[n]
    let writable := c.wen = true ∧ c.mode ≠ .armed ∧ c.mode ≠ .running ∧ (old.valid = true → new = { old with valid := false })
    let b := c.bank
    Live k s →
      (MayWrite k l at' (word 1) s → writable →
        (slotCheck (setSlot c n new) new = none →
          Reaches k (.decSlotValidate k l n start lenm1 fs) s (fun d =>
            d.dec.slot = c.dec.slot.set n { new with valid := true } ∧ d.dec.check = BitVec.ofNat 32 n.val ∧ d.dec.uop = c.dec.uop)) ∧
        (∀ r e, slotCheck (setSlot c n new) new = some (r, e) →
          Reaches k (.decSlotValidate k l n start lenm1 fs) s (fun d =>
            d.dec.slot = c.dec.slot.set n new ∧ (d.errs[10]).berr.getLsbD 1 = true ∧
            d.dec.check = BitVec.ofNat 32 n.val ||| BitVec.ofNat 32 (r * 2 ^ 4) ||| BitVec.ofNat 32 (e * 2 ^ 8)))) ∧
      (slotCheck c new = none →
        start.toNat + lenm1.val ≤ 255 ∧
        ∀ i, start.toNat ≤ i → i ≤ start.toNat + lenm1.val →
          uopLast (uopAt c i) = decide (i = start.toNat + lenm1.val) ∧
          ∃ u, uopDecode (uopAt c i) = some u ∧ uopSelOk u = true ∧ (fs = true → u.rb = false)) ∧
      (MayWrite k l at' (word 0) s →
        (writable → Acts k (.decSlotInvalidate k l n start lenm1 fs) s (setSlot c n new)) ∧
        (¬ writable → Acts k (.decSlotInvalidate k l n start lenm1 fs) s (raiseErr .dec 1 c))) ∧
      (MayWrite k l 0x40024 (BitVec.ofNat 32 (2 * req.toNat)) s →
        (req = b.active → Reaches k (.cabBankselReqWrite k l req) s (fun d =>
          d.bank = { b with req := req, swapAtRunEnd := false, atBoundary := false } ∧ d.swapTickets = [])) ∧
        (req ≠ b.active → (if req then b.validB else b.validA) = false → Acts k (.cabBankselReqWrite k l req) s c) ∧
        (req ≠ b.active → (if req then b.validB else b.validA) = true → b.staging = false →
          (c.frame.running = true ∨ b.atBoundary = true →
            Acts k (.cabBankselReqWrite k l req) s { c with bank := { b with req := req } }) ∧
          (c.frame.running = false → c.frame.inRun = false → c.mode ≠ .parked → b.atBoundary = false →
            Reaches k (.cabBankselReqWrite k l req) s (fun d =>
              d.bank = { b with req := req, active := req, swapAtRunEnd := false } ∧ d.swapTickets = [] ∧
              d.frame.stat.getLsbD 9 = true ∧ d.pipe.fetchBuf = []))))

/-- Self-test, clocks, I/O supply, parking and waking of a cabinet, and its heartbeats at the sideboard (01 R30 to R32, R40, R42 to R45;
02 R83; 08 R270 to R273, R285; 19 R598, R613 to R616). A self-test from PARKED calibrates what the cabinet wakes with (the model's choice,
log 93); a loss of the reference ends a switch back to it (log 27). -/
def Obligations.CabinetLifecycle : Prop :=
  ∀ (k : Fin 16) (cnv pwm : Word) (refFail calFail : BitVec 5) (h : Heartbeat) (hs : List Heartbeat) (s : State),
    let c := s.cab k
    let side := s.chip.side
    let failed := cnv &&& 0x1FFFFF ≠ 0 ∨ pwm &&& 0xFFFF ≠ 0
    let lost := if c.clockSwitch = some false then { c with clockSwitch := none } else c
    let done := Instr.selfTestComplete k cnv pwm refFail calFail
    let calibrated (i : Fin 5) : Trim := if (refFail ||| calFail).getLsbD i.val then c.cnv.trim[i] else { cal := some c.free }
    Live k s →
      (c.mode = .test → c.testParked = false → failed →
        Reaches k done s (fun d =>
          d.mode = .tripped ∧ d.err.getLsbD 17 = true ∧ d.cnv.testres = cnv &&& 0x1FFFFF ∧ d.pwm.testres = pwm &&& 0xFFFF ∧
          d.testTicket = none)) ∧
      (c.mode = .test → c.testParked = false → ¬ failed → c.deftest = false → c.cmpr.stat = 0 →
        Reaches k done s (fun d =>
          (d.latch = c.latch → d.mode = .loaded ∧ d.prev = .test) ∧ d.err.getLsbD 17 = c.err.getLsbD 17 ∧ d.cnv.testres = 0 ∧
          d.pwm.testres = 0 ∧ d.cnv.calDone = true ∧ d.cnv.initCal = false ∧ (∀ i : Fin 5, d.cnv.trim[i] = calibrated i) ∧
          (refFail ≠ 0 → (d.errs[1]).berr.getLsbD 6 = true) ∧ (calFail &&& ~~~ refFail ≠ 0 → (d.errs[1]).berr.getLsbD 4 = true))) ∧
      (c.mode = .test → c.testParked = true →
        Reaches k done s (fun d =>
          d.mode = .parked ∧ (failed → d.err.getLsbD 17 = true) ∧ d.cnv.testres = cnv &&& 0x1FFFFF ∧ d.pwm.testres = pwm &&& 0xFFFF ∧
          d.cmpr.stat = 0 ∧ ∀ i : Fin 5, d.cnv.trim[i] = calibrated i)) ∧
      ((c.hold = false → Acts k (.referenceClockLoss k) s { lost with hold := true, notes := c.notes ++ [.health 0x24] }) ∧
        (c.hold = true → Acts k (.referenceClockLoss k) s lost)) ∧
      (c.hold = true →
        (c.frame.running = true → Acts k (.freeRunSwitch k) s { c with clockSwitch := some true }) ∧
        (c.frame.running = false → Acts k (.freeRunSwitch k) s { c with clockSwitch := none, hold := false, freeRun := true })) ∧
      (c.hold = true ∨ c.freeRun = true →
        (c.frame.running = true → Acts k (.relock k) s { c with clockSwitch := some false }) ∧
        (c.frame.running = false → Acts k (.relock k) s { c with clockSwitch := none, hold := false, freeRun := false })) ∧
      (exec (.ioBankLoss k) s = .next { s with chip := s.chip.setCab k { c with ioOk := false } }) ∧
      (exec (.ioBankReturn k) s = .next { s with chip := s.chip.setCab k { c with ioOk := true } }) ∧
      (c.mode = .parked → c.park = .entering → c.deftest = false →
        Reaches k (.parkComplete k) s (fun d =>
          d.park = (if c.wakeTicket.isSome then .waking else .stopped) ∧ d.mode = .parked ∧ d.pipe.sbuf = [] ∧
          d.frame.inRun = false ∧ d.pipe.fault = none ∧ d.prf.dump = none ∧ d.cmpr.stat = 0 ∧ d.parkTicket = none)) ∧
      (c.park = .waking →
        Reaches k (.wakeRestore k) s (fun d =>
          d.park = .restored ∧ d.tmr.count = side.ticks ∧ d.tmr.rem = 0 ∧ d.pipe.cache = [] ∧ d.pipe.lineBuf = none ∧
          d.pipe.fetchBuf = [] ∧ d.pipe.fill = none ∧ d.fbk.stat.getLsbD 2 = true ∧ d.fbk.tsync = .nosync ∧
          ∀ n : Fin 4, (d.drw.dr[n]).frmLatch = false)) ∧
      (c.park = .restored →
        (c.latch = true ∨ c.err.getLsbD 17 = true →
          Reaches k (.wakeComplete k) s (fun d =>
            d.mode = .tripped ∧ d.park = .none ∧ d.bank.active = c.bank.active ∧
            d.bank.atBoundary = decide (c.bank.req ≠ c.bank.active))) ∧
        (c.latch = false → c.err.getLsbD 17 = false → c.parkLoaded = true → c.deftest = false →
          Reaches k (.wakeComplete k) s (fun d => (d.latch = false → d.mode = .loaded) ∧ d.park = .none)) ∧
        (c.latch = false → c.err.getLsbD 17 = false → c.parkLoaded = false →
          Reaches k (.wakeComplete k) s (fun d =>
            d.park = .none ∧ d.frame.count = c.frame.count ∧
            (d.mode = .armed ∧ d.frame.running = true ∧ d.frame.pos = 0 ∨ d.latch = true)))) ∧
      (side.sent[k] = h :: hs → side.ledger.commits = [] → side.resetAfter = none → side.safe = none ∨ side.finalDone = true →
        SideActs (.statusHeartbeat k) s { side with
          copies := side.copies.set k h, sent := side.sent.set k hs, lost := side.lost.set k false }) ∧
      (side.sent[k] = h :: hs → side.ledger.commits = [] → side.resetAfter = none → side.safe ≠ none → side.finalDone = false →
        ∃ x, SideActs (.statusHeartbeat k) s x ∧ x.copies = side.copies.set k h ∧ x.finalDone = true ∧
          x.ringA.keepAlive = false ∧ x.ringB.keepAlive = false ∧ x.health.saved = side.health.count) ∧
      ((side.copies[k]).state.toNat % 8 ≠ 5 → side.lost[k] = false →
        SideActs (.heartbeatLoss k) s (countHealth 0x21 (some k.val) 1 { side with lost := side.lost.set k true }))

/-- Resets of class P and boot (19 R599 to R603, R608, R611). -/
def Obligations.ResetsAndBoot : Prop :=
  ∀ (ns : Nat) (s : State),
    let d := s.chip.side
    (StartsReset .powerOnReset s .powerOn (fun t =>
      t.chip.side.ledger.entries = d.ledger.entries ∧ t.chip.side.prot.slots = d.prot.slots ∧
      ∀ k : Fin 16, (t.cab k).mems.epoch = (s.cab k).mems.epoch + 1)) ∧
    (1000 ≤ ns → d.safe = none →
      StartsReset (.resetN ns) s .resetN (fun t =>
        t.chip.side.ledger.entries = d.ledger.entries ∧ t.chip.side.prot.slots = d.prot.slots ∧
        ∀ k : Fin 16, (t.cab k).mems = (s.cab k).mems)) ∧
    (ns < 100 → SideActs (.resetN ns) s { d with pulses := d.pulses + 1 }) ∧
    (d.reset ≠ none → ∃ t, exec .resetEnd s = .next t ∧ t.pending = s.pending ∧ t.chip.side = { d with
        reset := none, time := 0,
        bootHold := decide ((d.rstSrc = .powerOn ∨ d.rstSrc = .resetN) ∧ d.pwrfailN = false) } ∧
      ∀ k : Fin 16, (t.cab k).pwm.safe = 0x01000000 ∧ (t.cab k).mode = (s.cab k).mode ∧ (t.cab k).mems = (s.cab k).mems) ∧
    (d.reset = none → exec .resetEnd s = .next s) ∧
    (d.reset = none → d.booted = false → d.bootHold = false ∨ d.pwrfailN = true →
      match bootChoice d.store with
      | none => exec .boot s = .next s
      | some (slot, fb) => ∃ t, exec .boot s = .next t ∧ t.pending = s.pending ∧ t.chip.cabs = s.chip.cabs ∧ t.chip.side.booted = true ∧
          t.chip.side.store = { d.store with active := slot, fallback := fb } ∧
          (∀ k : Fin 4, t.chip.side.icu.cores[k] = ⟨true, true⟩) ∧
          (d.ringA.phase = .out → d.node ≤ 0xF9 → d.conflict = false → d.safe = none → d.resetAfter = none →
            t.chip.side.ringA.phase = .listening ∧ t.chip.side.ringA.node = d.node)) ∧
    (d.bootHold = true → d.pwrfailN = false → exec .boot s = .next s) ∧
    (d.safe = none → d.reset = none → d.booted = true → (∃ k : Fin 4, d.icu.cores[k] = ⟨true, true⟩) →
      StartsReset .sideboardWatchdog s .watchdog (fun t => t.chip.side.rstSafe = some .watchdog))

/-- The causes of the chip safe state (01 R36, R39, R40; 19 R599, R603, R612; 20 R630). -/
def Obligations.ChipSafeState : Prop :=
  ∀ (ns : Nat) (back : Bool) (mask : Fin 8) (v : BitVec 12) (retries : Nat) (ph : LedgerPhase) (s : State),
    let d := s.chip.side
    let up := d.reset = none ∧ d.safe = none
    (up → d.bootHold = false → 100 ≤ ns → EntersSafe (.pwrfailN ns back) s .pwrfail) ∧
    (d.bootHold = true → SideActs (.pwrfailN ns back) s { d with pulses := d.pulses + 1, pwrfailN := back }) ∧
    (ns < 50 → SideActs (.pwrfailN ns back) s { d with pulses := d.pulses + 1, pwrfailN := back }) ∧
    (up → mask.val ≠ 0 → EntersSafe (.supplyExcursion mask) s (.supply mask.val)) ∧
    (up → 520 ≤ v.toInt → EntersSafe (.temperatureSample v) s .temperature) ∧
    (v.toInt < 460 → SideActs (.temperatureSample v) s { d with temp := v }) ∧
    (460 ≤ v.toInt → v.toInt < 520 → d.temp.toInt < 460 →
      SideActs (.temperatureSample v) s (countHealth 0x28 none 1 { d with temp := v, tempWarn := true })) ∧
    (up → d.booted = true → EntersSafe (.stewardCoreFault 15 none) s .stewards) ∧
    (up → d.booted = true → d.ledger.scan = false → EntersSafe (.ledgerCommit ph retries true) s .ledger)

/-- Steward cores, the sideboard interrupt controller and the health counters (01 R36; 17 R552; 19 R617 to R621).
The test access port (20 R644, R645), and what a Ck_PWM pin drives (09 R322, R333, R334; 19 R598; the whole force stage under EXTEST: log 97). -/
def Obligations.StewardsHealthAndTestAccess : Prop :=
  (∀ (src ses : Nat) (x : Fin 4) (n : Fin 32) (v : Word) (ev m : Nat) (q : Option Nat) (s : State),
     let d := s.chip.side
     let u := d.icu
     let known := if healthCodes.contains (v.toNat % 2 ^ 8) then v &&& 0xFFFF else v &&& 0xFF00
     (∀ j : Fin 32, (countHealth ev q m d).health.count[j] =
       let w := d.health.sel[j]
       if ev ≠ 0 ∧ w.toNat % 2 ^ 8 = ev ∧ (w.toNat / 2 ^ 8 % 2 ^ 8 = 255 ∨ q = some (w.toNat / 2 ^ 8 % 2 ^ 8))
       then min (d.health.count[j] + m) (2 ^ 64 - 1) else d.health.count[j]) ∧
     (d.reset = none →
       (u.stopped = false → (∀ y ∈ u.deliv, y.1 ≠ src) →
         (u.cores[x] = ⟨true, true⟩ → (∀ y : Fin 4, u.cores[y] = ⟨true, true⟩ → ¬ before u.last y x) →
           SideActs (.sideboardIcuDeliver src) s { d with icu := { u with
             pend := if src ∈ u.pend then u.pend else u.pend ++ [src], deliv := u.deliv ++ [(src, x.val)], last := x.val } }) ∧
         ((∀ y : Fin 4, (u.cores[y]).running = false) →
           SideActs (.sideboardIcuDeliver src) s { d with icu := { u with
             pend := if src ∈ u.pend then u.pend else u.pend ++ [src] } })) ∧
       (u.cores[x] = ⟨true, true⟩ →
         (∃ e, SideActs (.sideboardIcuWithdraw x true) s e ∧ (e.icu.cores[x]).awake = false ∧ (∀ y, (y, x.val) ∉ e.icu.deliv) ∧
           ∀ y, y ∈ e.icu.pend ↔ y ∈ u.pend ∧ (y, x.val) ∉ u.deliv) ∧
         (∃ e, SideActs (.sideboardIcuWithdraw x false) s e ∧ e.icu.pend = u.pend ∧
           ((∃ y : Fin 4, y ≠ x ∧ u.cores[y] = ⟨true, true⟩) → (e.icu.cores[x]).awake = false ∧ ∀ y, (y, x.val) ∉ e.icu.deliv))) ∧
       (d.booted = true → (∀ y : Fin 4, (u.cores[y]).awake = false) →
         SideActs .sideboardIcuSleep s { d with icu := { u with stopped := true } }) ∧
       (u.stopped = true → ∃ e, SideActs (.sideboardIcuRestart src) s e ∧ e.icu.stopped = false ∧ src ∈ e.icu.pend ∧
         ((∃ y : Fin 4, (u.cores[y]).running = true) → ∃ y, (src, y) ∈ e.icu.deliv)) ∧
       SideActs .healthCounterSave s { d with health := { d.health with saved := d.health.count } } ∧
       SideActs (.sbdHselWrite n v) s { d with health := {
         sel := d.health.sel.set n known, count := d.health.count.set n 0, saved := d.health.saved.set n 0 } } ∧
       (d.booted = true → ∃ e, SideActs (.stewardCoreFault (Fin.ofNat 16 (2 ^ x.val)) (some ses)) s e ∧
         e.icu.cores[x] = ⟨(u.cores[x]).running, (u.cores[x]).running⟩ ∧ (∀ y, (y, x.val) ∉ e.icu.deliv) ∧ e.icu.pend = u.pend ∧
         ∀ w ∈ e.waiting, w.packet.session ≠ ses))) ∧
  (∀ (op : Fin 4) (addr : BitVec 20) (data : Word) (vals : Option (List (Nat × Nat))) (k : Fin 16) (i : Nat) (s : State),
     let d := s.chip.side
     (op.val = 0 ∨ op.val = 3 → exec (.imgacc op addr data) s = .next s) ∧
     (op.val = 1 ∨ op.val = 2 → d.booted = true →
       SideActs (.imgacc op addr data) s { d with tap := { d.tap with denied := true, done := false } }) ∧
     (d.booted = false →
       (∃ e, SideActs (.imgacc 1 addr data) s e ∧ e.tap = { d.tap with done := true, denied := false } ∧
         ∀ a, storeByte a e.store = if 4 * addr.toNat ≤ a ∧ a < 4 * addr.toNat + 4
           then BitVec.ofNat 8 (data.toNat / 256 ^ (a - 4 * addr.toNat)) else storeByte a d.store) ∧
       (∃ e, SideActs (.imgacc 2 addr data) s e ∧ e.store = d.store ∧ e.tap.done = true ∧ e.tap.denied = false ∧
         ∀ j, j < 4 → BitVec.ofNat 8 (e.tap.data.toNat / 256 ^ j) = storeByte (4 * addr.toNat + j) d.store)) ∧
     (SideActs (.extest vals) s { d with tap := { d.tap with extest := vals } }) ∧
     ((s.cab k).ioOk = false ∨ d.reset = some .powerOn ∨ d.reset = some .resetN → pwmPin k i s.chip = none) ∧
     ((s.cab k).ioOk = true → d.reset ≠ some .powerOn → d.reset ≠ some .resetN →
       (d.tap.extest = none ∨ (s.cab k).forced = true →
         pwmPin k i s.chip = if outputHiZ (s.cab k) i then none
           else some (outputActive (s.cab k) i != (s.cab k).pwm.safe.getLsbD (16 + i))) ∧
       (∀ vs, d.tap.extest = some vs → (s.cab k).forced = false →
         (assocGet (k.val * 8 + i) vs = some 0 → pwmPin k i s.chip = some false) ∧
         (assocGet (k.val * 8 + i) vs = some 1 → pwmPin k i s.chip = some true) ∧
         (assocGet (k.val * 8 + i) vs = some 2 → pwmPin k i s.chip = none))))

/-- Frames that the device takes, forwards, marks, removes or sends (15 R474, R477 to R479, R481, R483, R484, R487, R488). -/
def Obligations.RingFrames : Prop :=
  ∀ (r : RingId) (src : Fin 256) (len : Nat) (f : JFrame) (ft : List JFrame) (bytes : List Byte) (s : State),
    let d := s.chip.side
    let e := d.ring r
    let q := d.ring r.other
    let taken : Bool := f.dst == e.node || f.dst == 0xFD
    let own : Bool := f.src == e.node && !f.wrap
    let counted7 := countHealth 0x07 (some r.num) 1 d
    (e.phase = .joined →
      (17 ≤ len → len ≤ 1080 → SideActs (.reply r src len) s d) ∧ (len < 17 ∨ 1080 < len → SideActs (.reply r src len) s counted7) ∧
      (16 ≤ len → len ≤ 1080 → SideActs (.report r src len) s d) ∧ (len < 16 ∨ 1080 < len → SideActs (.report r src len) s counted7) ∧
      SideActs (.discardedFrame r) s counted7 ∧
      (bytes.length < 16 ∨ 1048 < bytes.length → SideActs (.command r src bytes) s counted7) ∧
      (16 ≤ bytes.length → bytes.length ≤ 1048 → d.booted = true → d.ledger.scan = false → d.safe = none → d.reset = none →
        exec (.command r src bytes) s = .next { s with
          chip := processBytes (.ring r src.val) bytes { s.chip with
            side := { d with nodeRing := assocPut src.val r d.nodeRing } } })) ∧
    (passes r d → e.phase ≠ .listening → f.bad = false →
      (taken = false → own = false → SideActs (.frameForward r f false) s (onLine r f d)) ∧
      (taken = false → own = false →
        SideActs (.frameForward r f true) s (onLine r { f with bad := true } (countHealth 0x01 (some r.num) 1 d))) ∧
      (taken = false → own = true → f.dst = 0xFF → SideActs (.frameForward r f false) s d) ∧
      (taken = false → own = true → f.dst ≠ 0xFF →
        SideActs (.frameForward r f false) s (countHealth 0x06 (some r.num) 1 d)) ∧
      (taken = true → SideActs (.frameForward r f false) s d)) ∧
    (d.resetAfter = none → 0 < e.window → SideActs (.ownFrameTransmit r) s d) ∧
    (passes r d → d.resetAfter = none → e.window = 0 →
      (e.hopq = f :: ft → f.kind ≠ 0x09 → f.kind ≠ 0x0A →
        SideActs (.ownFrameTransmit r) s (d.setRing r { e with hopq := ft, line := e.line ++ [f] })) ∧
      (e.hopq = f :: ft → f.kind = 0x09 →
        ∃ x, SideActs (.ownFrameTransmit r) s x ∧ (x.ring r).hopq = ft ∧ (x.ring r.other).asked = some d.stamp ∧
          (x.ring r).line = e.line ++ [{ f with payload := bytesOf 8 d.stamp }]) ∧
      (e.hopq = f :: ft → f.kind = 0x0A →
        SideActs (.ownFrameTransmit r) s (d.setRing r { e with hopq := ft, line := e.line ++ [{ f with
          payload := f.payload.take 8 ++ bytesOf 8 ((d.stamp + 2 ^ 64 - natOfBytes (f.payload.drop 8)) % 2 ^ 64) }] })) ∧
      (e.hopq = [] → e.joinq = f :: ft →
        SideActs (.ownFrameTransmit r) s (d.setRing r { e with joinq := ft, line := e.line ++ [f] })) ∧
      (e.hopq = [] → e.joinq = [] → e.phase = .joined → e.replyq = f :: ft →
        SideActs (.ownFrameTransmit r) s (d.setRing r { e with replyq := ft, line := e.line ++ [stampReply f d] })) ∧
      (e.hopq = [] → e.joinq = [] → e.phase = .joined → e.replyq = [] → e.noticeq = f :: ft →
        SideActs (.ownFrameTransmit r) s (d.setRing r { e with noticeq := ft, line := e.line ++ [f] }))) ∧
    (∃ x, SideActs .hopTimer s x ∧ ∀ g : RingId,
      (x.ring g).hopq = if (d.ring g).inRing then (d.ring g).hopq ++ [{
          dst := 0xFD, src := (d.ring g).node, kind := 0x0C,
          payload := [BitVec.ofNat 8 (cond (d.ring g.other).inFault 0 1 + cond (d.ring g.other).wrapped 2 0)] }]
        else (d.ring g).hopq) ∧
    (e.phase ≠ .out → e.inFault = false →
      SideActs (.inputHopFault r) s (countHealth 0x03 (some r.num) 1 (d.setRing r { e with inFault := true, steady := 0 }))) ∧
    (e.phase ≠ .out →
      SideActs (.hop r true false) s (d.setRing r { e with
        notOk := 0, lastRxOk := true, nbrWrapped := false, inFault := false, outFault := false,
        steady := if e.nbrWrapped = false then e.steady else 0 })) ∧
    (e.phase ≠ .out → e.outFault = false →
      SideActs (.hop r false true) s (countHealth 0x04 (some r.num) 1 (d.setRing r { e with
        notOk := e.notOk + 1, lastRxOk := false, nbrWrapped := true, inFault := false, outFault := true, steady := 0 }))) ∧
    (e.phase ≠ .out → e.outFault = false → e.notOk = 0 →
      SideActs (.hop r false false) s (d.setRing r { e with
        notOk := 1, lastRxOk := false, nbrWrapped := false, inFault := false, steady := 0 })) ∧
    (e.inFault = true ∨ e.outFault = true → e.wrapped = false → e.inRing = true →
      SideActs (.wrap r) s (countHealth 0x05 (some r.num) 1 (d.setRing r { e with wrapped := true }))) ∧
    (e.wrapped = true → e.inFault = false → e.outFault = false → e.lastRxOk = true → 64000000 ≤ e.steady →
      0 < d.ringA.window ∨ 0 < d.ringB.window → SideActs (.unwrap r) s (d.setRing r { e with wrapped := false })) ∧
    (e.wrapped = false ∨ e.steady < 64000000 ∨ d.ringA.window = 0 ∧ d.ringB.window = 0 → SideActs (.unwrap r) s d) ∧
    (q.wrapped = true → e.wrapped = false → e.phase = .joined → f.bad = false → taken = false → own = false →
      (f.src = q.node → f.wrap = true → f.dst = 0xFF → SideActs (.frameForward r f false) s d) ∧
      (f.src ≠ q.node → SideActs (.frameForward r f false) s (onLine r.other { f with wrap := !f.wrap } d)))

/-- Ring time, hop delays, joining and leaving (15 R485 to R493, R495). What counts as two SYNC frames, and how long a SYNC is none to use
after the last, is the model's reading (log 101). -/
def Obligations.RingTimeAndJoining : Prop :=
  ∀ (r : RingId) (src : Fin 256) (wrap : Bool) (mtime corr t1 turn identity : BitVec 64) (residence n : Nat) (reason : BitVec 8)
    (jt : List JFrame) (s : State),
    let d := s.chip.side
    let e := d.ring r
    let q := d.ring r.other
    let joinIs (id : BitVec 64) (node : Nat) (w : Bool) : JFrame :=
      { dst := 0xFF, src := node, kind := 0x10, wrap := w, payload := bytesOf 8 id.toNat }
    let leaveIs (m : Nat) : JFrame := { dst := 0xFF, src := e.node, kind := 0x11, payload := [BitVec.ofNat 8 m] }
    let arrival := mtime.toNat * 65536 + corr.toNat + e.delay
    let off := if d.fineTime ≤ arrival then arrival - d.fineTime else d.fineTime - arrival
    let used := (r = .a ∨ 960000 ≤ d.ringA.syncAge) ∧ 576000 ≤ d.usedAge
    let switches := 0 < e.window ∧ e.window ≤ 14080
    let sync := Instr.sync r src wrap mtime corr residence
    (passes r d → e.phase = .joined → src.val ≠ e.node ∨ wrap = true → ∃ x, SideActs sync s x ∧
      (used → x.syncOk = true ∧ x.usedAge = 0 ∧ (16 * 65536 < off → x.time = arrival * 1000000 ∧ x.rate = d.rate) ∧
        (off ≤ 16 * 65536 → x.time = d.time ∧ -200 ≤ x.rate ∧ x.rate ≤ 200)) ∧
      (¬ used → x.syncOk = d.syncOk ∧ x.time = d.time ∧ x.rate = d.rate) ∧
      (x.ring r).window = 15360 ∧ (x.ring r).syncAge = 0 ∧ (x.ring r).line = e.line ++ [{
        dst := 0xFF, src := src.val, kind := 0x08, wrap := wrap,
        payload := bytesOf 8 mtime.toNat ++ bytesOf 8 (corr.toNat + e.delay + residence) }]) ∧
    (e.phase = .listening → q.phase ≠ .joined → src.val ≠ e.node →
      SideActs sync s (d.setRing r { e with
        syncAge := 0, window := 15360,
        heardSync := if e.rest ≠ 0 then 0
          else if 576000 ≤ e.syncAge ∧ e.syncAge ≤ 704000 ∧ e.heardSync ≠ 0 then 2 else max 1 e.heardSync })) ∧
    (passes r d → e.phase = .inserted → ∃ x, SideActs sync s x ∧ (x.ring r).heardSync = e.heardSync + 1 ∧ (x.ring r).window = 15360) ∧
    (q.inRing = true → e.wrapped = false →
      SideActs (.delayReq r t1) s (d.setRing r.other { q with hopq := q.hopq ++ [{
        dst := 0xFD, src := q.node, kind := 0x0A, payload := bytesOf 8 t1.toNat ++ bytesOf 8 d.stamp }] })) ∧
    (e.asked = some t1.toNat →
      SideActs (.delayResp r t1 turn) s (d.setRing r { e with
        asked := none, delays := ((((d.stamp + 2 ^ 64 - t1.toNat) % 2 ^ 64 - turn.toNat) / 2) :: e.delays).take 8 })) ∧
    (e.asked ≠ some t1.toNat → SideActs (.delayResp r t1 turn) s d) ∧
    (q.inRing = true → e.wrapped = false →
      SideActs (.delayMeasure r) s (d.setRing r.other { q with hopq := q.hopq ++ [{ dst := 0xFD, src := q.node, kind := 0x09 }] })) ∧
    (d.joinedAny = true → SideActs .syncTimeout s (countHealth 0x0A none 1 { d with syncOk := false })) ∧
    (d.joinedAny = true → exec .freeRunOffsetTimer s = .next s) ∧
    (d.joinedAny = false → d.reset = none → ∃ t, exec .freeRunOffsetTimer s = .next t ∧ t.pending = s.pending ∧
      ∀ k : Fin 16, (s.cab k).clocksRun = true → (s.cab k).hold = false → (s.cab k).freeRun = false →
        (t.cab k).tmr.ofs = ((s.cab k).tmr.count - d.ticks).toInt ∧ (t.cab k).tmr.delivered = true) ∧
    (e.phase = .listening → 2 ≤ e.heardSync → 2560000 ≤ e.unheard → switches →
      SideActs (.joinInsert r) s (d.setRing r { e with phase := .inserted, keepAlive := true, heardSync := 0 })) ∧
    (e.phase ≠ .listening ∨ e.heardSync < 2 ∨ e.unheard < 2560000 ∨ ¬ switches → SideActs (.joinInsert r) s d) ∧
    (e.phase = .inserted →
      (1 ≤ e.heardSync → e.window = 0 → SideActs (.joinAnnounce r) s (d.setRing r { e with
        phase := .announced 1, joinq := e.joinq ++ [joinIs Config.identity e.node false] })) ∧
      (e.heardSync = 0 ∨ 0 < e.window → SideActs (.joinAnnounce r) s d)) ∧
    (e.phase = .announced n → e.leaving = none → n < 3 →
      SideActs (.joinRetry r) s (d.setRing r { e with
        phase := .announced (n + 1), joinq := e.joinq ++ [joinIs Config.identity e.node false] })) ∧
    (e.phase = .announced n → e.leaving = none → 3 ≤ n →
      SideActs (.joinRetry r) s ((countHealth 0x09 (some r.num) 1 d).setRing r { e with
        leaving := some 4, joinq := e.joinq ++ [leaveIs 4] })) ∧
    (e.phase = .announced n → src.val = e.node →
      SideActs (.join r src false Config.identity) s (countHealth 0x08 (some r.num) 1 (d.setRing r { e with phase := .joined }))) ∧
    (passes r d → src.val ≠ e.node → SideActs (.join r src wrap identity) s (onLine r (joinIs identity src.val wrap) d)) ∧
    (e.inRing = true → src.val = e.node → identity ≠ Config.identity →
      ∃ x, SideActs (.join r src false identity) s x ∧ x.conflict = true ∧ (x.ring r).phase = e.phase ∧
        (e.leaving = none → (x.ring r).leaving = some 3 ∧ (x.ring r).joinq = e.joinq ++ [leaveIs 3]) ∧
        (e.leaving ≠ none → x.ring r = e)) ∧
    (passes r d → e.phase ≠ .listening → src.val ≠ e.node →
      SideActs (.leave r src wrap reason) s (onLine r { dst := 0xFF, src := src.val, kind := 0x11, wrap := wrap, payload := [reason] } d)) ∧
    (passes r d → e.leaving = some n → d.resetAfter = none → e.joinq = leaveIs n :: jt →
      (e.hopq = [] → e.window = 0 →
        SideActs (.leaveRing r) s (d.setRing r { e with joinq := jt, line := e.line ++ [leaveIs n] })) ∧
      (e.hopq ≠ [] ∨ 0 < e.window → SideActs (.leaveRing r) s d)) ∧
    (e.inRing = true → e.leaving = some n → d.resetAfter = none → (∀ g ∈ e.joinq, g.kind ≠ 0x11) →
      (switches → ∃ x, SideActs (.leaveRing r) s x ∧ (x.ring r).keepAlive = false ∧ (x.ring r).leaving = none ∧
        (x.ring r).wrapped = false ∧ (x.ring r).hopq = [] ∧ (x.ring r).joinq = [] ∧ (x.ring r).heardSync = 0 ∧
        (x.ring r).line = e.line ∧ (x.ring r).rest = (if n = 4 then 64000000 else 0) ∧
        (d.booted = true ∧ d.node ≤ 0xF9 ∧ d.conflict = false ∧ d.safe = none → (x.ring r).phase = .listening) ∧
        (d.booted = false ∨ 0xF9 < d.node ∨ d.conflict = true ∨ d.safe ≠ none → (x.ring r).phase = .out)) ∧
      (¬ switches → SideActs (.leaveRing r) s d))

/-- The bench port: STATUS, WRITE and READ (15 R499 to R502; 19 R610). -/
def Obligations.BenchTransactions : Prop :=
  ∀ (n : Nat) (bytes pkt rep : List Byte) (reps : List (List Byte)) (s : State),
    let d := s.chip.side
    let b := d.bench
    let free := b.replies = [] ∧ b.busy = false ∧ d.booted = true ∧ d.safe = none
    let write := bytesOf 2 pkt.length ++ pkt ++ bytesOf 4 (crc32 pkt)
    let out (r : List Byte) := bytesOf 2 r.length ++ r ++ bytesOf 4 (crc32 r)
    d.reset = none →
      SideActs (.status n) s { d with bench := { b with miso := statusByte d :: List.replicate n 0 } } ∧
      (b.replies ≠ [] ∨ b.busy = true ∨ d.booted = false ∨ d.safe ≠ none →
        SideActs (.write bytes) s (writeOutcome d bytes.length false false true)) ∧
      (free → bytes.length ≠ natOfBytes (bytes.take 2) + 6 →
        SideActs (.write bytes) s (countHealth 0x11 none 1 (writeOutcome d bytes.length false true false))) ∧
      (free → 16 ≤ natOfBytes (bytes.take 2) → natOfBytes (bytes.take 2) ≤ 1048 → bytes.length = natOfBytes (bytes.take 2) + 6 →
        crc32 ((bytes.drop 2).take (natOfBytes (bytes.take 2))) ≠ natOfBytes (bytes.drop (2 + natOfBytes (bytes.take 2))) →
        SideActs (.write bytes) s (countHealth 0x11 none 1 (writeOutcome d bytes.length true false false))) ∧
      (free → 16 ≤ pkt.length → pkt.length ≤ 1048 →
        let w := writeOutcome d write.length false false false
        (d.ledger.scan = true →
          SideActs (.write write) s { w with bench := { w.bench with busy := true, held := some pkt } }) ∧
        (d.ledger.scan = false →
          exec (.write write) s = .next { s with
            chip := processBytes .bench pkt { s.chip with side := { w with bench := { w.bench with busy := true } } } })) ∧
      (b.replies = rep :: reps → d.resetAfter = none → d.resetBench = false →
        (rep.length + 6 ≤ n →
          SideActs (.read n) s { d with bench := { b with
            miso := statusByte d :: (out rep ++ List.replicate n 0).take n, replies := reps } }) ∧
        (n < rep.length + 6 →
          SideActs (.read n) s { d with bench := { b with miso := statusByte d :: (out rep ++ List.replicate n 0).take n } })) ∧
      (b.replies = [] → d.resetAfter = none → d.resetBench = false →
        SideActs (.read n) s { d with bench := { b with miso := statusByte d :: List.replicate n 0 } })

/-- Where a reply goes, how a command ends, and the checks that turn a packet away (15 R480; 16 R506 to R519; 17 R551). -/
def Obligations.PacketChecks : Prop :=
  ∀ (p : Packet) (st node : Nat) (r : RingId) (data : List Byte) (s : State),
    let d := s.chip.side
    let x := d.session p.session
    let ahead := (p.seq - x.e).toNat
    let bytes := replyBytes p st data (replyKey p d)
    let well := Arrives 0x13 p s ∧ x.isOpen = true
    (p.port = .bench → sendReply p.port bytes d =
      { d with bench := { d.bench with replies := d.bench.replies ++ [bytes], busy := false } }) ∧
    (p.port = .ring r node → sendReply p.port bytes d = d.setRing r.other { d.ring r.other with
      replyq := (d.ring r.other).replyq ++ [{ dst := node, src := (d.ring r.other).node, kind := 2, payload := bytes }] }) ∧
    (data.length < 65536 → ∃ mac, mac.length ≤ 8 ∧ bytes = [if (replyKey p d).isSome then 0x81 else 0x91, BitVec.ofNat 8 p.opc] ++
      bytesOf 2 p.session ++ bytesOf 4 p.seq.toNat ++ [BitVec.ofNat 8 p.cab, BitVec.ofNat 8 p.ring] ++ bytesOf 2 data.length ++
      bytesOf 4 p.tag.toNat ++ [BitVec.ofNat 8 st] ++ data ++ mac ∧
      (∀ k, replyKey p d = some k → mac = mac8 k (bytes.take (bytes.length - mac.length)))) ∧
    (opKind p.opc = .j → st ≠ 6 → finish p st data d =
      journal p (headOf p .executed st data) 0 [.reply p.port bytes, .done p.session] d) ∧
    (∃ i w, (journal p (headOf p .executed st data) 0 [.reply p.port bytes, .done p.session] d).ledger.commits =
        d.ledger.commits ++ [{ writes := w ++ [.sessE p.session (p.seq + 1)], releases := [.reply p.port bytes, .done p.session] }] ∧
      (∀ e ∈ w, ∃ g m gone, e = .put i { headOf p .executed st data with run := 0, gen := g, place := m } gone)) ∧
    (Arrives 0x13 p s → x.isOpen = true → 2 ^ 31 ≤ ahead →
      SideActs (.cabArm p) s (answerPacket p 2 (duplicateData p (taken p d)) (taken p d))) ∧
    (well → 64 ≤ ahead → ahead < 2 ^ 31 → SideActs (.cabArm p) s (answerPacket p 3 (bytesOf 4 x.e.toNat) (taken p d))) ∧
    (well → 1 ≤ ahead → ahead ≤ 63 → x.busy = true →
      SideActs (.cabArm p) s (answerPacket p 3 (bytesOf 4 x.e.toNat)
        ((taken p d).onSession p.session (fun y => { y with window := [p] })))) ∧
    (well → ahead = 0 → x.busy = true →
      ∃ y, SideActs (.cabArm p) s y ∧ (y.session p.session).again = [p] ∧ y.ledger = d.ledger) ∧
    (InSequence 0x13 p s → permitted p (inProcess p d) = false → Answers (.cabArm p) p s 9 []) ∧
    (∀ n, InSequence 0x13 p s → permitted p (inProcess p d) = true →
      roomCheck p { s.chip with side := inProcess p d } = some n → Answers (.cabArm p) p s n []) ∧
    (p.opc = 0x13 → d.serving = true → portOpen p.port d = true → p.payload.length ≤ 1024 → authOk p d = false →
      SideActs (.cabArm p) s (answerBare p 4 (portTakes p.port d))) ∧
    (d.serving = false → exec (.cabArm p) s = .next s)

/-- Sessions and the unsequenced commands (16 R511, R512, R520, R524, R535, R544; 17 R557, R570; 19 R622). -/
def Obligations.SessionsAndQueries : Prop :=
  ∀ (p : Packet) (i : Nat) (e : Entry) (a : Word) (s : State),
    let d := s.chip.side
    let w := taken p d
    let x := d.session p.session
    let k := cabOf p.cab
    let slot := field p 0 1
    let nh := (p.payload.drop 2).take 8
    let nd := (List.range 8).map (Config.nonceByte d.draws)
    let key := (slotKey slot d).getD []
    let ks := cmac key ([0x53, 0x4B] ++ bytesOf 2 p.session ++ nh ++ nd)
    let nextE := if x.isOpen then x.e else p.seq
    let nextL := if x.isOpen then x.lrs else p.seq - 1
    let data := nd ++ bytesOf 4 nextE.toNat ++ bytesOf 4 nextL.toNat
    let port := portTakes p.port d
    let at' := field p 0 4
    let words := field p 4 2
    let pulled := reportPull p.cab p.ring (BitVec.ofNat 32 at') (field p 4 1) (s.cab k)
    (Arrives 0x00 p s → Replies (.nopCommand p) p s 0 []) ∧
    (p.opc = 0x00 → p.unauth = true → p.session = 0 → p.seq = 0 → d.serving = true → portOpen p.port d = true → headerOk p = true →
      p.payload = [] → x.window = [] → x.again = [] → SideActs (.nopCommand p) s (answerPacket p 0 [] port)) ∧
    (Arrives 0x01 p s →
      (x.isOpen = false ∨ x.nh ≠ nh → SideActs (.sessionOpen p) s (answerPacket p 0 data ({ port with draws := d.draws + 1 }.setSession
        p.session { x with
          isOpen := true, slot := slot, prin := (d.prot.slots[Fin.ofNat 32 slot]).prin, ks := some ks, nh := nh, nd := nd, e := nextE,
          lrs := nextL, openReply := data, window := [], lastPort := some p.port }))) ∧
      (x.isOpen = true → x.nh = nh → SideActs (.sessionOpen p) s (answerPacket p 2 x.openReply port))) ∧
    (InSequence 0x02 p s →
      ((∀ y ∈ sessionEntries p.session (inProcess p d).view, y.2.state = .retired) →
        ∃ z, SideActs (.sessionClose p) s z ∧ (z.session p.session).isOpen = false ∧ (z.session p.session).ks = none ∧
          (z.session p.session).e = p.seq + 1 ∧ z.ledger = d.ledger) ∧
      ((∃ y ∈ sessionEntries p.session (inProcess p d).view, y.2.state ≠ .retired) → Answers (.sessionClose p) p s 5 [])) ∧
    (Arrives 0x03 p s →
      let r := ackWrites p.session (BitVec.ofNat 32 at') w.view
      (r.1 = [] → Replies (.ack p) p s 0 (bytesOf 4 r.2.toNat)) ∧
      (r.1 ≠ [] → SideActs (.ack p) s { w with ledger := { w.ledger with
        commits := w.ledger.commits ++ [{ writes := r.1, releases := [.reply p.port (replyBytes p 0 (bytesOf 4 r.2.toNat) (replyKey p w))] }],
        retired := w.ledger.retired + r.1.length } })) ∧
    (d.ledger.entries = [(i, e)] → e.session = p.session → e.seql = (x.lrs + 1).toNat % 2 ^ 24 → x.e = x.lrs + 2 → a = x.lrs + 1 →
      (e.state = .executed ∨ e.state = .cancelled → ackWrites p.session a d =
        ([.put i { e with state := .retired, gone := d.ledger.retired } [], .sessLrs p.session a], a)) ∧
      (e.state = .accepted ∨ e.state = .dispatched ∨ e.state = .held ∨ e.state = .indeterminate →
        ackWrites p.session a d = ([], x.lrs))) ∧
    (Arrives 0x04 p s → Replies (.timeQuery p) p s 0 (bytesOf 8 d.ticks.toNat ++ bytesOf 8 d.ticks.toNat ++
      [BitVec.ofNat 8 (cond (d.joined .a) 1 0 + cond (d.joined .b) 2 0 + cond d.syncOk 4 0)])) ∧
    (Arrives 0x1C p s → permitted p w = true →
      let h := d.copies[k]
      Replies (.cabStatus p) p s 0 (bytesOf 4 h.state.toNat ++ bytesOf 4 h.err.toNat ++ bytesOf 4 h.framecnt.toNat ++
        bytesOf 4 h.framestat.toNat ++ bytesOf 4 h.tripsrc.toNat ++ bytesOf 4 h.banksel.toNat)) ∧
    (Arrives 0x35 p s → permitted p w = true →
      exec (.reportPull p) s = .next { s with
        chip := (settleCab k pulled.1 { s.chip with side := w }).onSide (answerPacket p 0 pulled.2) }) ∧
    (∀ y old rest, assocGet p.ring (s.cab k).repRings = some y → y.reports = old ++ rest →
      (∀ o ∈ old, 0 < (BitVec.ofNat 32 at' - o.rseq).toNat ∧ (BitVec.ofNat 32 at' - o.rseq).toNat < 2 ^ 31) →
      (∀ o ∈ rest.head?, ¬ (0 < (BitVec.ofNat 32 at' - o.rseq).toNat ∧ (BitVec.ofNat 32 at' - o.rseq).toNat < 2 ^ 31)) →
      ∃ z, assocGet p.ring pulled.1.repRings = some z ∧ z.reports = rest ∧ (rest = [] → pulled.2 = [])) ∧
    (Arrives 0x50 p s → permitted p w = true → p.cab ≤ 15 →
      ((s.cab k).mode = .parked → Replies (.regRead p) p s 5 []) ∧
      ((s.cab k).mode ≠ .parked → at' % 4 = 0 → 0x40000 ≤ at' → at' + 4 * words ≤ 0x4B000 →
        Replies (.regRead p) p s 0 ((List.range words).flatMap (fun j => bytesOf 4 (regPeek (at' + 4 * j) (s.cab k)).toNat))) ∧
      ((s.cab k).mode ≠ .parked → at' % 4 ≠ 0 ∨ at' < 0x40000 ∨ 0x4B000 < at' + 4 * words → Replies (.regRead p) p s 9 [])) ∧
    (Arrives 0x71 p s → permitted p w = true →
      Replies (.healthRead p) p s 0 ((List.range (field p 1 1)).flatMap (fun j =>
        bytesOf 4 (d.health.sel[Fin.ofNat 32 (slot + j)]).toNat ++ bytesOf 8 (d.health.count[Fin.ofNat 32 (slot + j)])))) ∧
    (Arrives 0x72 p s → permitted p w = true → Replies (.ledgerQuery p) p s 0 (queryReply p.payload w.view))

/-- The commands that move a cabinet through its states, and those that write its registers (01 R32, R35; 02 R73, R87; 09 R331; 16 R521,
R544; 19 R606, R613, R615). -/
def Obligations.LifecycleCommands : Prop :=
  ∀ (p : Packet) (s : State),
    let k := cabOf p.cab
    let c := s.cab k
    let cycles := if c.pwm.triangle then c.frame.flen / 2 * 2 else c.frame.flen
    let budget := windowHi c + c.frame.deadline + 48 ≤ if c.frame.dual then cycles / 2 else cycles
    let refused (i : Instr) (st : Nat) := CabinetGets i p s (fun t => told c t st [])
    let calibrates := { c.cnv with spst := if c.cnv.spareBusy then .waiting else .calibrating, matchN := 0, matchSum := 0 }
    let byte : List Byte := [BitVec.ofNat 8 (bankselWord c.bank).toNat]
    let b := c.bank
    let toggled := { b with req := !b.active }
    let waits := c.frame.running = true ∨ c.frame.inRun = true ∨ b.staging = true ∨ b.atBoundary = true ∨
      (c.clocksRun = false ∧ c.mode ≠ .test)
    let n := field p 0 2
    let pairs := (List.range n).map (fun j => (field p (2 + 8 * j) 4, BitVec.ofNat 32 (field p (6 + 8 * j) 4)))
    let at' := field p 0 4
    let m := (p.payload.length - 4) / 4
    let word (j : Nat) : Word := BitVec.ofNat 32 (field p (4 + 4 * j) 4)
    (Due 0x13 p s →
      (c.mode = .loaded → budget → c.cnv.calDone = true → CabinetGets (.cabArm p) p s (pended c .arm)) ∧
      (c.mode = .loaded → budget → c.cnv.calDone = false →
        CabinetGets (.cabArm p) p s (fun t => told { c with armWait := true } t 12 [])) ∧
      (c.mode = .loaded → ¬ budget → refused (.cabArm p) 9) ∧
      (c.mode = .running → CabinetGets (.cabArm p) p s (pended c .rearm)) ∧
      (c.mode ≠ .loaded → c.mode ≠ .running → refused (.cabArm p) 5)) ∧
    (Due 0x14 p s →
      (c.mode = .armed → CabinetGets (.cabRun p) p s (pended c .run)) ∧ (c.mode ≠ .armed → refused (.cabRun p) 5)) ∧
    (Due 0x15 p s →
      (c.mode = .armed ∨ c.mode = .running → CabinetGets (.cabPark p) p s (pended c .park)) ∧
      (c.mode = .loaded → CabinetLeft (.cabPark p) p s (fun t x =>
        x.mode = .parked ∧ x.park = .entering ∧ x.parkLoaded = true ∧ x.parkTicket = some t ∧ x.frame.running = false)) ∧
      (c.mode ≠ .loaded → c.mode ≠ .armed → c.mode ≠ .running → refused (.cabPark p) 5)) ∧
    (Due 0x16 p s →
      (c.mode = .parked → c.wakeTicket = none →
        (c.park = .stopped → CabinetGets (.cabWake p) p s (fun t => { c with wakeTicket := some t, park := .waking })) ∧
        (c.park = .entering → CabinetGets (.cabWake p) p s (fun t => { c with wakeTicket := some t }))) ∧
      (c.mode ≠ .parked → refused (.cabWake p) 5)) ∧
    (Due 0x17 p s → CabinetLeft (.cabReset p) p s (fun _ x =>
      x.mode = .empty ∧ x.pend = [] ∧ x.tmr.count = s.chip.side.ticks ∧ x.frame.running = false ∧ x.core.psw = ({} : Core).psw ∧
      x.mems = c.mems ∧ x.ordRings = c.ordRings ∧ x.pipe.stopped = ({} : Pipe).stopped)) ∧
    (Due 0x1A p s →
      (c.mode = .tripped → c.err.getLsbD 16 = false → tripAct c = 0 → c.deftest = false →
        CabinetLeft (.cabTripClear p) p s (fun _ x =>
          x.latch = false → x.mode = .loaded ∧ x.err = 0 ∧ x.pwm.tripsrc = 0 ∧ x.pwm.first = 15)) ∧
      (c.mode = .tripped → c.err.getLsbD 16 = false → tripAct c = 0 → c.deftest = true →
        CabinetLeft (.cabTripClear p) p s (fun _ x => x.latch = false → x.mode = .test ∧ x.deftest = false ∧ x.testParked = false)) ∧
      (c.mode = .tripped → c.err.getLsbD 16 = true ∨ tripAct c ≠ 0 → refused (.cabTripClear p) 9) ∧
      (c.mode ≠ .tripped → refused (.cabTripClear p) 5)) ∧
    (Due 0x1B p s →
      (c.mode = .loaded → CabinetLeft (.cabTest p) p s (fun t x =>
        x.latch = false → x.mode = .test ∧ x.testTicket = some t ∧ x.testParked = false)) ∧
      (c.mode = .parked → c.park = .stopped → c.frame.running = false → CabinetLeft (.cabTest p) p s (fun t x =>
        x.mode = .test ∧ x.testTicket = some t ∧ x.testParked = true)) ∧
      (c.mode = .parked → c.park = .entering → c.testTicket = none →
        CabinetGets (.cabTest p) p s (fun t => { c with testTicket := some t, deftest := true })) ∧
      (c.mode = .armed ∨ c.mode = .running ∨ c.mode = .tripped →
        CabinetGets (.cabTest p) p s (fun t => told { c with deftest := true, cnv := calibrates } t 12 [])) ∧
      (c.mode = .empty ∨ c.mode = .test → refused (.cabTest p) 5)) ∧
    (Due 0x19 p s →
      (b.req ≠ b.active → CabinetGets (.cabBankSwap p) p s (fun t => told c t 0 byte)) ∧
      (b.req = b.active → (if b.active then b.validA else b.validB) = false → refused (.cabBankSwap p) 9) ∧
      (b.req = b.active → (if b.active then b.validA else b.validB) = true → c.mode ≠ .parked →
        (waits → CabinetGets (.cabBankSwap p) p s (fun t => { c with bank := toggled, swapTickets := c.swapTickets ++ [t] })) ∧
        (¬ waits → CabinetLeft (.cabBankSwap p) p s (fun _ x => x.bank.active = !b.active ∧ x.swapTickets = []))) ∧
      (b.req = b.active → (if b.active then b.validA else b.validB) = true → c.mode = .parked →
        CabinetGets (.cabBankSwap p) p s (fun t =>
          told { c with bank := toggled } t 0 [BitVec.ofNat 8 (bankselWord toggled).toNat]))) ∧
    (c.mode = .parked → (Due 0x70 p s → refused (.perfConfig p) 5) ∧ (Due 0x51 p s → p.cab ≤ 15 → refused (.regWrite p) 5)) ∧
    (Due 0x70 p s → c.mode ≠ .parked →
      ((∀ w ∈ pairs, w.1 % 4 = 0 ∧ w.1 < 0x1000) →
        (c.frame.running = true → CabinetGets (.perfConfig p) p s (fun t => { c with perfWait := c.perfWait ++ [(t, pairs)] })) ∧
        (c.frame.running = false → c.perfWait = [] → CabinetGets (.perfConfig p) p s (fun t =>
          { told (pairs.foldl (fun x w => prfWrite w.1 w.2 x) { c with perfWait := [(t, pairs)] }) t 0 [] with perfWait := [] }))) ∧
      ((∃ w ∈ pairs, w.1 % 4 ≠ 0 ∨ 0x1000 ≤ w.1) → Answers (.perfConfig p) p s 9 [])) ∧
    (Due 0x51 p s → p.cab ≤ 15 → c.mode ≠ .parked →
      (at' % 4 = 0 → 0x40000 ≤ at' → at' + 4 * m ≤ 0x4B000 →
        ((∀ j, j < m → regTouchesP2 (at' + 4 * j) (word j) c = false) → CabinetGets (.regWrite p) p s (fun t =>
          told ((List.range m).foldl (fun x j => regWrite .machine (at' + 4 * j) (word j) x) c) t 0 (bytesOf 2 m))) ∧
        ((∃ j, j < m ∧ regTouchesP2 (at' + 4 * j) (word j) c = true) →
          CabinetGets (.regWrite p) p s (fun t => told c t 9 (bytesOf 2 0)))) ∧
      (at' % 4 ≠ 0 ∨ at' < 0x40000 ∨ 0x4B000 < at' + 4 * m → Answers (.regWrite p) p s 9 (bytesOf 2 0))) ∧
    (Due 0x51 p s → p.cab = 0xFF → at' % 4 = 0 → at' + 4 * m ≤ 0x3000 →
      (∀ j, j < m → sideTouchesP2 (at' + 4 * j) (word j) { s.chip with side := inProcess p s.chip.side } = false) →
        Changes (.regWrite p) p s 0 (bytesOf 2 m) (fun x => sideSetAll at' ((List.range m).map word) x))

/-- Image loads of a cabinet (16 R523; 18 R592, R593; 03 R100). -/
def Obligations.ImageLoads : Prop :=
  ∀ (p : Packet) (l : Load) (img : Image) (bank : Bool) (evb kind addr : Nat) (data : List Byte) (z : Cabinet) (s : State),
    let k := cabOf p.cab
    let c := s.cab k
    let d := s.chip.side
    let idle : Prop := c.mode = .empty ∨ c.mode = .loaded
    let length := field p 0 4
    let source := field p 8 1
    let u := drainAll c
    let opened (bs : List Byte) (t : Nat) := told { unstaged u with
      load := some { source := source, length := length, crc := field p 4 4, bytes := bs }
      pipe := { u.pipe with stopped := true, hold := .none, fault := none } } t 0 []
    let got := l.bytes ++ p.payload.drop 4
    let closed := { c with load := none }
    let r := loadSections img.secs closed
    let y := enterLoaded img z
    let put (n : Nat) := (loadSection ⟨n, addr, data⟩ z).1
    let word (j : Nat) : BitVec 16 := physSyl (BitVec.ofNat 14 (natOfBytes ((data.drop (2 * j)).take 2)))
    (Due 0x10 p s →
      let refused (st : Nat) := CabinetGets (.cabLoadBegin p) p s (fun t => told c t st [])
      (¬ idle → refused 5) ∧
      (idle → 2 < source → refused 9) ∧
      (idle → source ≤ 2 → c.load ≠ none → refused 5) ∧
      (idle → source = 0 → c.load = none → CabinetGets (.cabLoadBegin p) p s (opened [])) ∧
      (idle → source = 1 ∨ source = 2 → c.load = none →
        (∀ n, d.store.verified[Fin.ofNat 4 (source + 1)] = some n → (∀ g, d.store.stage = some g → g.slot ≠ source + 1) →
          CabinetGets (.cabLoadBegin p) p s (opened ((List.range n).map (fun i => storeByte ((source + 1) * 0x100000 + i) d.store)))) ∧
        (d.store.verified[Fin.ofNat 4 (source + 1)] = none ∨ (∃ g, d.store.stage = some g ∧ g.slot = source + 1) → refused 5))) ∧
    (Due 0x11 p s →
      let refused (data : List Byte) := CabinetGets (.cabLoadData p) p s (fun t => told c t 5 data)
      (¬ idle ∨ c.load = none → refused []) ∧
      (idle → c.load = some l → l.source ≠ 0 → refused []) ∧
      (idle → c.load = some l → l.source = 0 → length ≠ l.bytes.length → refused (bytesOf 4 l.bytes.length)) ∧
      (idle → c.load = some l → l.source = 0 → length = l.bytes.length →
        CabinetGets (.cabLoadData p) p s (fun t => told { c with load := some { l with bytes := got } } t 0 (bytesOf 4 got.length)))) ∧
    (Due 0x12 p s →
      let fails (x : Cabinet) (reason slot : Nat) :=
        CabinetGets (.cabLoadEnd p) p s (fun t => told x t 9 [BitVec.ofNat 8 reason, BitVec.ofNat 8 slot])
      (¬ idle ∨ c.load = none → CabinetGets (.cabLoadEnd p) p s (fun t => told c t 5 [])) ∧
      (idle → c.load = some l →
        ((l.source = 0 ∧ l.bytes.length ≠ l.length) ∨ parseImage l.bytes = none → fails closed 4 0) ∧
        (l.source = 0 → l.bytes.length = l.length → parseImage l.bytes ≠ none → crc32 l.bytes ≠ l.crc → fails closed 1 0) ∧
        (parseImage l.bytes = some img → (l.source = 0 → l.bytes.length = l.length ∧ crc32 l.bytes = l.crc) →
          (∀ x ∈ img.secs, sectionReadback x r.1 = true) ∧
          (∀ n, r.2 = some n → fails r.1 3 n) ∧
          (r.2 = none → CabinetGets (.cabLoadEnd p) p s (fun t => told (enterLoaded img r.1) t 0 []))))) ∧
    (kind = (if bank then 3 else 2) → evb < 2 ^ 32 → data.length % 2 = 0 → addr + data.length / 2 ≤ 0x4000 →
      parseImage (imageBytes bank evb kind addr data) = some ⟨BitVec.ofNat 32 evb, bank, [⟨kind, addr, data⟩]⟩) ∧
    (y.core.psw = 0x3000 ∧ y.core.evb = img.evb &&& 0x1FF00 ∧
      y.core.pc = BitVec.ofNat 32 (memRead z (img.evb &&& 0x1FF00).toNat 4) ∧
      y.mems = z.mems ∧ y.pipe.stopped = false ∧ y.pipe.cache = [] ∧ y.bank.active = img.bank ∧ y.bank.req = img.bank ∧
      (y.bank.validA = true ↔ ∃ x ∈ img.secs, x.kind = 2) ∧ (y.bank.validB = true ↔ ∃ x ∈ img.secs, x.kind = 3) ∧
      y.cnv.initCal = true ∧ y.cnv.calDone = false ∧ y.mode = if y.latch then .tripped else .loaded) ∧
    (data.length % 2 = 0 → addr + data.length / 2 ≤ 0x20000 → ∀ j, j < data.length / 2 →
      assocGet (addr + j) (put 1).mems.prog = some (word j)) ∧
    (data.length % 2 = 0 → addr + data.length / 2 ≤ 0x4000 → ∀ j, j < data.length / 2 →
      assocGet (0x20000 + addr + j) (put 2).mems.bankA = some (word j) ∧ assocGet (0x20000 + addr + j) (put 3).mems.bankB = some (word j)) ∧
    (∀ n, (n = 4 ∧ addr + data.length ≤ 0x20000) ∨ (n = 5 ∧ 0x20000 ≤ addr ∧ addr + data.length ≤ 0x21F00) →
      data.length % 4 = 0 → ∀ a, memByte (put n) a = if addr ≤ a ∧ a < addr + data.length then data.getD (a - addr) 0 else memByte z a)

/-- Stages into a loop-store bank and into the image store, and the commit of firmware (16 R522, R525; 18 R589, R591). -/
def Obligations.Stages : Prop :=
  ∀ (p : Packet) (g : Stage) (f : FwStage) (s : State),
    let k := cabOf p.cab
    let c := s.cab k
    let b := c.bank
    let d := s.chip.side
    let st := d.store
    let at' := field p 4 4
    let refused (i : Instr) (st : Nat) (data : List Byte) := CabinetGets i p s (fun t => told c t st data)
    let n := (p.payload.length - 8) / 2
    let syl (j : Nat) : BitVec 16 := BitVec.ofNat 16 (field p (8 + 2 * j) 2)
    let syls := g.syls ++ (List.range n).map syl
    let inactive (x : Cabinet) := if b.active then x.mems.bankA else x.mems.bankB
    let sum := crc32 (g.syls.flatMap (fun w => bytesOf 2 w.toNat))
    let target := field p 1 1
    let slot := if target = 0 then 1 - st.active else target + 1
    let bytes := f.bytes ++ p.payload.drop 8
    let from' := f.slot * 0x100000 + f.bytes.length
    let stored (st' : Store) (f : Option FwStage) (x : Side) : Side := { x with store := { st' with stage := f } }
    let closes (reason : Nat) := Changes (.fwStageClose p) p s 9 [BitVec.ofNat 8 reason] (stored st none)
    let other := 1 - st.active
    let version := Config.firmwareVersion other (slotCells other st)
    let y := { inProcess p d with store := { st with boot := other } }
    (Due 0x18 p s → c.mode = .parked →
      (Function 1 p → refused (.cabBankStageOpen p) 5 []) ∧ (Function 2 p → refused (.cabBankStageData p) 5 []) ∧
      (Function 3 p → refused (.cabBankStageClose p) 5 []) ∧ (Function 4 p → refused (.cabBankStageAbort p) 5 [])) ∧
    (Due 0x18 p s → c.mode ≠ .parked → field p 1 3 ≠ 0 →
      (Function 1 p → refused (.cabBankStageOpen p) 9 []) ∧ (Function 2 p → refused (.cabBankStageData p) 9 []) ∧
      (Function 3 p → refused (.cabBankStageClose p) 9 []) ∧ (Function 4 p → refused (.cabBankStageAbort p) 9 [])) ∧
    (Due 0x18 p s → field p 1 3 = 0 → c.mode ≠ .parked →
      (Function 1 p →
        (at' = 0 ∨ 16384 < at' → refused (.cabBankStageOpen p) 9 []) ∧
        (1 ≤ at' → at' ≤ 16384 → b.req ≠ b.active → refused (.cabBankStageOpen p) 9 []) ∧
        (1 ≤ at' → at' ≤ 16384 → b.req = b.active →
          (c.stage ≠ none ∨ c.load ≠ none → refused (.cabBankStageOpen p) 5 []) ∧
          (c.stage = none → c.load = none → CabinetGets (.cabBankStageOpen p) p s (fun t => told { c with
            stage := some { length := at', crc := field p 8 4 }
            bank := { b with staging := true, validA := b.validA && !b.active, validB := b.validB && b.active } } t 0 [])))) ∧
      (c.stage = none →
        (Function 2 p → refused (.cabBankStageData p) 5 []) ∧ (Function 3 p → refused (.cabBankStageClose p) 5 []) ∧
        (Function 4 p → refused (.cabBankStageAbort p) 5 [])) ∧
      (c.stage = some g →
        (Function 2 p →
          (at' ≠ g.syls.length → refused (.cabBankStageData p) 5 (bytesOf 4 g.syls.length)) ∧
          (at' = g.syls.length → ∃ x, CabinetGets (.cabBankStageData p) p s (fun t =>
              told { x with stage := some { g with syls := syls } } t 0 (bytesOf 4 syls.length)) ∧
            x = { c with mems := x.mems, prf := x.prf, errs := x.errs } ∧ x.mems.data = c.mems.data ∧ x.mems.prog = c.mems.prog ∧
            (if b.active then x.mems.bankB = c.mems.bankB else x.mems.bankA = c.mems.bankA) ∧
            ∀ a, assocGet (0x20000 + a) (inactive x) = if at' ≤ a ∧ a < at' + n ∧ a < 0x4000
              then some (physSyl ((syl (a - at')).setWidth 14)) else assocGet (0x20000 + a) (inactive c))) ∧
        (Function 3 p →
          (g.syls.length ≠ g.length →
            CabinetGets (.cabBankStageClose p) p s (fun t => told (unstaged c) t 9 [4])) ∧
          (g.syls.length = g.length → sum ≠ g.crc →
            CabinetGets (.cabBankStageClose p) p s (fun t => told (unstaged c) t 9 [1])) ∧
          (g.syls.length = g.length → sum = g.crc → stageReadback g c = false →
            CabinetGets (.cabBankStageClose p) p s (fun t => told (unstaged c) t 9 [2])) ∧
          (g.syls.length = g.length → sum = g.crc → stageReadback g c = true →
            let z := { unstaged c with
              bank := { b with staging := false, validA := b.validA || b.active, validB := b.validB || !b.active } }
            (b.req = b.active → CabinetGets (.cabBankStageClose p) p s (fun t => told z t 0 [0])) ∧
            (b.req ≠ b.active → c.frame.running = false → c.frame.inRun = false → c.clocksRun = true → b.atBoundary = false →
              CabinetLeft (.cabBankStageClose p) p s (fun _ x => x.bank.active = b.req ∧ x.stage = none)))) ∧
        (Function 4 p → CabinetGets (.cabBankStageAbort p) p s (fun t => told (unstaged c) t 0 [])))) ∧
    (Due 0xE1 p s → 2 < target ∨ field p 2 2 ≠ 0 →
      (Function 1 p → Answers (.fwStageOpen p) p s 9 []) ∧ (Function 2 p → Answers (.fwStageData p) p s 9 []) ∧
      (Function 3 p → Answers (.fwStageClose p) p s 9 []) ∧ (Function 4 p → Answers (.fwStageAbort p) p s 9 [])) ∧
    (Due 0xE1 p s → target ≤ 2 → field p 2 2 = 0 →
      (Function 1 p →
        (at' = 0 ∨ 0x100000 < at' → Answers (.fwStageOpen p) p s 9 []) ∧
        (1 ≤ at' → at' ≤ 0x100000 → st.stage ≠ none ∨ slotRead slot s.chip = true → Answers (.fwStageOpen p) p s 5 []) ∧
        (1 ≤ at' → at' ≤ 0x100000 → st.stage = none → slotRead slot s.chip = false →
          Changes (.fwStageOpen p) p s 0 [] (stored { st with verified := st.verified.set (Fin.ofNat 4 slot) none }
            (some { slot := slot, length := at', crc := field p 8 4 })))) ∧
      (st.stage = none ∨ (∃ h, st.stage = some h ∧ h.slot ≠ slot) →
        (Function 2 p → Answers (.fwStageData p) p s 5 []) ∧ (Function 3 p → Answers (.fwStageClose p) p s 5 []) ∧
        (Function 4 p → Answers (.fwStageAbort p) p s 5 [])) ∧
      (st.stage = some f → f.slot = slot →
        (Function 2 p →
          (at' ≠ f.bytes.length → Answers (.fwStageData p) p s 5 (bytesOf 4 f.bytes.length)) ∧
          (at' = f.bytes.length → f.bytes.length ≤ 0x100000 → ∃ st' : Store,
            Changes (.fwStageData p) p s 0 (bytesOf 4 bytes.length) (stored st' (some { f with bytes := bytes })) ∧
            st' = { st with bytes := st'.bytes } ∧
            ∀ a, storeByte a st' = if from' ≤ a ∧ a < from' + (p.payload.length - 8) ∧ a < (f.slot + 1) * 0x100000
              then p.payload.getD (8 + (a - from')) 0 else storeByte a st)) ∧
        (Function 3 p →
          (f.bytes.length ≠ f.length → closes 4) ∧
          (f.bytes.length = f.length → crc32 f.bytes ≠ f.crc → closes 1) ∧
          (f.bytes.length = f.length → crc32 f.bytes = f.crc →
            ((∃ i, i < f.length ∧ storeByte (f.slot * 0x100000 + i) st ≠ f.bytes.getD i 0) → closes 2) ∧
            ((∀ i, i < f.length → storeByte (f.slot * 0x100000 + i) st = f.bytes.getD i 0) →
              if f.slot < 2 ∧ slotSigned f.slot st = false then closes 3
              else Changes (.fwStageClose p) p s 0 [0]
                (stored { st with verified := st.verified.set (Fin.ofNat 4 f.slot) (some f.length) } none)))) ∧
        (Function 4 p → Changes (.fwStageAbort p) p s 0 [] (stored st none)))) ∧
    (Due 0xE2 p s →
      (st.verified[Fin.ofNat 4 other] = none → Answers (.fwCommit p) p s 5 []) ∧
      (st.verified[Fin.ofNat 4 other] ≠ none →
        if field p 0 4 = version then
          SideActs (.fwCommit p) s (journal p (headOf p .executed 0 []) 0
            [.reply p.port (replyBytes p 0 [] (replyKey p y)), .done p.session, .reset true (p.port == .bench)] y)
        else Answers (.fwCommit p) p s 9 []))

/-- Orders: journaled, cancelled, resumed, dispatched (16 R526 to R532; 17 R546 to R548, R555, R568), and the configuration of order and
report rings (16 R527). -/
def Obligations.Orders : Prop :=
  ∀ (p : Packet) (i : Nat) (e f : Entry) (rest : List (Nat × Entry)) (k : Fin 16) (r : Fin 128) (tag : Word) (s : State),
    let n := cabOf p.cab
    let c := s.cab n
    let d := s.chip.side
    let w := inProcess p d
    let mask := field p 0 1
    let size := if p.opc = 0x30 then 8 else field p 2 2
    let blocked : Prop := ∃ x ∈ ringOrders p.cab p.ring w.view, x.2.state = .held ∨ x.2.state = .indeterminate
    let accepted (i : Instr) (st : Nat) := ∃ (j : Nat) (gen : Nat) (taken : List Nat) (y : Side), SideActs i s y ∧
      y.ledger.commits = d.ledger.commits ++ [{
        writes := [.put j { headOf p .accepted st [] with run := (size - 8 + 15) / 16, gen := gen, place := d.ledger.placed } taken,
          .sessE p.session (p.seq + 1)]
        releases := [.reply p.port (replyBytes p st [] (replyKey p w)), .done p.session] }]
    let puts (i : Instr) :=
      (¬ (mask ≠ 0 ∧ mask % 4 = 0 ∧ mask < 32) → Answers i p s 9 []) ∧
      (mask ≠ 0 → mask % 4 = 0 → mask < 32 →
        (¬ masked mask n d ∨ d.lost[n] = true → Answers i p s 5 []) ∧
        (masked mask n d → d.lost[n] = false → (blocked → accepted i 7) ∧ (¬ blocked → accepted i 1)))
    let kind := field p 0 1
    let depth := field p 1 1
    let configures (x : Cabinet) := exec (.ringConfig p) s = .next { s with
      chip := { s.chip.setCab n x with side := finish p 0 [] w } }
    let descriptor : RepRing := { depth := depth + 1, hold := field p 2 1 == 1, dest := field p 3 1, session := field p 4 2 }
    let live := liveOrders k r d
    let order : PortOrder := { ring := e.ring, tag := BitVec.ofNat 32 (i + e.gen * 2 ^ 19), mask := e.mask, words :=
      (List.range (e.order.length / 4)).map (fun j => BitVec.ofNat 32 (natOfBytes ((e.order.drop (4 * j)).take 4))) }
    (Due 0x30 p s → puts (.orderPut p)) ∧
    (Due 0x31 p s → puts (.orderPutLong p)) ∧
    (p.opc = 0x30 ∨ p.opc = 0x31 → p.cab ≤ 15 → mask % 4 = 0 → mask < 32 → ∀ st,
      headOf p .accepted st [] = {
        mask := mask, opc := p.opc, ring := p.ring, cab := p.cab, seql := p.seq.toNat % 2 ^ 24, state := .accepted,
        session := p.session, param := (((p.payload.drop 4).take size) ++ List.replicate 8 0).take 8,
        order := (p.payload.drop 4).take size, tag := p.tag, rstat := st }) ∧
    (∀ z, namedEntry p z = some (i, e) → (i, e) ∈ z.ledger.entries ∧ e.chip = false ∧ e.session = p.session ∧ e.cab = p.cab ∧
      e.ring = p.ring ∧ fullSeq (z.session p.session).e e.seql = BitVec.ofNat 32 (field p 0 4)) ∧
    (Due 0x32 p s →
      (namedEntry p w.view = none → Answers (.orderCancel p) p s 5 [0]) ∧
      (namedEntry p w.view = some (i, e) →
        (e.state = .accepted ∨ e.state = .held ∨ e.state = .indeterminate →
          Changes (.orderCancel p) p s 0 [6] (committing [.put i { e with state := .cancelled, hrsn := 0 } []] [])) ∧
        (e.state ≠ .accepted → e.state ≠ .held → e.state ≠ .indeterminate →
          Answers (.orderCancel p) p s 5 [BitVec.ofNat 8 e.state.code]))) ∧
    (Due 0x33 p s →
      (namedEntry p w.view = none → Answers (.orderResume p) p s 5 [0]) ∧
      (namedEntry p w.view = some (i, e) →
        (e.state = .held ∨ e.state = .indeterminate →
          Changes (.orderResume p) p s 0 [1] (committing [.put i { e with state := .accepted, hrsn := 0 } []] [])) ∧
        (e.state ≠ .held → e.state ≠ .indeterminate → Answers (.orderResume p) p s 5 [BitVec.ofNat 8 e.state.code]))) ∧
    (Due 0x34 p s →
      (depth < 15 ∨ (kind ≠ 1 ∧ kind ≠ 2) ∨ (kind = 1 ∧ field p 2 4 ≠ 0) ∨
        (kind = 2 ∧ (1 < field p 2 1 ∨ (10240 ≤ field p 4 2 ∧ field p 4 2 ≠ 0xFFFF))) → Answers (.ringConfig p) p s 9 []) ∧
      (15 ≤ depth → kind = 1 → field p 2 4 = 0 →
        (ringOrders p.cab p.ring w.view = [] → configures { c with ordRings := assocPut p.ring (depth + 1) c.ordRings }) ∧
        (ringOrders p.cab p.ring w.view ≠ [] → Answers (.ringConfig p) p s 5 [])) ∧
      (15 ≤ depth → kind = 2 → field p 2 1 ≤ 1 → field p 3 1 ≤ 0xF9 → field p 4 2 < 10240 ∨ field p 4 2 = 0xFFFF →
        ((∀ x, assocGet p.ring c.repRings = some x → x.reports = []) →
          configures { c with repRings := assocPut p.ring descriptor c.repRings }) ∧
        ((∃ x, assocGet p.ring c.repRings = some x ∧ x.reports ≠ []) → Answers (.ringConfig p) p s 5 []))) ∧
    (d.serving = true →
      (live = (i, e) :: rest → e.state = .accepted →
        (masked e.mask k d → (∀ x ∈ rest, x.2.state ≠ .dispatched) → SideActs (.orderDispatch k r) s
          (committing [.put i { e with state := .dispatched } []] [.deliver k order] d)) ∧
        (¬ masked e.mask k d → SideActs (.orderDispatch k r) s
          (committing [.put i { e with state := .held, hrsn := 3 } []] [.notice i ((d.copies[k]).state.toNat % 8)] d))) ∧
      (live = (i, f) :: rest → f.state = .dispatched → (∀ x ∈ rest.head?, x.2.state = .accepted ∧ masked x.2.mask k d) →
        SideActs (.orderDispatch k r) s d) ∧
      (live = (i, e) :: rest → e.state = .held ∨ e.state = .indeterminate → SideActs (.orderDispatch k r) s d) ∧
      (live = [] → SideActs (.orderDispatch k r) s d)) ∧
    (d.serving = false → SideActs (.orderDispatch k r) s d) ∧
    (d.safe = none → d.reset = none → assocGet (tag.toNat % 2 ^ 19) d.view.ledger.entries = some e →
      (e.gen = tag.toNat / 2 ^ 19 → e.state = .dispatched →
        orderConfirmed k.val tag d = { d with ledger := { d.ledger with commits := d.ledger.commits ++ [{
          writes := [.put (tag.toNat % 2 ^ 19) { e with state := .executed } []], releases := [], confirms := some k.val }] } }) ∧
      (e.gen ≠ tag.toNat / 2 ^ 19 ∨ e.state ≠ .dispatched → orderConfirmed k.val tag d = d))

/-- A cabinet's port: a pop, a confirmation, a push; and the reports that leave by weighted round robin (01 R38; 16 R507, R533 to R538). -/
def Obligations.OrderPortAndReports : Prop :=
  ∀ (k : Fin 16) (ring : Fin 128) (l : Level) (tag : Word) (len : BitVec 9) (kind : BitVec 8) (o : PortOrder) (x : RepRing)
    (r : Nat) (queue : List Nat) (rep : Report) (reps : List Report) (s : State),
    let c := s.cab k
    let v := c.ord
    let w : Word := BitVec.ofNat 32 (ring.val + len.toNat * 2 ^ 8 + kind.toNat * 2 ^ 24)
    let refuses (err : Word) (f : Cabinet → Cabinet) :=
      Acts k (.ordPushWrite k l ring len kind) s (raiseErr .ord err { f c with ord := { v with acc := false, refused := true } })
    let pushed : Report :=
      { rseq := x.nextSeq, kind := kind.toNat, frame := c.frame.count, body := (List.range len.toNat).map (fun j => v.rword[Fin.ofNat 256 j]) }
    let d := s.chip.side
    let q := ringTo x.dest d
    let body := rep.body.flatMap (fun y => bytesOf 4 y.toNat)
    let bytes (vf : Byte) := [vf, BitVec.ofNat 8 rep.kind] ++ bytesOf 2 x.session ++ bytesOf 4 rep.rseq.toNat ++
      [BitVec.ofNat 8 k.val, BitVec.ofNat 8 r] ++ bytesOf 2 body.length ++ bytesOf 4 rep.frame.toNat ++ body
    let leaves (payload : List Byte) := ∃ t, exec .reportTransmit s = .next t ∧ OnlyCabinet k s t ∧
      t.chip.side = onLine q { dst := x.dest, src := (d.ring q).node, kind := 3, payload := payload } { d with wrrSent := d.wrrSent + 1 } ∧
      (t.cab k).sendQ = queue ∧ assocGet r (t.cab k).repRings = some { x with reports := reps, refusedFull := false }
    (Live k s →
      (v.avail.find? (fun y => y.ring == ring.val) = some o →
        Reaches k (.ordPopRead k ring) s (fun z =>
          z.rdata = BitVec.ofNat 32 (1 + o.words.length * 2 ^ 8) ∧ z.ord.otag = o.tag ∧ z.ord.oword = o.words ∧
          z.ord.info = BitVec.ofNat 32 (ring.val + 2 ^ 7 + o.words.length * 2 ^ 8) ∧
          z.ord.openTags = v.openTags ++ [(ring.val, o.tag)] ∧ z.ord.avail = v.avail.filter (fun y => y.ring != ring.val))) ∧
      ((∀ y ∈ v.avail, y.ring ≠ ring.val) → Acts k (.ordPopRead k ring) s { c with rdata := 0 })) ∧
    (MayWrite k l 0x49008 tag s →
      ((∃ y ∈ v.openTags, y.2 = tag) →
        Acts k (.ordDoneWrite k l tag) s { c with
          ord := { v with openTags := v.openTags.filter (fun y => y.2 != tag) }, notes := c.notes ++ [.confirm tag] }) ∧
      ((∀ y ∈ v.openTags, y.2 ≠ tag) → Acts k (.ordDoneWrite k l tag) s (raiseErr .ord 1 c))) ∧
    (MayWrite k l 0x49040 w s →
      (assocGet ring.val c.repRings = none → refuses 4 id) ∧
      (assocGet ring.val c.repRings = some x →
        (0xF0 ≤ kind.toNat ∨ 256 < len.toNat → refuses 8 id) ∧
        (kind.toNat < 0xF0 → len.toNat ≤ 256 →
          (x.depth ≤ x.reports.length →
            refuses 2 (fun c => { c with repRings := assocPut ring.val { x with refusedFull := true } c.repRings })) ∧
          (x.reports.length < x.depth →
            Reaches k (.ordPushWrite k l ring len kind) s (fun z => z.ord.acc = true ∧
              z.sendQ = (if x.hold then c.sendQ else c.sendQ ++ [ring.val]) ∧
              assocGet ring.val z.repRings = some { x with reports := x.reports ++ [pushed], nextSeq := x.nextSeq + 1 }))))) ∧
    (cabOf d.wrrCab = k → d.wrrSent < d.wrrWeight[k] → c.sendQ = r :: queue → assocGet r c.repRings = some x → x.reports = rep :: reps →
      d.joined q = true → (d.ring q).quiet = true → d.ringA.wrapped = false → d.ringB.wrapped = false →
      (x.session = 0xFFFF → leaves (bytes 0x51)) ∧
      (∀ key, x.session ≠ 0xFFFF → (d.session x.session).isOpen = true → (d.session x.session).ks = some key →
        leaves (bytes 0x41 ++ mac8 key (bytes 0x41)))) ∧
    ((∀ j : Fin 16, (s.cab j).sendQ = []) → ∃ y, SideActs .reportTransmit s y ∧
      y = { d with wrrCab := y.wrrCab, wrrSent := y.wrrSent, wrrWeight := y.wrrWeight })

/-- Two-party protection: proposing, confirming by a principal and by KEY_N, aborting, expiry (18 R575 to R587). -/
def Obligations.TwoPartyProtection : Prop :=
  ∀ (p : Packet) (q : Proposal) (x : Item) (n slot prin : Nat) (erase : Bool) (wrapped wrapKey : List Byte) (s : State),
    let d := s.chip.side
    let t := d.prot
    let keyOpen : Prop := ∃ q ∈ t.proposals, q.keyOk = true
    let count := field p 0 1
    let items := (List.range count).map (item p)
    let keyOk := field p 1 1 == 1
    let sound : Prop := field p 1 1 ≤ 1 ∧ field p 2 2 = 0 ∧ sha256 (p.payload.drop 36) = (p.payload.drop 4).take 32 ∧
      (∀ j, j < count → settingOk (item p j) ∧ field p (39 + 8 * j) 1 = 0) ∧ t.proposals.length < 8 ∧ ¬ (keyOk = true ∧ keyOpen)
    let flags := field p 2 1
    let key := p.payload.drop 36
    let byKey := flags / 2 % 2 == 1
    let soundKey : Prop := field p 0 1 ≤ 31 ∧ field p 1 1 ≤ 31 ∧ flags ≤ 3 ∧ field p 3 1 = 0 ∧ sha256 key = (p.payload.drop 4).take 32 ∧
      (flags % 2 = 1 → ∀ b ∈ key, b = 0) ∧ t.proposals.length < 8 ∧ ¬ (byKey = true ∧ keyOpen)
    let install : Change := .key (field p 0 1) (field p 1 1) (flags % 2 == 1) key ((slotKey (d.session p.session).slot d).getD [])
    let number := field p 0 4
    let isOpen : Prop := t.proposals.find? (fun q => q.number == number) = some q
    let second : Prop := (d.session p.session).prin ≠ q.prin
    let right : Prop := p.payload.drop 4 = q.digest ∧ changeOk q.change s.chip = true
    let applied (c : Change) (out : Nat) (d : Side) : Side :=
      closing q.number out (match c with
        | .items [x] => if x.code = 5 then { d with prot := { d.prot with perm := d.prot.perm.set (Fin.ofNat 32 x.idx) x.value } }
            else if x.code = 6 then { d with prot := { d.prot with plist := x.value } }
            else { d with prot := { d.prot with pcfg := x.value } }
        | .key slot prin erase wrapped wrapKey =>
          let made : KeySlot := if erase then {} else { key := (keyUnwrap wrapKey wrapped).getD [], prin := prin, full := true }
          let lose (x : Session) : Session := if x.isOpen && x.slot == slot then { x with ks := none } else x
          { d with prot := { d.prot with slots := d.prot.slots.set (Fin.ofNat 32 slot) made },
                   sessions := d.sessions.map (fun x => (x.1, lose x.2)) }
        | _ => d)
    let c := s.cab (cabOf x.cab)
    let address := if x.code = 1 then 0x41100 + 16 * x.idx else if x.code = 2 then 0x42100 else if x.code = 3 then 0x40014 else 0x50007
    let takes (y : Cabinet) : Prop :=
      (x.code = 1 → x.idx ≤ 7 → y.cmpr.cfg[Fin.ofNat 8 x.idx] = x.value) ∧ (x.code = 2 → y.pwm.safe = x.value &&& 0xF1FFFFFF) ∧
      (x.code = 3 → y.frame.deadline = x.value.toNat % 2 ^ 10 ∧ y.frame.fallback = x.value.getLsbD 12 ∧
        y.frame.ovtrip = x.value.getLsbD 13) ∧
      (x.code = 4 → y.wen = x.value.getLsbD 0)
    let commits (i : Instr) (out : Nat) (done : (Side → Side) → Prop) : Prop :=
      ((q.change = .items [x] ∧ 5 ≤ x.code ∧ x.code ≤ 7) ∨ q.change = .key slot prin erase wrapped wrapKey →
        done (applied q.change out)) ∧
      (q.change = .items [x] → 1 ≤ x.code → x.code ≤ 4 → x.cab ≤ 15 →
        ∃ u, exec i s = .next u ∧ OnlyCabinet (cabOf x.cab) s u ∧ u.chip.side.prot.prop = q.number ∧ u.chip.side.prot.out = out ∧
          u.chip.side.prot.proposals = t.proposals.filter (fun y => y.number != q.number) ∧
          (c.frame.running = true → (u.cab (cabOf x.cab)).latch = c.latch → (u.cab (cabOf x.cab)).protWait = c.protWait ++ [(address, x.value)]) ∧
          (c.frame.running = false → c.protWait = [] →
            (u.cab (cabOf x.cab)).protWait = [] ∧ takes (u.cab (cabOf x.cab))))
    (Due 0x60 p s →
      (sound → Changes (.protectPropose p) p s 13 (bytesOf 4 t.next) (proposed p keyOk (.items items))) ∧
      (¬ sound → Answers (.protectPropose p) p s 9 [])) ∧
    (Due 0x63 p s →
      (soundKey → Changes (.keyInstall p) p s 13 (bytesOf 4 t.next) (proposed p byKey install)) ∧
      (¬ soundKey → Answers (.keyInstall p) p s 9 [])) ∧
    (Due 0x62 p s →
      (isOpen → Changes (.protectAbort p) p s 0 [] (closing number 4)) ∧
      ((∀ q ∈ t.proposals, q.number ≠ number) → Answers (.protectAbort p) p s 5 [])) ∧
    (Due 0x61 p s →
      ((∀ q ∈ t.proposals, q.number ≠ number) → Answers (.protectConfirm p) p s (if number ∈ t.expired then 14 else 5) []) ∧
      (isOpen → ¬ second → Answers (.protectConfirm p) p s 9 []) ∧
      (isOpen → second → ¬ right → Changes (.protectConfirm p) p s 9 [] (closing number 5)) ∧
      (isOpen → second → right → t.waits = [] → commits (.protectConfirm p) 1 (Changes (.protectConfirm p) p s 0 []))) ∧
    (t.pcfg.getLsbD 0 = true → d.keyN = false → t.proposals.find? (fun q => q.keyOk && q.fallen) = some q →
      (changeOk q.change s.chip = true → t.waits = [] → commits .keyNConfirm 2 (fun f => SideActs .keyNConfirm s (f d))) ∧
      (changeOk q.change s.chip = false → SideActs .keyNConfirm s (closing q.number 5 d))) ∧
    (t.pcfg.getLsbD 0 = false ∨ d.keyN = true ∨ (∀ q ∈ t.proposals, q.keyOk = false ∨ q.fallen = false) →
      exec .keyNConfirm s = .next s) ∧
    SideActs .keyNFall s { d with keyN := false, prot := { t with proposals := t.proposals.map (fun q => { q with fallen := true }) } } ∧
    ((∃ q ∈ t.proposals, q.number = n) → SideActs (.confirmationWindowExpiry n) s (closing n 3 d)) ∧
    ((∀ q ∈ t.proposals, q.number ≠ n) → SideActs (.confirmationWindowExpiry n) s d)

/-- The commit engine, the recovery scan and CHIP_RESET (16 R522; 17 R551 to R554, R562, R564, R566; 19 R600). -/
def Obligations.LedgerCommits : Prop :=
  ∀ (p : Packet) (retries i n : Nat) (e : Entry) (v : Word) (m : Commit) (ms : List Commit) (k : Fin 16) (o : PortOrder) (port : Port)
    (bytes : List Byte) (bad : List Nat) (s : State),
    let d := s.chip.side
    let w := inProcess p d
    let read := countHealth 0x1A none retries d
    let front (st : CommitStage) : Side :=
      { read with ledger := { d.ledger with commits := { m with stage := st } :: ms } }
    let entries := m.writes.foldl (fun a y => match y with | .put _ e _ => a + 1 + e.run | _ => a) 0
    let complete : Side := countHealth 0x19 none entries (countHealth 0x18 none 1
      (applyWrites m.writes { read with ledger := { d.ledger with commits := ms } }))
    let y := applyWrites [.put i e [], .sessE n v, .sessLrs n (v - 1)] d
    let marked := d.ledger.commits.filter (fun c => c.stage == .marked)
    let base := marked.foldl (fun t c => applyWrites c.writes t) { d with ledger := { d.ledger with commits := [] } }
    let reset (e : Entry) : Entry := if e.state = .accepted then { e with state := .held, hrsn := 1 }
      else if e.state = .dispatched then { e with state := .indeterminate, hrsn := 1 } else e
    let cause := match d.rstSrc with
      | .powerOn => 0 | .resetN => if d.rstSafe.isSome then 4 else 1 | .watchdog => 2 | .chipReset => 3 | .firmware => 5
    (d.reset = none → d.booted = true → d.ledger.scan = false → d.ledger.commits = m :: ms →
      (m.stage = .waiting → SideActs (.ledgerCommit .intent retries false) s (front .intent)) ∧
      (m.stage ≠ .waiting → SideActs (.ledgerCommit .intent retries false) s read) ∧
      (m.stage = .intent → SideActs (.ledgerCommit .mark retries false) s (front .marked)) ∧
      (m.stage ≠ .intent → SideActs (.ledgerCommit .mark retries false) s read) ∧
      (m.stage ≠ .marked → SideActs (.ledgerCommit .values retries false) s read) ∧
      (m.stage = .marked → d.safe = none → d.resetAfter = none →
        (m.releases = [] → SideActs (.ledgerCommit .values retries false) s complete) ∧
        (m.releases = [.reply port bytes] → SideActs (.ledgerCommit .values retries false) s (sendReply port bytes complete)) ∧
        (m.releases = [.reply port bytes, .done n] → (complete.session n).window = [] → (complete.session n).again = [] →
          SideActs (.ledgerCommit .values retries false) s
            ((sendReply port bytes complete).onSession n (fun x => { x with busy := false }))) ∧
        (m.releases = [.deliver k o] → exec (.ledgerCommit .values retries false) s = .next { s with
          chip := { s.chip.setCab k { s.cab k with ord := { (s.cab k).ord with delivered := (s.cab k).ord.delivered ++ [o] } } with
            side := complete } }))) ∧
    (assocGet i y.ledger.entries = some e ∧ (∀ j, j ≠ i → assocGet j y.ledger.entries = assocGet j d.ledger.entries) ∧
      (y.session n).e = v ∧ (y.session n).lrs = v - 1 ∧ ∀ j, j ≠ n → y.session j = d.session j) ∧
    (d.booted = true → d.ledger.scan = true → d.reset = none → d.bench.held = none →
      ∃ x, SideActs (.recoveryScan bad) s x ∧ x.ledger.scan = false ∧ x.ledger.commits = [] ∧ x.ledger.cause = cause ∧
        (bad = [] → x.ledger.entries = base.ledger.entries.map (fun y => (y.1, reset y.2)) ∧ x.ledger.withdrawn = base.ledger.withdrawn) ∧
        (∀ i ∈ bad, i < 524288 → i ∈ x.ledger.withdrawn) ∧
        (∀ z ∈ x.ledger.entries, ∀ i ∈ bad, i < 524288 → i ∉ d.ledger.withdrawn → ¬ (z.1 ≤ i ∧ i ≤ z.1 + z.2.run))) ∧
    (Due 0xE0 p s → SideActs (.chipReset p) s (journal p (headOf p .executed 0 []) 0
      [.reply p.port (replyBytes p 0 [] (replyKey p w)), .done p.session, .reset false (p.port == .bench)] w))

/-- A step takes the command at the front of the queue and executes it with the queue's rest. -/
def Obligations.StepTakesFront : Prop :=
  ∀ (i : Instr) (rest : List Instr) (s : State), s.pending = i :: rest → step s = exec i { s with pending := rest }

/-- With no command waiting one cycle of CCLK passes: ring time, the times of the rings, the carrier position, the time base and the drawer
clock of each cabinet whose clocks run move on, a capture that found its queue full in the tick that ends overflows (12 R409), and
nothing else happens. The model's choice (log 40). -/
def Obligations.IdleStepPassesACycle : Prop :=
  ∀ s : State, s.pending = [] →
    (s.chip.side.reset ≠ none → step s = .next s) ∧
    (s.chip.side.reset = none → ∃ t, step s = .next t ∧ t.pending = [] ∧
      t.chip.side = { s.chip.side with
        time := s.chip.side.time + (32768 * (1000000 + s.chip.side.rate)).toNat, usedAge := min (s.chip.side.usedAge + 1) 960000
        ringA := t.chip.side.ringA, ringB := t.chip.side.ringB } ∧
      (∀ r : RingId,
        let e := s.chip.side.ring r
        t.chip.side.ring r = { e with
          syncAge := min (e.syncAge + 1) 960000, window := e.window - 1, rest := e.rest - 1
          unheard := if e.rest = 0 then min (e.unheard + 1) 2560000 else 0
          steady := if e.inFault = true ∨ e.lastRxOk = false then 0 else min (e.steady + 1) 64000000 }) ∧
      ∀ k : Fin 16,
        let c := s.cab k
        let d := t.cab k
        (c.clocksRun = false → d = c) ∧
        (c.clocksRun = true →
          d.frame = (if c.frame.running then { c.frame with pos := min (c.frame.pos + 1) (frameLen c - 1) }
            else { c.frame with hbCount := min (c.frame.hbCount + 1) c.frame.flen }) ∧
          d.tmr.phase = !c.tmr.phase ∧ d.tmr.count = (if c.tmr.phase then c.tmr.count + 1 else c.tmr.count) ∧
          d.tmr.ch = (if c.tmr.phase then c.tmr.ch.map CmpCh.tick else c.tmr.ch) ∧
          (∀ i : Fin 8, c.tmr.phase = true → (c.tmr.cap[i]).excess ≠ none → d.tmr.ovf.getLsbD i.val = true) ∧
          ((∀ i : Fin 8, (c.tmr.cap[i]).excess = none) ∨ c.tmr.phase = false → d.tmr.ovf = c.tmr.ovf ∧ d.errs[5] = c.errs[5]) ∧
          d.drw.phase = (c.drw.phase + 1) % 4 ∧
          d.core = c.core ∧ d.mems = c.mems ∧ d.pwm = c.pwm ∧ d.mode = c.mode ∧ d.latch = c.latch ∧
          d.cnv = { c.cnv with instant := d.cnv.instant, decided := d.cnv.decided, ahead := d.cnv.ahead } ∧
          (c.cnv.decided = true → d.cnv.instant = c.cnv.instant) ∧
          ∀ i : Fin 16, d.cmpr.move[i] = (c.cmpr.move[i]).bind (fun m => if m.left ≤ 1 then none else some { m with left := m.left - 1 })))

/-- What reset leaves, where the spec gives the value: the cabinets (00 R15; the cards of the registers), the core (03), and the sideboard
as manufactured (16 to 19). -/
def Obligations.ResetValues : Prop :=
  let d := State.reset.chip.side
  (∀ k : Fin 16,
    let c := State.reset.cab k
    c.mode = .empty ∧ c.latch = false ∧ c.pipe.stopped = true ∧ c.core.psw = 0x3000 ∧ c.core.evb = 0 ∧ c.core.msp = 0x22000 ∧
    c.core.s = Vector.replicate 4 0 ∧ c.frame.running = false ∧ c.forced = true ∧ c.tmr.count = 0 ∧ c.id = k ∧
    ∀ r ∈ ([(0x40000, 0), (0x40004, 0), (0x40010, 0xC80), (0x40014, 0x3070), (0x40018, 0), (0x4001C, 0), (0x40020, 0x7FF), (0x40024, 0),
      (0x41000, 0x3210), (0x41004, 0x200000), (0x41008, 0x830), (0x41020, 0x010803FF), (0x42000, 0), (0x42044, 0x82800280),
      (0x42048, 0x0C800140), (0x4204C, 0x2010), (0x420C0, 0), (0x42100, 0x01000000), (0x43000, 0x1000), (0x43004, 0x0818103C),
      (0x43020, 0xFFFFFFFF), (0x44004, 0x1F3F3F00), (0x44008, 0x80808080), (0x46000, 0x10), (0x47004, 0x400), (0x47008, 8)] :
        List (Nat × Word)), regPeek r.1 c = r.2) ∧
  d.booted = false ∧ d.safe = none ∧ d.ledger.entries = [] ∧ d.ledger.commits = [] ∧ d.ledger.scan = true ∧ d.ledger.quota = 0x10000 ∧
  d.sessions = [] ∧ d.node = 0xFE ∧ d.weight = Vector.replicate 16 1 ∧ d.prot.plist = 1 ∧ d.prot.pcfg = 0x501 ∧
  d.prot.perm[(0 : Fin 32)] = 0x000FFFFF ∧ (d.prot.slots[(0 : Fin 32)]).full = true ∧
  (∀ n : Fin 32, n ≠ 0 → (d.prot.slots[n]).full = false ∧ d.prot.perm[n] = 0) ∧
  d.health.sel[(0 : Fin 32)] = 1 ∧ d.health.sel[(6 : Fin 32)] = 0x20 ∧ d.health.sel[(31 : Fin 32)] = 0xFF33 ∧
  (∀ n : Fin 32, d.health.count[n] = 0) ∧ State.reset.pending = []

/-- At reset every memory is in canonical form, and each cabinet stands in the place of its number. -/
def Obligations.ResetMemoriesCanonical : Prop :=
  MemsCanonical State.reset ∧ State.reset.chip.numbered

/-- Every step keeps the memories of every cabinet in canonical form: strictly rising addresses, those of data memory and frame scratch
inside the 0x22000 bytes of 03 R104. -/
def Obligations.StepKeepsMemoriesCanonical : Prop :=
  ∀ s t : State, MemsCanonical s → step s = .next t → MemsCanonical t

/-- A command that acts on one cabinet changes no field of another (01 R17, R19). Commands of the chip and the sideboard, command packets
and STATUS_HEARTBEAT, whose commits may deliver orders to other cabinets, are not among them. -/
def Obligations.OtherCabinetsUntouched : Prop :=
  ∀ (i : Instr) (k : Fin 16) (s t : State), actsOn i = some k → exec i s = .next t →
    t.pending = s.pending ∧ ∀ j : Fin 16, j ≠ k → t.cab j = s.cab j

/-- An output is active only where its mode and reference ask for it, or where it is forced so; turn-offs come at once; the two outputs of
a pair are active together only where the pair is exempt (09 R313 to R315, R322). -/
def Obligations.OutputInterlock : Prop :=
  ∀ (c : Cabinet) (p : Fin 4),
    let q := c.pwm.pair[p]
    let x := (pairSettle p c).pwm.pair[p]
    let forced : Prop := c.latch = true ∨ c.pwm.enN = true ∨ c.pwm.rel = false
    let safe (side : Nat) : Prop := c.pwm.safe.toNat / 2 ^ (2 * (2 * p.val + side)) % 4 = 1
    let noil := c.pwm.safe.getLsbD (28 + p.val)
    let mode := q.cfg.toNat % 4
    (x.a.asks = q.ref) ∧
    (x.b.asks = if mode = 1 then false else if mode = 2 then q.ref && noil else !q.ref) ∧
    ((x.a.safe = true ↔ forced ∧ safe 0) ∧ (x.b.safe = true ↔ forced ∧ safe 1)) ∧
    (forced → (x.a.active = true → safe 0) ∧ (x.b.active = true → safe 1)) ∧
    (¬ forced → (x.a.active = true → x.a.asks = true) ∧ (x.b.active = true → x.b.asks = true)) ∧
    (x.a.active = true → x.b.active = true → noil = true ∧ mode = 2) ∧
    (∀ r : Fin 4, r ≠ p → (pairSettle p c).pwm.pair[r] = c.pwm.pair[r])
end

