-- ==== Sys2Proof/Laws/CoreDecode.lean ====
section
/-!
SUPPORT. What the decoding of the core's instructions fixes: the number of syllables of each.
-/
namespace Sys2Proof.Machine

/-- The number of syllables of an instruction: the rows that are long forms (03 R120; 04) have two. -/
def Instr.syllables (i : Instr) : Nat :=
  match i with
  | .addi .. | .andi .. | .ori .. | .cmpi .. | .adda .. | .shli .. | .shri .. | .sari .. | .rori .. | .extb .. | .extbu .. | .exth ..
  | .exthu .. | .clz .. | .cls .. | .macI .. | .msuI .. | .mac2Q .. | .msu2Q .. | .macuI .. | .add2S .. | .sub2S .. | .mul2q ..
  | .absqS .. | .negqS .. | .shlqS .. | .add2 .. | .sub2 .. | .ldW .. | .ldH .. | .ldHu .. | .ldB .. | .ldBu .. | .stW .. | .stH ..
  | .stB .. | .bccL .. | .call .. | .movh .. | .moviL .. | .fcmp .. | .fmin .. | .fmax .. | .fmadd .. | .sqrt .. | .divq .. | .fdiv ..
  | .fsqrt .. | .rem .. | .remu .. | .cxL .. | .vmac .. | .interp .. | .mtc .. | .mfc .. | .pwrite .. | .bmove .. => 2
  | _ => 1

theorem zeroAt_some {n : Nat} (w : BitVec n) (lo width : Nat) (i j : Instr) (h : zeroAt w lo width i = some j) : i = j := by
  unfold zeroAt at h; split at h
  · simpa using h
  · simp at h

theorem decodeShort_len (k : Fin 16) (w : Syl) (j : Instr) (h : decodeShort k w = some j) : Instr.syllables j = 1 := by
  unfold decodeShort decodeAlu decodeMac decodeMove decodeFloat decodeLongOp decodeLoop decodeSystem at h; dsimp only at h
  (repeat' split at h) <;>
    first
    | (unfold decodeAcc at h; (repeat' split at h) <;> first | (cases h; rfl) | cases h)
    | (unfold decodeXform at h; (repeat' split at h) <;> first | (cases h; rfl) | cases h)
    | (cases h; rfl)
    | cases h
    | (have := zeroAt_some _ _ _ _ _ h; subst this; rfl)

theorem decodeLong_len (k : Fin 16) (t : Nat) (p : BitVec 20) (j : Instr) (h : decodeLong k t p = some j) : Instr.syllables j = 2 := by
  unfold decodeLong decodeAluImm decodeExtend decodeMacLong decodePacked decodeMem decodeBranchLong decodeFloatLong
    decodeLongLong decodeVector decodeControl at h
  dsimp only at h
  (repeat' split at h) <;>
    first
    | (cases h; rfl)
    | cases h
    | (have := zeroAt_some _ _ _ _ _ h; subst this; rfl)
    | (unfold decodeShiftImm at h; have := zeroAt_some _ _ _ _ _ h; subst this; split <;> rfl)

/-- The first syllable tells how many there are. -/
theorem decodeCore_len (k : Fin 16) (w1 w2 : Syl) (j : Instr) (h : decodeCore k w1 w2 = some j) : coreLen w1 = Instr.syllables j := by
  unfold decodeCore at h; split at h
  · rename_i h1; rw [h1, decodeLong_len _ _ _ _ h]
  · rename_i h1
    rw [decodeShort_len _ _ _ h]
    unfold coreLen at h1 ⊢; split at h1
    · exact absurd rfl h1
    · rename_i h2; rw [if_neg h2]

@[simp] theorem coded_syllables (i : Instr) : Instr.syllables (coded i) = Instr.syllables i := by
  cases i <;> rfl

end Sys2Proof.Machine
end

