-- ==== Sys2Proof/Laws/Keeps.lean ====
section
/-!
SUPPORT. What the operations on a cabinet leave unchanged is said in two forms: `Kept`, and the memories alone.
-/
namespace Sys2Proof.Machine

/-- The parts of a cabinet that the shared operations on errors, events, counters, outputs and states never change: its number,
memories, core registers, position feedback, time base, decode table, order port and rings, loads in progress, clock condition. -/
abbrev Kept (c' c : Cabinet) : Prop :=
  c'.id = c.id ∧ c'.mems = c.mems ∧ c'.core = c.core ∧ c'.fbk = c.fbk ∧ c'.tmr = c.tmr ∧ c'.dec = c.dec ∧ c'.ord = c.ord ∧
  c'.ordRings = c.ordRings ∧ c'.repRings = c.repRings ∧ c'.load = c.load ∧ c'.stage = c.stage ∧ c'.rdata = c.rdata ∧
  c'.ioOk = c.ioOk ∧ c'.chipSafe = c.chipSafe ∧ c'.park = c.park ∧ c'.parkLoaded = c.parkLoaded ∧
  c'.hold = c.hold ∧ c'.freeRun = c.freeRun

/-- A choice between cabinets that keep the parts keeps them. -/
theorem kept_ite {p : Prop} [Decidable p] {a b c : Cabinet} (h1 : Kept a c) (h2 : Kept b c) : Kept (if p then a else b) c := by
  split
  · exact h1
  · exact h2

/-- A choice between cabinets that have a part has it. -/
theorem part_ite {β : Type} (g : Cabinet → β) {p : Prop} [Decidable p] {a b : Cabinet} {x : β} (h1 : g a = x) (h2 : g b = x) :
    g (if p then a else b) = x := by
  split
  · exact h1
  · exact h2

/-- A fold of operations that keep a part of the cabinet keeps it. -/
theorem foldl_part {α β : Type} (g : Cabinet → β) (f : Cabinet → α → Cabinet) (h : ∀ c x, g (f c x) = g c) (l : List α) :
    ∀ c, g (l.foldl f c) = g c := by
  induction l with
  | nil => intro c; rfl
  | cons x t ih => intro c; rw [List.foldl_cons, ih, h]

/-- A fold of operations that leave the kept parts leaves them. -/
theorem foldl_keeps {α : Type} (f : Cabinet → α → Cabinet) (h : ∀ c x, Kept (f c x) c) (l : List α) :
    ∀ c, Kept (l.foldl f c) c := by
  induction l with
  | nil => intro c; simp [Kept]
  | cons x t ih =>
    intro c
    have h1 := ih (f c x)
    have h2 := h c x
    simp only [List.foldl_cons, Kept] at h1 h2 ⊢
    simp only [h1, h2, and_self]

@[simp] theorem foldl_id {α : Type} (f : Cabinet → α → Cabinet) (h : ∀ c x, (f c x).id = c.id) (l : List α) (c : Cabinet) :
    (l.foldl f c).id = c.id := foldl_part _ f h l c
@[simp] theorem foldl_mems {α : Type} (f : Cabinet → α → Cabinet) (h : ∀ c x, (f c x).mems = c.mems) (l : List α) (c : Cabinet) :
    (l.foldl f c).mems = c.mems := foldl_part _ f h l c
@[simp] theorem foldl_core {α : Type} (f : Cabinet → α → Cabinet) (h : ∀ c x, (f c x).core = c.core) (l : List α) (c : Cabinet) :
    (l.foldl f c).core = c.core := foldl_part _ f h l c
@[simp] theorem foldl_fbk {α : Type} (f : Cabinet → α → Cabinet) (h : ∀ c x, (f c x).fbk = c.fbk) (l : List α) (c : Cabinet) :
    (l.foldl f c).fbk = c.fbk := foldl_part _ f h l c
@[simp] theorem foldl_tmr {α : Type} (f : Cabinet → α → Cabinet) (h : ∀ c x, (f c x).tmr = c.tmr) (l : List α) (c : Cabinet) :
    (l.foldl f c).tmr = c.tmr := foldl_part _ f h l c
@[simp] theorem foldl_dec {α : Type} (f : Cabinet → α → Cabinet) (h : ∀ c x, (f c x).dec = c.dec) (l : List α) (c : Cabinet) :
    (l.foldl f c).dec = c.dec := foldl_part _ f h l c
@[simp] theorem foldl_ord {α : Type} (f : Cabinet → α → Cabinet) (h : ∀ c x, (f c x).ord = c.ord) (l : List α) (c : Cabinet) :
    (l.foldl f c).ord = c.ord := foldl_part _ f h l c
@[simp] theorem foldl_ordRings {α : Type} (f : Cabinet → α → Cabinet) (h : ∀ c x, (f c x).ordRings = c.ordRings) (l : List α) (c : Cabinet) :
    (l.foldl f c).ordRings = c.ordRings := foldl_part _ f h l c
@[simp] theorem foldl_repRings {α : Type} (f : Cabinet → α → Cabinet) (h : ∀ c x, (f c x).repRings = c.repRings) (l : List α) (c : Cabinet) :
    (l.foldl f c).repRings = c.repRings := foldl_part _ f h l c
@[simp] theorem foldl_load {α : Type} (f : Cabinet → α → Cabinet) (h : ∀ c x, (f c x).load = c.load) (l : List α) (c : Cabinet) :
    (l.foldl f c).load = c.load := foldl_part _ f h l c
@[simp] theorem foldl_stage {α : Type} (f : Cabinet → α → Cabinet) (h : ∀ c x, (f c x).stage = c.stage) (l : List α) (c : Cabinet) :
    (l.foldl f c).stage = c.stage := foldl_part _ f h l c
@[simp] theorem foldl_rdata {α : Type} (f : Cabinet → α → Cabinet) (h : ∀ c x, (f c x).rdata = c.rdata) (l : List α) (c : Cabinet) :
    (l.foldl f c).rdata = c.rdata := foldl_part _ f h l c
@[simp] theorem foldl_ioOk {α : Type} (f : Cabinet → α → Cabinet) (h : ∀ c x, (f c x).ioOk = c.ioOk) (l : List α) (c : Cabinet) :
    (l.foldl f c).ioOk = c.ioOk := foldl_part _ f h l c
@[simp] theorem foldl_chipSafe {α : Type} (f : Cabinet → α → Cabinet) (h : ∀ c x, (f c x).chipSafe = c.chipSafe) (l : List α) (c : Cabinet) :
    (l.foldl f c).chipSafe = c.chipSafe := foldl_part _ f h l c
@[simp] theorem foldl_free {α : Type} (f : Cabinet → α → Cabinet) (h : ∀ c x, (f c x).free = c.free) (l : List α) (c : Cabinet) :
    (l.foldl f c).free = c.free := foldl_part _ f h l c
@[simp] theorem foldl_park {α : Type} (f : Cabinet → α → Cabinet) (h : ∀ c x, (f c x).park = c.park) (l : List α) (c : Cabinet) :
    (l.foldl f c).park = c.park := foldl_part _ f h l c
@[simp] theorem foldl_parkLoaded {α : Type} (f : Cabinet → α → Cabinet) (h : ∀ c x, (f c x).parkLoaded = c.parkLoaded) (l : List α) (c : Cabinet) :
    (l.foldl f c).parkLoaded = c.parkLoaded := foldl_part _ f h l c
@[simp] theorem foldl_hold {α : Type} (f : Cabinet → α → Cabinet) (h : ∀ c x, (f c x).hold = c.hold) (l : List α) (c : Cabinet) :
    (l.foldl f c).hold = c.hold := foldl_part _ f h l c
@[simp] theorem foldl_freeRun {α : Type} (f : Cabinet → α → Cabinet) (h : ∀ c x, (f c x).freeRun = c.freeRun) (l : List α) (c : Cabinet) :
    (l.foldl f c).freeRun = c.freeRun := foldl_part _ f h l c

end Sys2Proof.Machine
end

