-- ==== Sys2Proof/Laws/KeepsBase.lean ====
section
/-!
SUPPORT. What the operations of Machine/Base.lean leave unchanged in a cabinet.
-/
namespace Sys2Proof.Machine

@[simp] theorem Cabinet_setBlk_keeps (c : Cabinet) (b : Blk) (e : BlkErr) :
    Kept (Cabinet.setBlk c b e) c := by
  unfold Cabinet.setBlk; (try dsimp only); (repeat' split) <;> simp [Kept]

@[simp] theorem Cabinet_note_keeps (c : Cabinet) (n : Note) :
    Kept (Cabinet.note c n) c := by
  unfold Cabinet.note; (try dsimp only); (repeat' split) <;> simp [Kept]

@[simp] theorem Cabinet_answer_keeps (c : Cabinet) (t : Option Nat) (status : Nat) (data : List Byte) :
    Kept (Cabinet.answer c t status data) c := by
  unfold Cabinet.answer; (try dsimp only); (repeat' split) <;> simp [Kept]

@[simp] theorem Cabinet_takeFree_keeps (c : Cabinet) :
    Kept (Cabinet.takeFree c) c := by
  unfold Cabinet.takeFree; (try dsimp only); (repeat' split) <;> simp [Kept]

@[simp] theorem Cabinet_orIrq_keeps (c : Cabinet) (b : Blk) (bits : Word) :
    Kept (Cabinet.orIrq c b bits) c := by
  unfold Cabinet.orIrq; (try dsimp only); (repeat' split) <;> simp [Kept]

@[simp] theorem prgEnded_mems (n : Nat) (c : Cabinet) :
    (prgEnded n c).mems = c.mems := by
  first
  | rfl
  | unfold prgEnded; (try dsimp only); (repeat' first | with_reducible apply part_ite Cabinet.mems | split) <;> simp

@[simp] theorem endWalk_mems (c : Cabinet) :
    (endWalk c).mems = c.mems := by
  first
  | rfl
  | unfold endWalk; (try dsimp only); (repeat' first | with_reducible apply part_ite Cabinet.mems | split) <;> simp

@[simp] theorem setWrap_keeps (n : Fin 64) (c : Cabinet) :
    Kept (setWrap n c) c := by
  unfold setWrap; (try dsimp only); (repeat' split) <;> simp [Kept]

@[simp] theorem bump_keeps (n : Fin 64) (m : Nat) (a : Attr) (c : Cabinet) :
    Kept (bump n m a c) c := by
  unfold bump; (try dsimp only); (repeat' split) <;> simp [Kept]

@[simp] theorem latchEdge_keeps (n : Nat) (c : Cabinet) :
    Kept ((latchEdge n c).1) c := by
  unfold latchEdge; (try dsimp only); (repeat' split) <;> simp [Kept]

@[simp] theorem pulseRaw_keeps (n : Nat) (c : Cabinet) :
    Kept (pulseRaw n c) c := by
  unfold pulseRaw; (try dsimp only); (repeat' split) <;> simp [Kept]

end Sys2Proof.Machine
end

