-- ==== Sys2Proof/Laws/KeepsCard.lean ====
section
/-!
SUPPORT. What the operations of Machine/Card.lean leave unchanged in a cabinet.
-/
namespace Sys2Proof.Machine

@[simp] theorem commonSet_keeps (b : Blk) (off : Nat) (v : Word) (c : Cabinet) :
    Kept (commonSet b off v c) c := by
  unfold commonSet; (try dsimp only); (repeat' split) <;> simp [Kept]

end Sys2Proof.Machine
end

