-- ==== Sys2Proof/Laws/KeepsPerfRegs.lean ====
section
/-!
SUPPORT. What the operations of Machine/PerfRegs.lean leave unchanged in a cabinet.
-/
namespace Sys2Proof.Machine

@[simp] theorem prfReadEffect_keeps (off : Nat) (c : Cabinet) :
    Kept (prfReadEffect off c) c := by
  unfold prfReadEffect; (try dsimp only); (repeat' split) <;> simp [Kept]

@[simp] theorem prfHoldLow_keeps (n : Fin 64) (w : Word) (c : Cabinet) :
    Kept (prfHoldLow n w c) c := by
  unfold prfHoldLow; (try dsimp only); (repeat' split) <;> simp [Kept]

@[simp] theorem prfSetCount_keeps (n : Fin 64) (w : Word) (c : Cabinet) :
    Kept (prfSetCount n w c) c := by
  unfold prfSetCount; (try dsimp only); (repeat' split) <;> simp [Kept]

@[simp] theorem prfMoveArea_keeps (base : Word) (len : Nat) (c : Cabinet) :
    Kept (prfMoveArea base len c) c := by
  unfold prfMoveArea; (try dsimp only); (repeat' split) <;> simp [Kept]

@[simp] theorem prfSampleClear_keeps (c : Cabinet) :
    Kept (prfSampleClear c) c := by
  unfold prfSampleClear; (try dsimp only); (repeat' split) <;> simp [Kept]

@[simp] theorem prfSet_keeps (off : Nat) (v w : Word) (c : Cabinet) :
    Kept (prfSet off v w c) c := by
  unfold prfSet; (try dsimp only); (repeat' split) <;> simp [Kept, apply_ite Cabinet.id, apply_ite Cabinet.mems, apply_ite Cabinet.core, apply_ite Cabinet.fbk, apply_ite Cabinet.tmr, apply_ite Cabinet.dec, apply_ite Cabinet.ord, apply_ite Cabinet.ordRings, apply_ite Cabinet.repRings, apply_ite Cabinet.load, apply_ite Cabinet.stage, apply_ite Cabinet.rdata, apply_ite Cabinet.ioOk, apply_ite Cabinet.chipSafe, apply_ite Cabinet.park, apply_ite Cabinet.parkLoaded, apply_ite Cabinet.hold, apply_ite Cabinet.freeRun]

@[simp] theorem prfWrite_keeps (off : Nat) (w : Word) (c : Cabinet) :
    Kept (prfWrite off w c) c := by
  unfold prfWrite; (try dsimp only); (repeat' split) <;> simp [Kept]

end Sys2Proof.Machine
end

