-- ==== Sys2Proof/Laws/KeepsOps.lean ====
section
/-!
SUPPORT. What the operations of Machine/Ops.lean leave unchanged in a cabinet.
-/
namespace Sys2Proof.Machine

@[simp] theorem setPair_keeps (c : Cabinet) (p : Fin 4) (q : Pair) :
    Kept (setPair c p q) c := by
  unfold setPair; (try dsimp only); (repeat' split) <;> simp [Kept]

@[simp] theorem switchingEdge_keeps (p : Fin 4) (c : Cabinet) :
    Kept (switchingEdge p c) c := by
  unfold switchingEdge; (try dsimp only); (repeat' split) <;> simp [Kept]

@[simp] theorem pairSettle_keeps (p : Fin 4) (c : Cabinet) :
    Kept (pairSettle p c) c := by
  unfold pairSettle; (try dsimp only); (repeat' split) <;> simp [Kept]

@[simp] theorem settlePairs_keeps (c : Cabinet) :
    Kept (settlePairs c) c := by
  unfold settlePairs; (try dsimp only); (repeat' split) <;> simp [Kept]

@[simp] theorem clearRel_keeps (c : Cabinet) :
    Kept (clearRel c) c := by
  unfold clearRel; (try dsimp only); (repeat' split) <;> simp [Kept]

@[simp] theorem doSwap_keeps (c : Cabinet) :
    Kept (doSwap c) c := by
  unfold doSwap; (try dsimp only); (repeat' split) <;> simp [Kept]

@[simp] theorem trySwap_keeps (c : Cabinet) :
    Kept (trySwap c) c := by
  unfold trySwap; (try dsimp only); (repeat' split) <;> simp [Kept]

@[simp] theorem setWindow_keeps (w : Word) (c : Cabinet) :
    Kept (setWindow w c) c := by
  unfold setWindow; (try dsimp only); (repeat' split) <;> simp [Kept]

@[simp] theorem moveLevels_keeps (old : Cmpr) (c : Cabinet) :
    Kept (moveLevels old c) c := by
  unfold moveLevels; (try dsimp only); (repeat' first | with_reducible apply kept_ite | split) <;> simp [Kept]

@[simp] theorem protWrite_keeps (addr : Nat) (w : Word) (c : Cabinet) :
    Kept (protWrite addr w c) c := by
  unfold protWrite; (try dsimp only); (repeat' split) <;> simp [Kept]

@[simp] theorem applyPairCfg_keeps (p : Fin 4) (c : Cabinet) :
    Kept (applyPairCfg p c) c := by
  unfold applyPairCfg; (try dsimp only); (repeat' split) <;> simp [Kept]

@[simp] theorem applyWaitingRegs_keeps (c : Cabinet) :
    Kept (applyWaitingRegs c) c := by
  unfold applyWaitingRegs; (try dsimp only); (repeat' split) <;> simp [Kept]

@[simp] theorem applyProtected_keeps (c : Cabinet) :
    Kept (applyProtected c) c := by
  unfold applyProtected; (try dsimp only); (repeat' split) <;> simp [Kept]

@[simp] theorem applyPerf_keeps (c : Cabinet) :
    Kept (applyPerf c) c := by
  unfold applyPerf; (try dsimp only); (repeat' split) <;> simp [Kept]

@[simp] theorem frameStop_keeps (c : Cabinet) :
    Kept (frameStop c) c := by
  unfold frameStop; (try dsimp only); (repeat' split) <;> simp [Kept]

@[simp] theorem setMode_keeps (m : CabMode) (c : Cabinet) :
    Kept (setMode m c) c := by
  unfold setMode; (try dsimp only); (repeat' split) <;> simp [Kept]

@[simp] theorem beginTest_keeps (parked : Bool) (c : Cabinet) :
    Kept (beginTest parked c) c := by
  unfold beginTest; (try dsimp only); (repeat' split) <;> simp [Kept]

@[simp] theorem startDeferredTest_keeps (c : Cabinet) :
    Kept (startDeferredTest c) c := by
  unfold startDeferredTest; (try dsimp only); (repeat' split) <;> simp [Kept]

@[simp] theorem enterMode_keeps (m : CabMode) (c : Cabinet) :
    Kept (enterMode m c) c := by
  unfold enterMode; (try dsimp only); (repeat' split) <;> simp [Kept]

@[simp] theorem tripStopDrawer_keeps (n : Fin 4) (c : Cabinet) :
    Kept (tripStopDrawer n c) c := by
  unfold tripStopDrawer; (try dsimp only); (repeat' split) <;> simp [Kept]

@[simp] theorem backToPark_keeps (c : Cabinet) :
    Kept (backToPark c) c := by
  unfold backToPark; (try dsimp only); (repeat' first | with_reducible apply kept_ite | split) <;> simp [Kept]

@[simp] theorem tripState_keeps (c : Cabinet) :
    Kept (tripState c) c := by
  unfold tripState; (try dsimp only); (repeat' split) <;> simp [Kept]

@[simp] theorem tripBy_keeps (src : Nat) (c : Cabinet) :
    Kept (tripBy src c) c := by
  unfold tripBy; (try dsimp only); (repeat' split) <;> simp [Kept]

@[simp] theorem escalate_keeps (b : Blk) (c : Cabinet) :
    Kept (escalate b c) c := by
  unfold escalate; (try dsimp only); (repeat' split) <;> simp [Kept]

@[simp] theorem setErr_keeps (b : Blk) (bits : Word) (c : Cabinet) :
    Kept (setErr b bits c) c := by
  unfold setErr; (try dsimp only); (repeat' split) <;> simp [Kept]

@[simp] theorem pulse_keeps (n : Nat) (c : Cabinet) :
    Kept (pulse n c) c := by
  unfold pulse; (try dsimp only); (repeat' split) <;> simp [Kept]

@[simp] theorem raiseErr_keeps (b : Blk) (bits : Word) (c : Cabinet) :
    Kept (raiseErr b bits c) c := by
  unfold raiseErr; (try dsimp only); (repeat' split) <;> simp [Kept]

@[simp] theorem icuSyncOne_keeps (b : Blk) (c : Cabinet) :
    Kept (icuSyncOne b c) c := by
  unfold icuSyncOne; (try dsimp only); (repeat' split) <;> simp [Kept]

@[simp] theorem icuSync_keeps (c : Cabinet) :
    Kept (icuSync c) c := by
  unfold icuSync; (try dsimp only); (repeat' split) <;> simp [Kept]

@[simp] theorem pairChange_keeps (p : Fin 4) (q : Pair) (c : Cabinet) :
    Kept (pairChange p q c) c := by
  unfold pairChange; (try dsimp only); (repeat' split) <;> simp [Kept]

@[simp] theorem evalPair_keeps (p : Fin 4) (below byLatch : Bool) (c : Cabinet) :
    Kept (evalPair p below byLatch c) c := by
  unfold evalPair; (try dsimp only); (repeat' split) <;> simp [Kept]

@[simp] theorem pulseEnd_keeps (p : Fin 4) (peak : Bool) (c : Cabinet) :
    Kept (pulseEnd p peak c) c := by
  unfold pulseEnd; (try dsimp only); (repeat' split) <;> simp [Kept]

end Sys2Proof.Machine
end

