-- ==== Sys2Proof/Laws/KeepsConverters.lean ====
section
/-!
SUPPORT. What the operations of Machine/Converters.lean leave unchanged in a cabinet.
-/
namespace Sys2Proof.Machine

@[simp] theorem cnvReadEffect_keeps (off : Nat) (c : Cabinet) :
    Kept (cnvReadEffect off c) c := by
  unfold cnvReadEffect; (try dsimp only); (repeat' split) <;> simp [Kept]

@[simp] theorem holdSet_keeps (vd : Vector Int 8) (c : Cabinet) :
    Kept (holdSet vd c) c := by
  unfold holdSet; (try dsimp only); (repeat' first | with_reducible apply kept_ite | split) <;> simp [Kept]

@[simp] theorem decideNow_keeps (c : Cabinet) :
    Kept (decideNow c) c := by
  unfold decideNow; (try dsimp only); (repeat' first | with_reducible apply kept_ite | split) <;> simp [Kept]

@[simp] theorem decideAhead_keeps (c : Cabinet) :
    Kept (decideAhead c) c := by
  unfold decideAhead; (try dsimp only); (repeat' first | with_reducible apply kept_ite | split) <;> simp [Kept]

@[simp] theorem decideInstants_keeps (c : Cabinet) :
    Kept (decideInstants c) c := by
  unfold decideInstants; (try dsimp only); (repeat' first | with_reducible apply kept_ite | split) <;> simp [Kept]

@[simp] theorem setTrk_keeps (v : Word) (c : Cabinet) :
    Kept (setTrk v c) c := by
  unfold setTrk; (try dsimp only); (repeat' split) <;> simp [Kept]

@[simp] theorem trackerTarget_keeps (half : Bool) (last : Option Nat) (c : Cabinet) :
    Kept (trackerTarget half last c) c := by
  unfold trackerTarget; (try dsimp only); (repeat' first | with_reducible apply kept_ite | split) <;> simp [Kept]

@[simp] theorem trackerUpdate_keeps (half : Bool) (samples : List Int) (c : Cabinet) :
    Kept (trackerUpdate half samples c) c := by
  unfold trackerUpdate; (try dsimp only); (repeat' first | with_reducible apply kept_ite | split) <;> simp [Kept]

@[simp] theorem startInitCal_keeps (c : Cabinet) :
    Kept (startInitCal c) c := by
  unfold startInitCal; (try dsimp only); (repeat' split) <;> simp [Kept]

@[simp] theorem spareRestart_keeps (c : Cabinet) :
    Kept (spareRestart c) c := by
  unfold spareRestart; (try dsimp only); (repeat' split) <;> simp [Kept]

@[simp] theorem calRequest_keeps (c : Cabinet) :
    Kept (calRequest c) c := by
  unfold calRequest; (try dsimp only); (repeat' split) <;> simp [Kept]

@[simp] theorem newTrims_keeps (conv : Fin 5 → Bool) (c : Cabinet) :
    Kept (newTrims conv c) c := by
  unfold newTrims; (try dsimp only); (repeat' first | with_reducible apply kept_ite | split) <;> simp [Kept]

@[simp] theorem initCalEnd_keeps (refFail calFail : BitVec 5) (c : Cabinet) :
    Kept (initCalEnd refFail calFail c) c := by
  unfold initCalEnd; (try dsimp only); (repeat' first | with_reducible apply kept_ite | split) <;> simp [Kept]

@[simp] theorem calibrationComplete_keeps (refFail calFail : BitVec 5) (c : Cabinet) :
    Kept (calibrationComplete refFail calFail c) c := by
  unfold calibrationComplete; (try dsimp only); (repeat' first | with_reducible apply kept_ite | split) <;> simp [Kept]

@[simp] theorem spareStart_keeps (c : Cabinet) :
    Kept (spareStart c) c := by
  unfold spareStart; (try dsimp only); (repeat' first | with_reducible apply kept_ite | split) <;> simp [Kept]

@[simp] theorem matchSet_keeps (spare active : BitVec 14) (c : Cabinet) :
    Kept (matchSet spare active c) c := by
  unfold matchSet; (try dsimp only); (repeat' split) <;> simp [Kept]

@[simp] theorem matchHeld_keeps (c : Cabinet) :
    Kept (matchHeld c) c := by
  unfold matchHeld; (try dsimp only); (repeat' first | with_reducible apply kept_ite | split) <;> simp [Kept]

@[simp] theorem matchBlock_keeps (c : Cabinet) :
    Kept (matchBlock c) c := by
  unfold matchBlock; (try dsimp only); (repeat' split) <;> simp [Kept]

@[simp] theorem rotate_keeps (c : Cabinet) :
    Kept (rotate c) c := by
  unfold rotate; (try dsimp only); (repeat' split) <;> simp [Kept]

@[simp] theorem rotationEvent_keeps (c : Cabinet) :
    Kept (rotationEvent c) c := by
  unfold rotationEvent; (try dsimp only); (repeat' split) <;> simp [Kept]

@[simp] theorem seqTrigger_keeps (n : Fin 8) (c : Cabinet) :
    Kept (seqTrigger n c) c := by
  unfold seqTrigger; (try dsimp only); (repeat' split) <;> simp [Kept]

@[simp] theorem seqOffset_keeps (n : Fin 8) (c : Cabinet) :
    Kept (seqOffset n c) c := by
  unfold seqOffset; (try dsimp only); (repeat' split) <;> simp [Kept]

@[simp] theorem seqCompare_keeps (ch : Nat) (c : Cabinet) :
    Kept (seqCompare ch c) c := by
  unfold seqCompare; (try dsimp only); (repeat' split) <;> simp [Kept, apply_ite Cabinet.id, apply_ite Cabinet.mems, apply_ite Cabinet.core, apply_ite Cabinet.fbk, apply_ite Cabinet.tmr, apply_ite Cabinet.dec, apply_ite Cabinet.ord, apply_ite Cabinet.ordRings, apply_ite Cabinet.repRings, apply_ite Cabinet.load, apply_ite Cabinet.stage, apply_ite Cabinet.rdata, apply_ite Cabinet.ioOk, apply_ite Cabinet.chipSafe, apply_ite Cabinet.park, apply_ite Cabinet.parkLoaded, apply_ite Cabinet.hold, apply_ite Cabinet.freeRun]

@[simp] theorem seqSoftware_keeps (go : Nat) (c : Cabinet) :
    Kept (seqSoftware go c) c := by
  unfold seqSoftware; (try dsimp only); (repeat' split) <;> simp [Kept, apply_ite Cabinet.id, apply_ite Cabinet.mems, apply_ite Cabinet.core, apply_ite Cabinet.fbk, apply_ite Cabinet.tmr, apply_ite Cabinet.dec, apply_ite Cabinet.ord, apply_ite Cabinet.ordRings, apply_ite Cabinet.repRings, apply_ite Cabinet.load, apply_ite Cabinet.stage, apply_ite Cabinet.rdata, apply_ite Cabinet.ioOk, apply_ite Cabinet.chipSafe, apply_ite Cabinet.park, apply_ite Cabinet.parkLoaded, apply_ite Cabinet.hold, apply_ite Cabinet.freeRun]

@[simp] theorem seqStart_keeps (n : Fin 8) (c : Cabinet) :
    Kept (seqStart n c) c := by
  unfold seqStart; (try dsimp only); (repeat' split) <;> simp [Kept]

@[simp] theorem seqResult_keeps (n : Fin 8) (vd : Int) (c : Cabinet) :
    Kept (seqResult n vd c) c := by
  unfold seqResult; (try dsimp only); (repeat' first | with_reducible apply kept_ite | split) <;> simp [Kept]

@[simp] theorem sidePulse_keeps (n : Fin 8) (low : Bool) (c : Cabinet) :
    Kept (sidePulse n low c) c := by
  unfold sidePulse; (try dsimp only); (repeat' split) <;> simp [Kept]

@[simp] theorem pulseSides_keeps (n : Fin 8) (high low : Bool) (c : Cabinet) :
    Kept (pulseSides n high low c) c := by
  unfold pulseSides; (try dsimp only); (repeat' split) <;> simp [Kept]

@[simp] theorem sideTrip_keeps (n : Fin 8) (low : Bool) (c : Cabinet) :
    Kept (sideTrip n low c) c := by
  unfold sideTrip; (try dsimp only); (repeat' split) <;> simp [Kept]

@[simp] theorem sideAct_keeps (n : Fin 8) (low : Bool) (c : Cabinet) :
    Kept (sideAct n low c) c := by
  unfold sideAct; (try dsimp only); (repeat' split) <;> simp [Kept]

@[simp] theorem levelNow_keeps (n : Fin 8) (low : Bool) (c : Cabinet) :
    Kept ((levelNow n low c).1) c := by
  unfold levelNow; (try dsimp only); (repeat' first | with_reducible apply kept_ite | split) <;> simp [Kept]

@[simp] theorem watch_keeps (n : Fin 8) (vd : Int) (c : Cabinet) :
    Kept (watch n vd c) c := by
  unfold watch; (try dsimp only); (repeat' first | with_reducible apply kept_ite | split) <;> simp [Kept]

@[simp] theorem sideShows_keeps (n : Fin 8) (low : Bool) (c : Cabinet) :
    Kept (sideShows n low c) c := by
  unfold sideShows; (try dsimp only); (repeat' first | with_reducible apply kept_ite | split) <;> simp [Kept]

@[simp] theorem cmprAssert_keeps (n : Fin 8) (low : Bool) (vd : Int) (c : Cabinet) :
    Kept (cmprAssert n low vd c) c := by
  unfold cmprAssert; (try dsimp only); (repeat' first | with_reducible apply kept_ite | split) <;> simp [Kept]

@[simp] theorem cmprDeassert_keeps (n : Fin 8) (low : Bool) (vd : Int) (c : Cabinet) :
    Kept (cmprDeassert n low vd c) c := by
  unfold cmprDeassert; (try dsimp only); (repeat' first | with_reducible apply kept_ite | split) <;> simp [Kept]

@[simp] theorem blankingEnd_keeps (n : Fin 8) (trip : Bool) (c : Cabinet) :
    Kept (blankingEnd n trip c) c := by
  unfold blankingEnd; (try dsimp only); (repeat' split) <;> simp [Kept]

@[simp] theorem sidesAct_keeps (c : Cabinet) :
    Kept (sidesAct c) c := by
  unfold sidesAct; (try dsimp only); (repeat' split) <;> simp [Kept, apply_ite Cabinet.id, apply_ite Cabinet.mems, apply_ite Cabinet.core, apply_ite Cabinet.fbk, apply_ite Cabinet.tmr, apply_ite Cabinet.dec, apply_ite Cabinet.ord, apply_ite Cabinet.ordRings, apply_ite Cabinet.repRings, apply_ite Cabinet.load, apply_ite Cabinet.stage, apply_ite Cabinet.rdata, apply_ite Cabinet.ioOk, apply_ite Cabinet.chipSafe, apply_ite Cabinet.park, apply_ite Cabinet.parkLoaded, apply_ite Cabinet.hold, apply_ite Cabinet.freeRun]

@[simp] theorem cnvSet_keeps (off : Nat) (v w : Word) (c : Cabinet) :
    Kept (cnvSet off v w c) c := by
  unfold cnvSet; (try dsimp only); (repeat' first | with_reducible apply kept_ite | split) <;> simp [Kept]

end Sys2Proof.Machine
end

