-- ==== Sys2Proof/Laws/KeepsPwm.lean ====
section
/-!
SUPPORT. What the operations of Machine/Pwm.lean leave unchanged in a cabinet.
-/
namespace Sys2Proof.Machine

@[simp] theorem dutyCommit_keeps (mask : Nat) (duties : List Word) (c : Cabinet) :
    Kept (dutyCommit mask duties c) c := by
  unfold dutyCommit; (try dsimp only); (repeat' split) <;> simp [Kept]

@[simp] theorem release_keeps (c : Cabinet) :
    Kept (release c) c := by
  unfold release; (try dsimp only); (repeat' split) <;> simp [Kept]

@[simp] theorem shadowLatch_keeps (c : Cabinet) :
    Kept (shadowLatch c) c := by
  unfold shadowLatch; (try dsimp only); (repeat' split) <;> simp [Kept]

@[simp] theorem dutyPortCommit_keeps (c : Cabinet) :
    Kept (dutyPortCommit c) c := by
  unfold dutyPortCommit; (try dsimp only); (repeat' split) <;> simp [Kept]

@[simp] theorem shadowLatchEvent_keeps (c : Cabinet) :
    Kept (shadowLatchEvent c) c := by
  unfold shadowLatchEvent; (try dsimp only); (repeat' split) <;> simp [Kept]

@[simp] theorem carrierCrossing_keeps (p : Fin 4) (below : Bool) (c : Cabinet) :
    Kept (carrierCrossing p below c) c := by
  unfold carrierCrossing; (try dsimp only); (repeat' split) <;> simp [Kept]

@[simp] theorem cutEnd_keeps (p : Fin 4) (c : Cabinet) :
    Kept (cutEnd p c) c := by
  unfold cutEnd; (try dsimp only); (repeat' first | with_reducible apply kept_ite | split) <;> simp [Kept]

@[simp] theorem carrierAt_keeps (x : Nat) (c : Cabinet) :
    Kept (carrierAt x c) c := by
  unfold carrierAt; (try dsimp only); (repeat' split) <;> simp [Kept]

@[simp] theorem deadTimeElapsed_keeps (p : Fin 4) (sideB safe : Bool) (c : Cabinet) :
    Kept (deadTimeElapsed p sideB safe c) c := by
  unfold deadTimeElapsed; (try dsimp only); (repeat' first | with_reducible apply kept_ite | split) <;> simp [Kept]

@[simp] theorem dtAdapt_keeps (p : Fin 4) (sideB : Bool) (m : Option Nat) (c : Cabinet) :
    Kept (dtAdapt p sideB m c) c := by
  unfold dtAdapt; (try dsimp only); (repeat' split) <;> simp [Kept]

@[simp] theorem setDtFix_keeps (p : Fin 4) (v : Word) (c : Cabinet) :
    Kept (setDtFix p v c) c := by
  unfold setDtFix; (try dsimp only); (repeat' split) <;> simp [Kept]

@[simp] theorem setDtLim_keeps (p : Fin 4) (v : Word) (c : Cabinet) :
    Kept (setDtLim p v c) c := by
  unfold setDtLim; (try dsimp only); (repeat' split) <;> simp [Kept]

@[simp] theorem tripPinLow_keeps (width : Option Nat) (c : Cabinet) :
    Kept (tripPinLow width c) c := by
  unfold tripPinLow; (try dsimp only); (repeat' split) <;> simp [Kept]

@[simp] theorem enPinHigh_keeps (width : Option Nat) (c : Cabinet) :
    Kept (enPinHigh width c) c := by
  unfold enPinHigh; (try dsimp only); (repeat' split) <;> simp [Kept]

@[simp] theorem retrip_keeps (c : Cabinet) :
    Kept (retrip c) c := by
  unfold retrip; (try dsimp only); (repeat' split) <;> simp [Kept]

@[simp] theorem setPairCfg_keeps (p : Fin 4) (v : Word) (c : Cabinet) :
    Kept (setPairCfg p v c) c := by
  unfold setPairCfg; (try dsimp only); (repeat' split) <;> simp [Kept]

@[simp] theorem pwmSet_keeps (off : Nat) (v : Word) (c : Cabinet) :
    Kept (pwmSet off v c) c := by
  unfold pwmSet; (try dsimp only); (repeat' split) <;> simp [Kept]

end Sys2Proof.Machine
end

