-- ==== Sys2Proof/Laws/KeepsFeedback.lean ====
section
/-!
SUPPORT. What the operations of Machine/Feedback.lean leave unchanged in a cabinet.
-/
namespace Sys2Proof.Machine

@[simp] theorem posMove_mems (n : Nat) (neg : Bool) (c : Cabinet) :
    (posMove n neg c).mems = c.mems := by
  unfold posMove; (try dsimp only); (repeat' split) <;> simp

@[simp] theorem posMove_core (n : Nat) (neg : Bool) (c : Cabinet) :
    (posMove n neg c).core = c.core := by
  unfold posMove; (try dsimp only); (repeat' split) <;> simp

@[simp] theorem countedEdge_mems (n : Nat) (rev directed timed : Bool) (ts : BitVec 64) (per : Nat) (c : Cabinet) :
    (countedEdge n rev directed timed ts per c).mems = c.mems := by
  first
  | rfl
  | unfold countedEdge; (try dsimp only); (repeat' first | with_reducible apply part_ite Cabinet.mems | split) <;> simp

@[simp] theorem countedEdge_core (n : Nat) (rev directed timed : Bool) (ts : BitVec 64) (per : Nat) (c : Cabinet) :
    (countedEdge n rev directed timed ts per c).core = c.core := by
  first
  | rfl
  | unfold countedEdge; (try dsimp only); (repeat' first | with_reducible apply part_ite Cabinet.core | split) <;> simp

@[simp] theorem hallCount_mems (rev : Bool) (ts : BitVec 64) (c : Cabinet) :
    (hallCount rev ts c).mems = c.mems := by
  unfold hallCount; (try dsimp only); (repeat' split) <;> simp

@[simp] theorem hallCount_core (rev : Bool) (ts : BitVec 64) (c : Cabinet) :
    (hallCount rev ts c).core = c.core := by
  unfold hallCount; (try dsimp only); (repeat' split) <;> simp

@[simp] theorem xwinCheck_keeps (n : Nat) (c : Cabinet) :
    Kept (xwinCheck n c) c := by
  unfold xwinCheck; (try dsimp only); (repeat' split) <;> simp [Kept]

@[simp] theorem hallCross_mems (rev : Bool) (c : Cabinet) :
    (hallCross rev c).mems = c.mems := by
  unfold hallCross; (try dsimp only); (repeat' split) <;> simp

@[simp] theorem hallCross_core (rev : Bool) (c : Cabinet) :
    (hallCross rev c).core = c.core := by
  unfold hallCross; (try dsimp only); (repeat' split) <;> simp

@[simp] theorem hallAccepted_mems (x late : Nat) (c : Cabinet) :
    (hallAccepted x late c).mems = c.mems := by
  first
  | rfl
  | unfold hallAccepted; (try dsimp only); (repeat' first | with_reducible apply part_ite Cabinet.mems | split) <;> simp

@[simp] theorem hallAccepted_core (x late : Nat) (c : Cabinet) :
    (hallAccepted x late c).core = c.core := by
  first
  | rfl
  | unfold hallAccepted; (try dsimp only); (repeat' first | with_reducible apply part_ite Cabinet.core | split) <;> simp

@[simp] theorem reference_mems (n : Nat) (c : Cabinet) :
    (reference n c).mems = c.mems := by
  unfold reference; (try dsimp only); (repeat' split) <;> simp

@[simp] theorem reference_core (n : Nat) (c : Cabinet) :
    (reference n c).core = c.core := by
  unfold reference; (try dsimp only); (repeat' split) <;> simp

@[simp] theorem toothRegular_mems (rev first : Bool) (ts : BitVec 64) (timed : Bool) (c : Cabinet) :
    (toothRegular rev first ts timed c).mems = c.mems := by
  unfold toothRegular; (try dsimp only); (repeat' split) <;> simp

@[simp] theorem toothRegular_core (rev first : Bool) (ts : BitVec 64) (timed : Bool) (c : Cabinet) :
    (toothRegular rev first ts timed c).core = c.core := by
  unfold toothRegular; (try dsimp only); (repeat' split) <;> simp

@[simp] theorem toothGap_mems (rev : Bool) (ts : BitVec 64) (c : Cabinet) :
    (toothGap rev ts c).mems = c.mems := by
  unfold toothGap; (try dsimp only); (repeat' split) <;> simp

@[simp] theorem toothGap_core (rev : Bool) (ts : BitVec 64) (c : Cabinet) :
    (toothGap rev ts c).core = c.core := by
  unfold toothGap; (try dsimp only); (repeat' split) <;> simp

@[simp] theorem toothAccepted_mems (late : Nat) (c : Cabinet) :
    (toothAccepted late c).mems = c.mems := by
  first
  | rfl
  | unfold toothAccepted; (try dsimp only); (repeat' first | with_reducible apply part_ite Cabinet.mems | split) <;> simp

@[simp] theorem toothAccepted_core (late : Nat) (c : Cabinet) :
    (toothAccepted late c).core = c.core := by
  first
  | rfl
  | unfold toothAccepted; (try dsimp only); (repeat' first | with_reducible apply part_ite Cabinet.core | split) <;> simp

@[simp] theorem toothLevel_mems (level : Bool) (late : Nat) (c : Cabinet) :
    (toothLevel level late c).mems = c.mems := by
  first
  | rfl
  | unfold toothLevel; (try dsimp only); (repeat' first | with_reducible apply part_ite Cabinet.mems | split) <;> simp

@[simp] theorem toothLevel_core (level : Bool) (late : Nat) (c : Cabinet) :
    (toothLevel level late c).core = c.core := by
  first
  | rfl
  | unfold toothLevel; (try dsimp only); (repeat' first | with_reducible apply part_ite Cabinet.core | split) <;> simp

@[simp] theorem hallSample_mems (x late : Nat) (c : Cabinet) :
    (hallSample x late c).mems = c.mems := by
  first
  | rfl
  | unfold hallSample; (try dsimp only); (repeat' first | with_reducible apply part_ite Cabinet.mems | split) <;> simp

@[simp] theorem hallSample_core (x late : Nat) (c : Cabinet) :
    (hallSample x late c).core = c.core := by
  first
  | rfl
  | unfold hallSample; (try dsimp only); (repeat' first | with_reducible apply part_ite Cabinet.core | split) <;> simp

@[simp] theorem toothSample_mems (pin : Bool) (late : Nat) (c : Cabinet) :
    (toothSample pin late c).mems = c.mems := by
  first
  | rfl
  | unfold toothSample; (try dsimp only); (repeat' first | with_reducible apply part_ite Cabinet.mems | split) <;> simp

@[simp] theorem toothSample_core (pin : Bool) (late : Nat) (c : Cabinet) :
    (toothSample pin late c).core = c.core := by
  first
  | rfl
  | unfold toothSample; (try dsimp only); (repeat' first | with_reducible apply part_ite Cabinet.core | split) <;> simp

@[simp] theorem hallTransition_mems (xs : List (Fin 8)) (c : Cabinet) :
    (hallTransition xs c).mems = c.mems := by
  first
  | rfl
  | unfold hallTransition; (try dsimp only); (repeat' first | with_reducible apply part_ite Cabinet.mems | split) <;> simp

@[simp] theorem hallTransition_core (xs : List (Fin 8)) (c : Cabinet) :
    (hallTransition xs c).core = c.core := by
  first
  | rfl
  | unfold hallTransition; (try dsimp only); (repeat' first | with_reducible apply part_ite Cabinet.core | split) <;> simp

@[simp] theorem toothEdge_mems (xs : List Bool) (c : Cabinet) :
    (toothEdge xs c).mems = c.mems := by
  first
  | rfl
  | unfold toothEdge; (try dsimp only); (repeat' first | with_reducible apply part_ite Cabinet.mems | split) <;> simp

@[simp] theorem toothEdge_core (xs : List Bool) (c : Cabinet) :
    (toothEdge xs c).core = c.core := by
  first
  | rfl
  | unfold toothEdge; (try dsimp only); (repeat' first | with_reducible apply part_ite Cabinet.core | split) <;> simp

@[simp] theorem extposWrite_mems (v : Word) (c : Cabinet) :
    (extposWrite v c).mems = c.mems := by
  unfold extposWrite; (try dsimp only); (repeat' split) <;> simp

@[simp] theorem extposWrite_core (v : Word) (c : Cabinet) :
    (extposWrite v c).core = c.core := by
  unfold extposWrite; (try dsimp only); (repeat' split) <;> simp

@[simp] theorem extposDrawer_mems (v : Word) (lost : Bool) (c : Cabinet) :
    (extposDrawer v lost c).mems = c.mems := by
  unfold extposDrawer; (try dsimp only); (repeat' split) <;> simp

@[simp] theorem extposDrawer_core (v : Word) (lost : Bool) (c : Cabinet) :
    (extposDrawer v lost c).core = c.core := by
  unfold extposDrawer; (try dsimp only); (repeat' split) <;> simp

@[simp] theorem snapshot_mems (half : Bool) (c : Cabinet) :
    (snapshot half c).mems = c.mems := by
  simp [snapshot]

@[simp] theorem snapshot_core (half : Bool) (c : Cabinet) :
    (snapshot half c).core = c.core := by
  simp [snapshot]

@[simp] theorem fbkWake_mems (c : Cabinet) :
    (fbkWake c).mems = c.mems := by
  simp [fbkWake]

@[simp] theorem fbkWake_core (c : Cabinet) :
    (fbkWake c).core = c.core := by
  simp [fbkWake]

@[simp] theorem fbkReadEffect_mems (off : Nat) (c : Cabinet) :
    (fbkReadEffect off c).mems = c.mems := by
  unfold fbkReadEffect; (try dsimp only); (repeat' split) <;> simp

@[simp] theorem fbkReadEffect_core (off : Nat) (c : Cabinet) :
    (fbkReadEffect off c).core = c.core := by
  unfold fbkReadEffect; (try dsimp only); (repeat' split) <;> simp

@[simp] theorem setFbkCfg_mems (v : Word) (c : Cabinet) :
    (setFbkCfg v c).mems = c.mems := by
  simp [setFbkCfg]

@[simp] theorem setFbkCfg_core (v : Word) (c : Cabinet) :
    (setFbkCfg v c).core = c.core := by
  simp [setFbkCfg]

@[simp] theorem setFbkTcfg_mems (v : Word) (c : Cabinet) :
    (setFbkTcfg v c).mems = c.mems := by
  simp [setFbkTcfg]

@[simp] theorem setFbkTcfg_core (v : Word) (c : Cabinet) :
    (setFbkTcfg v c).core = c.core := by
  simp [setFbkTcfg]

@[simp] theorem fbkSet_mems (off : Nat) (v : Word) (c : Cabinet) :
    (fbkSet off v c).mems = c.mems := by
  unfold fbkSet; (try dsimp only); (repeat' split) <;> simp

@[simp] theorem fbkSet_core (off : Nat) (v : Word) (c : Cabinet) :
    (fbkSet off v c).core = c.core := by
  unfold fbkSet; (try dsimp only); (repeat' split) <;> simp

end Sys2Proof.Machine
end

