-- ==== Sys2Proof/Laws/KeepsDrawers.lean ====
section
/-!
SUPPORT. What the operations of Machine/Drawers.lean leave unchanged in a cabinet.
-/
namespace Sys2Proof.Machine

@[simp] theorem setDrw_keeps (c : Cabinet) (n : Fin 4) (d : Drawer) :
    Kept (setDrw c n d) c := by
  unfold setDrw; (try dsimp only); (repeat' split) <;> simp [Kept]

@[simp] theorem drwFrameSync_keeps (c : Cabinet) :
    Kept (drwFrameSync c) c := by
  unfold drwFrameSync; (try dsimp only); (repeat' split) <;> simp [Kept]

@[simp] theorem drwLine_keeps (src : Nat) (c : Cabinet) :
    Kept (drwLine src c) c := by
  unfold drwLine; (try dsimp only); (repeat' split) <;> simp [Kept]

@[simp] theorem drwParityStop_keeps (n : Fin 4) (c : Cabinet) :
    Kept (drwParityStop n c) c := by
  unfold drwParityStop; (try dsimp only); (repeat' split) <;> simp [Kept]

@[simp] theorem drwApply_keeps (n : Fin 4) (w : Word) (c : Cabinet) :
    Kept (drwApply n w c) c := by
  unfold drwApply; (try dsimp only); (repeat' split) <;> simp [Kept]

@[simp] theorem drwEntry_keeps (n : Fin 4) (w : Word) (c : Cabinet) :
    Kept (drwEntry n w c) c := by
  unfold drwEntry; (try dsimp only); (repeat' split) <;> simp [Kept]

@[simp] theorem drwAction_keeps (n : Fin 4) (act arg oe out next : Nat) (c : Cabinet) :
    Kept (drwAction n act arg oe out next c) c := by
  unfold drwAction; (try dsimp only); (repeat' split) <;> simp [Kept]

@[simp] theorem waitEnd_keeps (n : Fin 4) (c : Cabinet) :
    Kept (waitEnd n c) c := by
  unfold waitEnd; (try dsimp only); (repeat' split) <;> simp [Kept]

@[simp] theorem drwStep_keeps (n : Fin 4) (levels : Nat) (c : Cabinet) :
    Kept (drwStep n levels c) c := by
  unfold drwStep; (try dsimp only); (repeat' split) <;> simp [Kept]

@[simp] theorem stallComplete_keeps (n : Fin 4) (c : Cabinet) :
    Kept (stallComplete n c) c := by
  unfold stallComplete; (try dsimp only); (repeat' split) <;> simp [Kept]

@[simp] theorem stallLimit_keeps (n : Fin 4) (c : Cabinet) :
    Kept (stallLimit n c) c := by
  unfold stallLimit; (try dsimp only); (repeat' split) <;> simp [Kept]

@[simp] theorem drwStart_keeps (n : Fin 4) (state : Nat) (c : Cabinet) :
    Kept (drwStart n state c) c := by
  unfold drwStart; (try dsimp only); (repeat' split) <;> simp [Kept]

@[simp] theorem drwStop_keeps (n : Fin 4) (c : Cabinet) :
    Kept (drwStop n c) c := by
  unfold drwStop; (try dsimp only); (repeat' split) <;> simp [Kept]

@[simp] theorem drwFlush_keeps (n : Fin 4) (c : Cabinet) :
    Kept (drwFlush n c) c := by
  unfold drwFlush; (try dsimp only); (repeat' split) <;> simp [Kept]

@[simp] theorem drwCtl_keeps (n : Fin 4) (w : Word) (c : Cabinet) :
    Kept (drwCtl n w c) c := by
  unfold drwCtl; (try dsimp only); (repeat' split) <;> simp [Kept]

@[simp] theorem outqWrite_keeps (n : Fin 4) (w : Word) (c : Cabinet) :
    Kept (outqWrite n w c) c := by
  unfold outqWrite; (try dsimp only); (repeat' split) <;> simp [Kept]

@[simp] theorem inqPop_keeps (n : Fin 4) (c : Cabinet) :
    Kept (inqPop n c) c := by
  unfold inqPop; (try dsimp only); (repeat' split) <;> simp [Kept]

@[simp] theorem drwDenied_keeps (n : Fin 4) (c : Cabinet) :
    Kept (drwDenied n c) c := by
  unfold drwDenied; (try dsimp only); (repeat' split) <;> simp [Kept]

@[simp] theorem tdataWrite_keeps (n : Fin 4) (w : Word) (c : Cabinet) :
    Kept (tdataWrite n w c) c := by
  unfold tdataWrite; (try dsimp only); (repeat' split) <;> simp [Kept]

@[simp] theorem tdataRead_keeps (n : Fin 4) (c : Cabinet) :
    Kept (tdataRead n c) c := by
  unfold tdataRead; (try dsimp only); (repeat' split) <;> simp [Kept]

@[simp] theorem posBufWrite_mems (n : Fin 4) (lost : Bool) (c : Cabinet) :
    (posBufWrite n lost c).mems = c.mems := by
  unfold posBufWrite; (try dsimp only); (repeat' split) <;> simp

@[simp] theorem posBufWrite_core (n : Fin 4) (lost : Bool) (c : Cabinet) :
    (posBufWrite n lost c).core = c.core := by
  unfold posBufWrite; (try dsimp only); (repeat' split) <;> simp

@[simp] theorem drwWake_keeps (c : Cabinet) :
    Kept (drwWake c) c := by
  unfold drwWake; (try dsimp only); (repeat' split) <;> simp [Kept]

@[simp] theorem drwReset_keeps (c : Cabinet) :
    Kept (drwReset c) c := by
  unfold drwReset; (try dsimp only); (repeat' split) <;> simp [Kept]

@[simp] theorem drwReadEffect_keeps (off : Nat) (c : Cabinet) :
    Kept (drwReadEffect off c) c := by
  unfold drwReadEffect; (try dsimp only); (repeat' split) <;> simp [Kept]

@[simp] theorem drwPinWrite_keeps (n : Fin 4) (v : Word) (c : Cabinet) :
    Kept (drwPinWrite n v c) c := by
  unfold drwPinWrite; (try dsimp only); (repeat' split) <;> simp [Kept]

@[simp] theorem drwSet_keeps (off : Nat) (v w : Word) (c : Cabinet) :
    Kept (drwSet off v w c) c := by
  unfold drwSet; (try dsimp only); (repeat' split) <;> simp [Kept]

end Sys2Proof.Machine
end

