-- ==== Sys2Proof/Laws/KeepsTimer.lean ====
section
/-!
SUPPORT. What the operations of Machine/Timer.lean leave unchanged in a cabinet.
-/
namespace Sys2Proof.Machine

@[simp] theorem setAligned_mems (a : Bool) (c : Cabinet) :
    (setAligned a c).mems = c.mems := by
  unfold setAligned; (try dsimp only); (repeat' split) <;> simp

@[simp] theorem setAligned_core (a : Bool) (c : Cabinet) :
    (setAligned a c).core = c.core := by
  unfold setAligned; (try dsimp only); (repeat' split) <;> simp

@[simp] theorem offsetDelivery_mems (ofs : Int) (c : Cabinet) :
    (offsetDelivery ofs c).mems = c.mems := by
  unfold offsetDelivery; (try dsimp only); (repeat' split) <;> simp

@[simp] theorem offsetDelivery_core (ofs : Int) (c : Cabinet) :
    (offsetDelivery ofs c).core = c.core := by
  unfold offsetDelivery; (try dsimp only); (repeat' split) <;> simp

@[simp] theorem capOverflow_mems (lost : Word) (c : Cabinet) :
    (capOverflow lost c).mems = c.mems := by
  unfold capOverflow; split <;> simp

@[simp] theorem capOverflow_core (lost : Word) (c : Cabinet) :
    (capOverflow lost c).core = c.core := by
  unfold capOverflow; split <;> simp

@[simp] theorem beginTick_mems (by' : BitVec 64) (c : Cabinet) :
    (beginTick by' c).mems = c.mems := by
  simp [beginTick]

@[simp] theorem beginTick_core (by' : BitVec 64) (c : Cabinet) :
    (beginTick by' c).core = c.core := by
  simp [beginTick]

@[simp] theorem slewTick_mems (c : Cabinet) :
    (slewTick c).mems = c.mems := by
  unfold slewTick; (try dsimp only); (repeat' split) <;> simp

@[simp] theorem slewTick_core (c : Cabinet) :
    (slewTick c).core = c.core := by
  unfold slewTick; (try dsimp only); (repeat' split) <;> simp

@[simp] theorem alignTimeout_mems (c : Cabinet) :
    (alignTimeout c).mems = c.mems := by
  unfold alignTimeout; (try dsimp only); (repeat' split) <;> simp

@[simp] theorem alignTimeout_core (c : Cabinet) :
    (alignTimeout c).core = c.core := by
  unfold alignTimeout; (try dsimp only); (repeat' split) <;> simp

@[simp] theorem stepTo_mems (ring : BitVec 64) (c : Cabinet) :
    (stepTo ring c).mems = c.mems := by
  unfold stepTo; (try dsimp only); (repeat' split) <;> simp

@[simp] theorem stepTo_core (ring : BitVec 64) (c : Cabinet) :
    (stepTo ring c).core = c.core := by
  unfold stepTo; (try dsimp only); (repeat' split) <;> simp

@[simp] theorem setCh_mems (c : Cabinet) (n : Fin 16) (x : CmpCh) :
    (setCh c n x).mems = c.mems := by
  simp [setCh]

@[simp] theorem setCh_core (c : Cabinet) (n : Fin 16) (x : CmpCh) :
    (setCh c n x).core = c.core := by
  simp [setCh]

@[simp] theorem cmpArm_mems (n : Fin 16) (hi : Word) (c : Cabinet) :
    (cmpArm n hi c).mems = c.mems := by
  simp [cmpArm]

@[simp] theorem cmpArm_core (n : Fin 16) (hi : Word) (c : Cabinet) :
    (cmpArm n hi c).core = c.core := by
  simp [cmpArm]

@[simp] theorem cmpHold_mems (n : Fin 16) (lo : Word) (c : Cabinet) :
    (cmpHold n lo c).mems = c.mems := by
  simp [cmpHold]

@[simp] theorem cmpHold_core (n : Fin 16) (lo : Word) (c : Cabinet) :
    (cmpHold n lo c).core = c.core := by
  simp [cmpHold]

@[simp] theorem cmpDisarm_mems (n : Fin 16) (c : Cabinet) :
    (cmpDisarm n c).mems = c.mems := by
  simp [cmpDisarm]

@[simp] theorem cmpDisarm_core (n : Fin 16) (c : Cabinet) :
    (cmpDisarm n c).core = c.core := by
  simp [cmpDisarm]

@[simp] theorem compareFire_mems (n : Fin 16) (c : Cabinet) :
    (compareFire n c).mems = c.mems := by
  first
  | rfl
  | unfold compareFire; (try dsimp only); (repeat' first | with_reducible apply part_ite Cabinet.mems | split) <;> simp

@[simp] theorem compareFire_core (n : Fin 16) (c : Cabinet) :
    (compareFire n c).core = c.core := by
  first
  | rfl
  | unfold compareFire; (try dsimp only); (repeat' first | with_reducible apply part_ite Cabinet.core | split) <;> simp

@[simp] theorem setCap_mems (c : Cabinet) (i : Fin 8) (x : CapIn) :
    (setCap c i x).mems = c.mems := by
  simp [setCap]

@[simp] theorem setCap_core (c : Cabinet) (i : Fin 8) (x : CapIn) :
    (setCap c i x).core = c.core := by
  simp [setCap]

@[simp] theorem capQueue_mems (i : Fin 8) (ts : BitVec 64) (c : Cabinet) :
    (capQueue i ts c).mems = c.mems := by
  simp [capQueue]

@[simp] theorem capQueue_core (i : Fin 8) (ts : BitVec 64) (c : Cabinet) :
    (capQueue i ts c).core = c.core := by
  simp [capQueue]

@[simp] theorem capture_mems (i : Fin 8) (rising : Bool) (c : Cabinet) :
    (capture i rising c).mems = c.mems := by
  first
  | rfl
  | unfold capture; (try dsimp only); (repeat' first | with_reducible apply part_ite Cabinet.mems | split) <;> simp

@[simp] theorem capture_core (i : Fin 8) (rising : Bool) (c : Cabinet) :
    (capture i rising c).core = c.core := by
  first
  | rfl
  | unfold capture; (try dsimp only); (repeat' first | with_reducible apply part_ite Cabinet.core | split) <;> simp

@[simp] theorem capPop_mems (i : Fin 8) (c : Cabinet) :
    (capPop i c).mems = c.mems := by
  unfold capPop; (try dsimp only); (repeat' split) <;> simp

@[simp] theorem capPop_core (i : Fin 8) (c : Cabinet) :
    (capPop i c).core = c.core := by
  unfold capPop; (try dsimp only); (repeat' split) <;> simp

@[simp] theorem capCfg_mems (i : Fin 8) (v w : Word) (c : Cabinet) :
    (capCfg i v w c).mems = c.mems := by
  simp [capCfg]

@[simp] theorem capCfg_core (i : Fin 8) (v w : Word) (c : Cabinet) :
    (capCfg i v w c).core = c.core := by
  simp [capCfg]

@[simp] theorem tmrReadEffect_mems (off : Nat) (c : Cabinet) :
    (tmrReadEffect off c).mems = c.mems := by
  unfold tmrReadEffect; (try dsimp only); (repeat' split) <;> simp

@[simp] theorem tmrReadEffect_core (off : Nat) (c : Cabinet) :
    (tmrReadEffect off c).core = c.core := by
  unfold tmrReadEffect; (try dsimp only); (repeat' split) <;> simp

@[simp] theorem tmrSet_mems (off : Nat) (v w : Word) (c : Cabinet) :
    (tmrSet off v w c).mems = c.mems := by
  unfold tmrSet; (try dsimp only); (repeat' split) <;> simp

@[simp] theorem tmrSet_core (off : Nat) (v w : Word) (c : Cabinet) :
    (tmrSet off v w c).core = c.core := by
  unfold tmrSet; (try dsimp only); (repeat' split) <;> simp

@[simp] theorem icuClaim_keeps (c : Cabinet) :
    Kept (icuClaim c) c := by
  unfold icuClaim; (try dsimp only); (repeat' split) <;> simp [Kept]

@[simp] theorem icuComplete_keeps (n : Nat) (c : Cabinet) :
    Kept (icuComplete n c) c := by
  unfold icuComplete; (try dsimp only); (repeat' split) <;> simp [Kept]

@[simp] theorem icuSwset_keeps (set : Nat) (c : Cabinet) :
    Kept (icuSwset set c) c := by
  unfold icuSwset; (try dsimp only); (repeat' split) <;> simp [Kept, apply_ite Cabinet.id, apply_ite Cabinet.mems, apply_ite Cabinet.core, apply_ite Cabinet.fbk, apply_ite Cabinet.tmr, apply_ite Cabinet.dec, apply_ite Cabinet.ord, apply_ite Cabinet.ordRings, apply_ite Cabinet.repRings, apply_ite Cabinet.load, apply_ite Cabinet.stage, apply_ite Cabinet.rdata, apply_ite Cabinet.ioOk, apply_ite Cabinet.chipSafe, apply_ite Cabinet.park, apply_ite Cabinet.parkLoaded, apply_ite Cabinet.hold, apply_ite Cabinet.freeRun]

@[simp] theorem icuReadEffect_keeps (off : Nat) (c : Cabinet) :
    Kept (icuReadEffect off c) c := by
  unfold icuReadEffect; (try dsimp only); (repeat' split) <;> simp [Kept]

@[simp] theorem icuSet_keeps (off : Nat) (v w : Word) (c : Cabinet) :
    Kept (icuSet off v w c) c := by
  unfold icuSet; (try dsimp only); (repeat' split) <;> simp [Kept]

end Sys2Proof.Machine
end

