-- ==== Sys2Proof/Laws/KeepsMemory.lean ====
section
/-!
SUPPORT. What the operations of Machine/Memory.lean leave unchanged in a cabinet.
-/
namespace Sys2Proof.Machine

@[simp] theorem memWrite_core (inj : Bool) (a : Nat) (bs : List Byte) (c : Cabinet) :
    (memWrite inj a bs c).core = c.core := by
  simp [memWrite]

@[simp] theorem progWrite_core (a : Nat) (w : BitVec 16) (c : Cabinet) :
    (progWrite a w c).core = c.core := by
  simp [progWrite]

@[simp] theorem parCorrect_keeps (pc addr : Nat) (l8 l6 lineBuf leak : Bool) (c : Cabinet) :
    Kept (parCorrect pc addr l8 l6 lineBuf leak c) c := by
  unfold parCorrect; (try dsimp only); (repeat' first | with_reducible apply kept_ite | split) <;> simp [Kept]

@[simp] theorem parLeak_keeps (c : Cabinet) :
    Kept (parLeak c) c := by
  unfold parLeak; (try dsimp only); (repeat' split) <;> simp [Kept]

@[simp] theorem parUncorrect_keeps (mem addr fail : Nat) (c : Cabinet) :
    Kept (parUncorrect mem addr fail c) c := by
  unfold parUncorrect; (try dsimp only); (repeat' split) <;> simp [Kept]

@[simp] theorem wordUncorrect_keeps (a fails : Nat) (c : Cabinet) :
    Kept (wordUncorrect a fails c) c := by
  unfold wordUncorrect; (try dsimp only); (repeat' split) <;> simp [Kept]

@[simp] theorem loadCheck_keeps (a n : Nat) (c : Cabinet) :
    Kept ((loadCheck a n c).1) c := by
  unfold loadCheck; (try dsimp only); (repeat' split) <;> simp [Kept]

@[simp] theorem popCheck_keeps (a : Nat) (c : Cabinet) :
    Kept ((popCheck a c).1) c := by
  unfold popCheck; (try dsimp only); (repeat' split) <;> simp [Kept]

@[simp] theorem parTestWrite_keeps (v : Word) (c : Cabinet) :
    Kept (parTestWrite v c) c := by
  unfold parTestWrite; (try dsimp only); (repeat' split) <;> simp [Kept]

@[simp] theorem parSet_keeps (off : Nat) (v : Word) (c : Cabinet) :
    Kept (parSet off v c) c := by
  unfold parSet; (try dsimp only); (repeat' split) <;> simp [Kept]

end Sys2Proof.Machine
end

