-- ==== Sys2Proof/Laws/KeepsOrderPort.lean ====
section
/-!
SUPPORT. What the operations of Machine/OrderPort.lean leave unchanged in a cabinet.
-/
namespace Sys2Proof.Machine

@[simp] theorem setRep_mems (c : Cabinet) (r : Nat) (x : RepRing) :
    (setRep c r x).mems = c.mems := by
  simp [setRep]

@[simp] theorem setRep_core (c : Cabinet) (r : Nat) (x : RepRing) :
    (setRep c r x).core = c.core := by
  simp [setRep]

@[simp] theorem pushRefused_mems (bits : Word) (c : Cabinet) :
    (pushRefused bits c).mems = c.mems := by
  unfold pushRefused; (try dsimp only); (repeat' split) <;> simp

@[simp] theorem pushRefused_core (bits : Word) (c : Cabinet) :
    (pushRefused bits c).core = c.core := by
  unfold pushRefused; (try dsimp only); (repeat' split) <;> simp

@[simp] theorem pushAppend_mems (r : Nat) (x : RepRing) (kind : Nat) (body : List Word) (c : Cabinet) :
    (pushAppend r x kind body c).mems = c.mems := by
  simp [pushAppend]

@[simp] theorem pushAppend_core (r : Nat) (x : RepRing) (kind : Nat) (body : List Word) (c : Cabinet) :
    (pushAppend r x kind body c).core = c.core := by
  simp [pushAppend]

@[simp] theorem portPush_mems (r kind : Nat) (bad : Bool) (body : List Word) (c : Cabinet) :
    ((portPush r kind bad body c).1).mems = c.mems := by
  first
  | rfl
  | unfold portPush; (try dsimp only); (repeat' first | with_reducible apply part_ite Cabinet.mems | split) <;> simp

@[simp] theorem portPush_core (r kind : Nat) (bad : Bool) (body : List Word) (c : Cabinet) :
    ((portPush r kind bad body c).1).core = c.core := by
  first
  | rfl
  | unfold portPush; (try dsimp only); (repeat' first | with_reducible apply part_ite Cabinet.core | split) <;> simp

@[simp] theorem ordPush_mems (r lenw kind : Nat) (c : Cabinet) :
    (ordPush r lenw kind c).mems = c.mems := by
  unfold ordPush; (try dsimp only); (repeat' split) <;> simp

@[simp] theorem ordPush_core (r lenw kind : Nat) (c : Cabinet) :
    (ordPush r lenw kind c).core = c.core := by
  unfold ordPush; (try dsimp only); (repeat' split) <;> simp

@[simp] theorem dumpPush_mems (r : Nat) (body : List Word) (c : Cabinet) :
    ((dumpPush r body c).1).mems = c.mems := by
  first
  | rfl
  | unfold dumpPush; (try dsimp only); (repeat' first | with_reducible apply part_ite Cabinet.mems | split) <;> simp

@[simp] theorem dumpPush_core (r : Nat) (body : List Word) (c : Cabinet) :
    ((dumpPush r body c).1).core = c.core := by
  first
  | rfl
  | unfold dumpPush; (try dsimp only); (repeat' first | with_reducible apply part_ite Cabinet.core | split) <;> simp

@[simp] theorem releaseReports_mems (r n : Nat) (c : Cabinet) :
    (releaseReports r n c).mems = c.mems := by
  unfold releaseReports; (try dsimp only); (repeat' split) <;> simp

@[simp] theorem releaseReports_core (r n : Nat) (c : Cabinet) :
    (releaseReports r n c).core = c.core := by
  unfold releaseReports; (try dsimp only); (repeat' split) <;> simp

@[simp] theorem orderAvailable_mems (o : PortOrder) (c : Cabinet) :
    (orderAvailable o c).mems = c.mems := by
  unfold orderAvailable; (try dsimp only); (repeat' split) <;> simp

@[simp] theorem orderAvailable_core (o : PortOrder) (c : Cabinet) :
    (orderAvailable o c).core = c.core := by
  unfold orderAvailable; (try dsimp only); (repeat' split) <;> simp

@[simp] theorem portAdvance_mems (c : Cabinet) :
    (portAdvance c).mems = c.mems := by
  unfold portAdvance; (try dsimp only); (repeat' split) <;> simp [apply_ite Cabinet.mems]

@[simp] theorem portAdvance_core (c : Cabinet) :
    (portAdvance c).core = c.core := by
  unfold portAdvance; (try dsimp only); (repeat' split) <;> simp [apply_ite Cabinet.core]

@[simp] theorem ordPop_mems (r : Nat) (c : Cabinet) :
    (ordPop r c).mems = c.mems := by
  unfold ordPop; (try dsimp only); (repeat' split) <;> simp

@[simp] theorem ordPop_core (r : Nat) (c : Cabinet) :
    (ordPop r c).core = c.core := by
  unfold ordPop; (try dsimp only); (repeat' split) <;> simp

@[simp] theorem ordDone_mems (tag : Word) (c : Cabinet) :
    (ordDone tag c).mems = c.mems := by
  unfold ordDone; (try dsimp only); (repeat' split) <;> simp

@[simp] theorem ordDone_core (tag : Word) (c : Cabinet) :
    (ordDone tag c).core = c.core := by
  unfold ordDone; (try dsimp only); (repeat' split) <;> simp

@[simp] theorem ordReset_mems (c : Cabinet) :
    (ordReset c).mems = c.mems := by
  unfold ordReset; (try dsimp only); (repeat' split) <;> simp

@[simp] theorem ordReset_core (c : Cabinet) :
    (ordReset c).core = c.core := by
  unfold ordReset; (try dsimp only); (repeat' split) <;> simp

@[simp] theorem ordReadEffect_mems (off : Nat) (c : Cabinet) :
    (ordReadEffect off c).mems = c.mems := by
  unfold ordReadEffect; (try dsimp only); (repeat' split) <;> simp

@[simp] theorem ordReadEffect_core (off : Nat) (c : Cabinet) :
    (ordReadEffect off c).core = c.core := by
  unfold ordReadEffect; (try dsimp only); (repeat' split) <;> simp

@[simp] theorem ordSet_mems (off : Nat) (v w : Word) (c : Cabinet) :
    (ordSet off v w c).mems = c.mems := by
  unfold ordSet; (try dsimp only); (repeat' split) <;> simp

@[simp] theorem ordSet_core (off : Nat) (v w : Word) (c : Cabinet) :
    (ordSet off v w c).core = c.core := by
  unfold ordSet; (try dsimp only); (repeat' split) <;> simp

end Sys2Proof.Machine
end

