-- ==== Sys2Proof/Laws/KeepsPerf.lean ====
section
/-!
SUPPORT. What the operations of Machine/Perf.lean leave unchanged in a cabinet.
-/
namespace Sys2Proof.Machine

@[simp] theorem dumpMiss_keeps (c : Cabinet) :
    Kept (dumpMiss c) c := by
  unfold dumpMiss; (try dsimp only); (repeat' split) <;> simp [Kept]

@[simp] theorem dumpSnapshot_keeps (cnt : Vector (BitVec 48) 64) (c : Cabinet) :
    Kept (dumpSnapshot cnt c) c := by
  unfold dumpSnapshot; (try dsimp only); (repeat' split) <;> simp [Kept]

@[simp] theorem dumpDone_keeps (c : Cabinet) :
    Kept (dumpDone c) c := by
  unfold dumpDone; (try dsimp only); (repeat' split) <;> simp [Kept]

@[simp] theorem dumpWord_core (a : Nat) (w : Word) (c : Cabinet) :
    (dumpWord a w c).core = c.core := by
  first
  | rfl
  | unfold dumpWord; (try dsimp only); (repeat' first | with_reducible apply part_ite Cabinet.core | split) <;> simp

@[simp] theorem dumpComplete_core (c : Cabinet) :
    (dumpComplete c).core = c.core := by
  first
  | rfl
  | unfold dumpComplete; (try dsimp only); (repeat' first | with_reducible apply part_ite Cabinet.core | split) <;> simp

@[simp] theorem smpStore_keeps (c : Cabinet) :
    Kept (smpStore c) c := by
  unfold smpStore; (try dsimp only); (repeat' split) <;> simp [Kept]

@[simp] theorem smpRetire_keeps (a : Attr) (ws : List Word) (c : Cabinet) :
    Kept (smpRetire a ws c) c := by
  unfold smpRetire; (try dsimp only); (repeat' split) <;> simp [Kept]

@[simp] theorem counterWrap_keeps (n : Fin 64) (c : Cabinet) :
    Kept (counterWrap n c) c := by
  unfold counterWrap; (try dsimp only); (repeat' split) <;> simp [Kept]

@[simp] theorem prfReset_keeps (c : Cabinet) :
    Kept (prfReset c) c := by
  unfold prfReset; (try dsimp only); (repeat' split) <;> simp [Kept]

end Sys2Proof.Machine
end

