-- ==== Sys2Proof/Laws/KeepsDecodeTable.lean ====
section
/-!
SUPPORT. What the operations of Machine/DecodeTable.lean leave unchanged in a cabinet.
-/
namespace Sys2Proof.Machine

@[simp] theorem setSlot_mems (c : Cabinet) (n : Fin 16) (s : Slot) :
    (setSlot c n s).mems = c.mems := by
  simp [setSlot]

@[simp] theorem setSlot_core (c : Cabinet) (n : Fin 16) (s : Slot) :
    (setSlot c n s).core = c.core := by
  simp [setSlot]

@[simp] theorem slotValidate_mems (n : Fin 16) (c : Cabinet) :
    (slotValidate n c).mems = c.mems := by
  unfold slotValidate; (try dsimp only); (repeat' split) <;> simp

@[simp] theorem slotValidate_core (n : Fin 16) (c : Cabinet) :
    (slotValidate n c).core = c.core := by
  unfold slotValidate; (try dsimp only); (repeat' split) <;> simp

@[simp] theorem decDenied_keeps (c : Cabinet) :
    Kept (decDenied c) c := by
  unfold decDenied; (try dsimp only); (repeat' split) <;> simp [Kept]

@[simp] theorem slotWrite_mems (loader : Bool) (n : Fin 16) (v : Word) (c : Cabinet) :
    (slotWrite loader n v c).mems = c.mems := by
  unfold slotWrite; (try dsimp only); (repeat' split) <;> simp

@[simp] theorem slotWrite_core (loader : Bool) (n : Fin 16) (v : Word) (c : Cabinet) :
    (slotWrite loader n v c).core = c.core := by
  unfold slotWrite; (try dsimp only); (repeat' split) <;> simp

@[simp] theorem uopWrite_mems (loader : Bool) (i : Fin 256) (high : Bool) (w : Word) (c : Cabinet) :
    (uopWrite loader i high w c).mems = c.mems := by
  unfold uopWrite; (try dsimp only); (repeat' split) <;> simp

@[simp] theorem uopWrite_core (loader : Bool) (i : Fin 256) (high : Bool) (w : Word) (c : Cabinet) :
    (uopWrite loader i high w c).core = c.core := by
  unfold uopWrite; (try dsimp only); (repeat' split) <;> simp

@[simp] theorem decReset_mems (c : Cabinet) :
    (decReset c).mems = c.mems := by
  simp [decReset]

@[simp] theorem decReset_core (c : Cabinet) :
    (decReset c).core = c.core := by
  simp [decReset]

@[simp] theorem decSet_mems (loader : Bool) (off : Nat) (v : Word) (c : Cabinet) :
    (decSet loader off v c).mems = c.mems := by
  unfold decSet; (try dsimp only); (repeat' split) <;> simp

@[simp] theorem decSet_core (loader : Bool) (off : Nat) (v : Word) (c : Cabinet) :
    (decSet loader off v c).core = c.core := by
  unfold decSet; (try dsimp only); (repeat' split) <;> simp

end Sys2Proof.Machine
end

