-- ==== Sys2Proof/Laws/KeepsRegisterFile.lean ====
section
/-!
SUPPORT. What the operations of Machine/RegisterFile.lean leave unchanged in a cabinet.
-/
namespace Sys2Proof.Machine

@[simp] theorem bankReq_keeps (req : Bool) (c : Cabinet) :
    Kept (bankReq req c) c := by
  unfold bankReq; (try dsimp only); (repeat' split) <;> simp [Kept]

@[simp] theorem setCabFrame_keeps (v : Word) (c : Cabinet) :
    Kept (setCabFrame v c) c := by
  unfold setCabFrame; (try dsimp only); (repeat' split) <;> simp [Kept]

@[simp] theorem cabSet_keeps (off : Nat) (v : Word) (c : Cabinet) :
    Kept (cabSet off v c) c := by
  unfold cabSet; (try dsimp only); (repeat' split) <;> simp [Kept]

@[simp] theorem blockReadEffect_mems (b : Blk) (off : Nat) (c : Cabinet) :
    (blockReadEffect b off c).mems = c.mems := by
  unfold blockReadEffect; (try dsimp only); (repeat' split) <;> simp

@[simp] theorem blockReadEffect_core (b : Blk) (off : Nat) (c : Cabinet) :
    (blockReadEffect b off c).core = c.core := by
  unfold blockReadEffect; (try dsimp only); (repeat' split) <;> simp

@[simp] theorem blockSet_mems (loader : Bool) (b : Blk) (off : Nat) (v w : Word) (c : Cabinet) :
    (blockSet loader b off v w c).mems = c.mems := by
  unfold blockSet; (try dsimp only); (repeat' split) <;> simp

@[simp] theorem blockSet_core (loader : Bool) (b : Blk) (off : Nat) (v w : Word) (c : Cabinet) :
    (blockSet loader b off v w c).core = c.core := by
  unfold blockSet; (try dsimp only); (repeat' split) <;> simp

@[simp] theorem regRead_mems (a : Nat) (c : Cabinet) :
    (regRead a c).mems = c.mems := by
  unfold regRead; (try dsimp only); (repeat' split) <;> simp

@[simp] theorem regRead_core (a : Nat) (c : Cabinet) :
    (regRead a c).core = c.core := by
  unfold regRead; (try dsimp only); (repeat' split) <;> simp

@[simp] theorem regApply_mems (loader : Bool) (a : Nat) (w : Word) (c : Cabinet) :
    (regApply loader a w c).mems = c.mems := by
  unfold regApply; (try dsimp only); (repeat' split) <;> simp

@[simp] theorem regApply_core (loader : Bool) (a : Nat) (w : Word) (c : Cabinet) :
    (regApply loader a w c).core = c.core := by
  unfold regApply; (try dsimp only); (repeat' split) <;> simp

@[simp] theorem regWrite_mems (l : Level) (a : Nat) (w : Word) (c : Cabinet) :
    (regWrite l a w c).mems = c.mems := by
  unfold regWrite; (try dsimp only); (repeat' split) <;> simp

@[simp] theorem regWrite_core (l : Level) (a : Nat) (w : Word) (c : Cabinet) :
    (regWrite l a w c).core = c.core := by
  unfold regWrite; (try dsimp only); (repeat' split) <;> simp

end Sys2Proof.Machine
end

