-- ==== Sys2Proof/Laws/KeepsStore.lean ====
section
/-!
SUPPORT. What the operations of Machine/Store.lean leave unchanged in a cabinet.
-/
namespace Sys2Proof.Machine

@[simp] theorem drainRegister_mems (e : StoreEntry) (c : Cabinet) :
    (drainRegister e c).mems = c.mems := by
  unfold drainRegister; (try dsimp only); (repeat' split) <;> simp

@[simp] theorem drainRegister_core (e : StoreEntry) (c : Cabinet) :
    (drainRegister e c).core = c.core := by
  unfold drainRegister; (try dsimp only); (repeat' split) <;> simp

@[simp] theorem drainMemory_core (e : StoreEntry) (c : Cabinet) :
    (drainMemory e c).core = c.core := by
  unfold drainMemory; (try dsimp only); (repeat' split) <;> simp

@[simp] theorem drainOne_core (c : Cabinet) :
    (drainOne c).core = c.core := by
  unfold drainOne; (try dsimp only); (repeat' split) <;> simp

@[simp] theorem drainN_core (n : Nat) (c : Cabinet) : (drainN n c).core = c.core := by
  induction n generalizing c with
  | zero => rfl
  | succ n ih => simp [drainN, ih]

@[simp] theorem drainAll_core (c : Cabinet) : (drainAll c).core = c.core := by
  simp [drainAll]

@[simp] theorem storeDrain_core (c : Cabinet) :
    (storeDrain c).core = c.core := by
  unfold storeDrain; (try dsimp only); (repeat' split) <;> simp

end Sys2Proof.Machine
end

