-- ==== Sys2Proof/Laws/KeepsFrame.lean ====
section
/-!
SUPPORT. What the operations of Machine/Frame.lean leave unchanged in a cabinet.
-/
namespace Sys2Proof.Machine

@[simp] theorem beginPark_mems (ticket : Option Nat) (c : Cabinet) :
    (beginPark ticket c).mems = c.mems := by
  unfold beginPark; (try dsimp only); (repeat' split) <;> simp

@[simp] theorem beginPark_core (ticket : Option Nat) (c : Cabinet) :
    (beginPark ticket c).core = c.core := by
  unfold beginPark; (try dsimp only); (repeat' split) <;> simp

@[simp] theorem takeTransition_mems (p : Pending) (c : Cabinet) :
    (takeTransition p c).mems = c.mems := by
  unfold takeTransition; (try dsimp only); (repeat' split) <;> simp

@[simp] theorem takeTransition_core (p : Pending) (c : Cabinet) :
    (takeTransition p c).core = c.core := by
  unfold takeTransition; (try dsimp only); (repeat' split) <;> simp

@[simp] theorem keepPending_keeps (c : Cabinet) :
    Kept (keepPending c) c := by
  unfold keepPending; (try dsimp only); (repeat' split) <;> simp [Kept]

@[simp] theorem lifeEvent_mems (c : Cabinet) :
    (lifeEvent c).mems = c.mems := by
  unfold lifeEvent; (try dsimp only); (repeat' split) <;> simp

@[simp] theorem lifeEvent_core (c : Cabinet) :
    (lifeEvent c).core = c.core := by
  unfold lifeEvent; (try dsimp only); (repeat' split) <;> simp

@[simp] theorem endRun_keeps (n : Nat) (c : Cabinet) :
    Kept (endRun n c) c := by
  unfold endRun; (try dsimp only); (repeat' split) <;> simp [Kept]

@[simp] theorem guardAct_keeps (c : Cabinet) :
    Kept (guardAct c) c := by
  unfold guardAct; (try dsimp only); (repeat' split) <;> simp [Kept]

@[simp] theorem frameGuard_keeps (c : Cabinet) :
    Kept (frameGuard c) c := by
  unfold frameGuard; (try dsimp only); (repeat' split) <;> simp [Kept]

@[simp] theorem runOverrun_keeps (n : Nat) (c : Cabinet) :
    Kept (runOverrun n c) c := by
  unfold runOverrun; (try dsimp only); (repeat' split) <;> simp [Kept]

@[simp] theorem sampleInstant_mems (vd : Vector Int 8) (c : Cabinet) :
    (sampleInstant vd c).mems = c.mems := by
  first
  | rfl
  | unfold sampleInstant; (try dsimp only); (repeat' first | with_reducible apply part_ite Cabinet.mems | split) <;> simp

@[simp] theorem sampleInstant_core (vd : Vector Int 8) (c : Cabinet) :
    (sampleInstant vd c).core = c.core := by
  first
  | rfl
  | unfold sampleInstant; (try dsimp only); (repeat' first | with_reducible apply part_ite Cabinet.core | split) <;> simp

@[simp] theorem takeSamples_mems (codes : Vector (BitVec 14) 4) (c : Cabinet) :
    (takeSamples codes c).mems = c.mems := by
  unfold takeSamples; (try dsimp only); (repeat' split) <;> simp

@[simp] theorem advancePos_keeps (p : Nat) (c : Cabinet) :
    Kept (advancePos p c) c := by
  unfold advancePos; (try dsimp only); (repeat' split) <;> simp [Kept]

@[simp] theorem portCommitAt_keeps (c : Cabinet) :
    Kept (portCommitAt c) c := by
  unfold portCommitAt; (try dsimp only); (repeat' split) <;> simp [Kept]

@[simp] theorem shadowLatchAt_keeps (c : Cabinet) :
    Kept (shadowLatchAt c) c := by
  unfold shadowLatchAt; (try dsimp only); (repeat' split) <;> simp [Kept]

@[simp] theorem updatePoint_keeps (half : Bool) (early : Option Nat) (c : Cabinet) :
    Kept (updatePoint half early c) c := by
  unfold updatePoint; (try dsimp only); (repeat' split) <;> simp [Kept]

@[simp] theorem applyClockSwitch_mems (c : Cabinet) :
    (applyClockSwitch c).mems = c.mems := by
  unfold applyClockSwitch; (try dsimp only); (repeat' split) <;> simp

@[simp] theorem applyClockSwitch_core (c : Cabinet) :
    (applyClockSwitch c).core = c.core := by
  unfold applyClockSwitch; (try dsimp only); (repeat' split) <;> simp

@[simp] theorem swapEvent_keeps (c : Cabinet) :
    Kept (swapEvent c) c := by
  unfold swapEvent; (try dsimp only); (repeat' split) <;> simp [Kept]

@[simp] theorem boundaryEvents_mems (starting wake : Bool) (cnt : Vector (BitVec 48) 64) (c : Cabinet) :
    (boundaryEvents starting wake cnt c).mems = c.mems := by
  unfold boundaryEvents; (try dsimp only); (repeat' split) <;> simp

@[simp] theorem boundaryEvents_core (starting wake : Bool) (cnt : Vector (BitVec 48) 64) (c : Cabinet) :
    (boundaryEvents starting wake cnt c).core = c.core := by
  unfold boundaryEvents; (try dsimp only); (repeat' split) <;> simp

@[simp] theorem frameBoundary_mems (c : Cabinet) :
    (frameBoundary c).mems = c.mems := by
  unfold frameBoundary; (try dsimp only); (repeat' split) <;> simp

@[simp] theorem frameBoundary_core (c : Cabinet) :
    (frameBoundary c).core = c.core := by
  unfold frameBoundary; (try dsimp only); (repeat' split) <;> simp

@[simp] theorem updatePointU1_keeps (c : Cabinet) :
    Kept (updatePointU1 c) c := by
  unfold updatePointU1; (try dsimp only); (repeat' split) <;> simp [Kept]

@[simp] theorem heartbeatPeriod_keeps (c : Cabinet) :
    Kept (heartbeatPeriod c) c := by
  unfold heartbeatPeriod; (try dsimp only); (repeat' split) <;> simp [Kept]

end Sys2Proof.Machine
end

