-- ==== Sys2Proof/Laws/KeepsCoreRegs.lean ====
section
/-!
SUPPORT. What the operations of Machine/CoreRegs.lean leave unchanged in a cabinet.
-/
namespace Sys2Proof.Machine

@[simp] theorem setCtx_mems (x : Ctx) (c : Cabinet) :
    (setCtx x c).mems = c.mems := by
  unfold setCtx; (try dsimp only); (repeat' split) <;> simp

@[simp] theorem setD_mems (i : Fin 16) (v : Word) (c : Cabinet) :
    (setD i v c).mems = c.mems := by
  unfold setD; (try dsimp only); (repeat' split) <;> simp

@[simp] theorem setSp_mems (l : Level) (v : Word) (c : Cabinet) :
    (setSp l v c).mems = c.mems := by
  unfold setSp; (try dsimp only); (repeat' split) <;> simp

@[simp] theorem setA_mems (i : Nat) (v : Word) (c : Cabinet) :
    (setA i v c).mems = c.mems := by
  unfold setA; (try dsimp only); (repeat' split) <;> simp

@[simp] theorem setAcc_mems (x : Fin 2) (v : Acc) (c : Cabinet) :
    (setAcc x v c).mems = c.mems := by
  unfold setAcc; (try dsimp only); (repeat' split) <;> simp

@[simp] theorem setFlags_mems (w : Word) (c : Cabinet) :
    (setFlags w c).mems = c.mems := by
  unfold setFlags; (try dsimp only); (repeat' split) <;> simp

@[simp] theorem putFlags_mems (u : FlagUpd) (c : Cabinet) :
    (putFlags u c).mems = c.mems := by
  unfold putFlags; (try dsimp only); (repeat' split) <;> simp

@[simp] theorem ctlSetNow_mems (n : Nat) (v : Word) (c : Cabinet) :
    (ctlSetNow n v c).mems = c.mems := by
  unfold ctlSetNow; (try dsimp only); (repeat' split) <;> simp

@[simp] theorem applyDeferred_mems (x : Deferred) (c : Cabinet) :
    (applyDeferred x c).mems = c.mems := by
  unfold applyDeferred; (try dsimp only); (repeat' split) <;> simp

@[simp] theorem applyAllDeferred_mems (c : Cabinet) :
    (applyAllDeferred c).mems = c.mems := by
  unfold applyAllDeferred; (try dsimp only); (repeat' split) <;> simp

@[simp] theorem ageDeferred_mems (c : Cabinet) :
    (ageDeferred c).mems = c.mems := by
  unfold ageDeferred; (try dsimp only); (repeat' split) <;> simp

@[simp] theorem defer_keeps (n : Nat) (v : Word) (c : Cabinet) :
    Kept (defer n v c) c := by
  unfold defer; (try dsimp only); (repeat' split) <;> simp [Kept]

@[simp] theorem ctlWrite_mems (n : Nat) (w : Word) (c : Cabinet) :
    (ctlWrite n w c).mems = c.mems := by
  unfold ctlWrite; (try dsimp only); (repeat' split) <;> simp

end Sys2Proof.Machine
end

