-- ==== Sys2Proof/Laws/KeepsOperands.lean ====
section
/-!
SUPPORT. What the operations of Machine/Operands.lean leave unchanged in a cabinet.
-/
namespace Sys2Proof.Machine

@[simp] theorem Ret_faulted_keeps (c : Cabinet) (e : Exc) (ops : List Micro) :
    Kept ((Ret.faulted c e ops).c) c := by
  unfold Ret.faulted; (try dsimp only); (repeat' split) <;> simp [Kept]

@[simp] theorem illegal_keeps (c : Cabinet) :
    Kept ((illegal c).c) c := by
  unfold illegal; (try dsimp only); (repeat' split) <;> simp [Kept]

@[simp] theorem privileged_keeps (c : Cabinet) :
    Kept ((privileged c).c) c := by
  unfold privileged; (try dsimp only); (repeat' split) <;> simp [Kept]

@[simp] theorem countRead_keeps (a : Nat) (c : Cabinet) :
    Kept (countRead a c) c := by
  unfold countRead; (try dsimp only); (repeat' split) <;> simp [Kept]

@[simp] theorem loadMem_core (pop : Bool) (k : Cls) (a n : Nat) (c : Cabinet) :
    (loadMem pop k a n c).1.core = c.core := by
  unfold loadMem; (try dsimp only); (repeat' split) <;> simp

@[simp] theorem startReg_keeps (k : Cls) (a : Nat) (c : Cabinet) :
    Kept (startReg k a c) c := by
  unfold startReg; (try dsimp only); (repeat' first | with_reducible apply kept_ite | split) <;> simp [Kept]

@[simp] theorem loadReg_core (k : Cls) (a : Nat) (c : Cabinet) :
    (loadReg k a c).1.core = c.core := by
  unfold loadReg; (try dsimp only); (repeat' split) <;> simp

@[simp] theorem load_core (k : Cls) (a : Word) (n : Nat) (c : Cabinet) :
    (load k a n c).1.core = c.core := by
  unfold load; (try dsimp only); (repeat' split) <;> simp

@[simp] theorem loadStarted_core (k : Cls) (c : Cabinet) (a : Word) :
    (loadStarted k c a).core = c.core := by
  first
  | rfl
  | unfold loadStarted; (try dsimp only); (repeat' first | with_reducible apply part_ite Cabinet.core | split) <;> simp

@[simp] theorem loadStops_core (k : Cls) (earlier : List Word) (a : Word) (c : Cabinet) :
    (loadStops k earlier a c).core = c.core := by
  first
  | rfl
  | unfold loadStops; (try dsimp only); (repeat' first | with_reducible apply part_ite Cabinet.core | split) <;> simp

@[simp] theorem popWordAt_core (a : Word) (c : Cabinet) :
    (popWordAt a c).1.core = c.core := by
  unfold popWordAt; (try dsimp only); (repeat' split) <;> simp

@[simp] theorem pushStore_core (k : Cls) (a : Word) (n : Nat) (v : Word) (c : Cabinet) :
    (pushStore k a n v c).core = c.core := by
  unfold pushStore; (try dsimp only); (repeat' split) <;> simp

@[simp] theorem stepMode_mems (m : Mode) (i n : Nat) (c : Cabinet) :
    (stepMode m i n c).mems = c.mems := by
  unfold stepMode; (try dsimp only); (repeat' split) <;> simp

end Sys2Proof.Machine
end

