-- ==== Sys2Proof/Laws/KeepsExceptions.lean ====
section
/-!
SUPPORT. What the operations of Machine/Exceptions.lean leave unchanged in a cabinet.
-/
namespace Sys2Proof.Machine

@[simp] theorem clearPick_keeps (k : Pick) (c : Cabinet) :
    Kept (clearPick k c) c := by
  unfold clearPick; (try dsimp only); (repeat' split) <;> simp [Kept]

@[simp] theorem coreStop_keeps (c : Cabinet) :
    Kept (coreStop c) c := by
  unfold coreStop; (try dsimp only); (repeat' split) <;> simp [Kept]

@[simp] theorem entryPush_core (l : Level) (sp : Word) (v : Word) (c : Cabinet) :
    (entryPush l sp v c).core = c.core := by
  unfold entryPush; (try dsimp only); (repeat' split) <;> simp

@[simp] theorem countEntry_keeps (vec : Nat) (l : Level) (c : Cabinet) :
    Kept (countEntry vec l c) c := by
  unfold countEntry; (try dsimp only); (repeat' split) <;> simp [Kept]

@[simp] theorem entryRegs_mems (e : Exc) (l : Level) (run : Bool) (resume sp : Word) (c : Cabinet) :
    (entryRegs e l run resume sp c).mems = c.mems := by
  unfold entryRegs; (try dsimp only); (repeat' split) <;> simp

@[simp] theorem unpush_core (saved : List SavedByte) (c : Cabinet) :
    (unpush saved c).core = c.core := by
  first
  | rfl
  | unfold unpush; (try dsimp only); (repeat' first | with_reducible apply part_ite Cabinet.core | split) <;> simp

end Sys2Proof.Machine
end

