-- ==== Sys2Proof/Laws/KeepsIssue.lean ====
section
/-!
SUPPORT. What the operations of Machine/Issue.lean leave unchanged in a cabinet.
-/
namespace Sys2Proof.Machine

@[simp] theorem cachePut_keeps (l : CacheLine) (c : Cabinet) :
    Kept (cachePut l c) c := by
  unfold cachePut; (try dsimp only); (repeat' first | with_reducible apply kept_ite | split) <;> simp [Kept]

@[simp] theorem cacheDrop_keeps (line : Nat) (c : Cabinet) :
    Kept (cacheDrop line c) c := by
  unfold cacheDrop; (try dsimp only); (repeat' split) <;> simp [Kept]

@[simp] theorem deliverLine_keeps (l : CacheLine) (c : Cabinet) :
    Kept (deliverLine l c) c := by
  unfold deliverLine; (try dsimp only); (repeat' first | with_reducible apply kept_ite | split) <;> simp [Kept]

@[simp] theorem countFill_keeps (a : Nat) (c : Cabinet) :
    Kept (countFill a c) c := by
  unfold countFill; (try dsimp only); (repeat' split) <;> simp [Kept]

@[simp] theorem startFill_keeps (a : Nat) (c : Cabinet) :
    Kept (startFill a c) c := by
  unfold startFill; (try dsimp only); (repeat' first | with_reducible apply kept_ite | split) <;> simp [Kept]

@[simp] theorem redirectFill_keeps (c : Cabinet) :
    Kept (redirectFill c) c := by
  unfold redirectFill; (try dsimp only); (repeat' first | with_reducible apply kept_ite | split) <;> simp [Kept]

@[simp] theorem bufPut_keeps (a : Nat) (x : FetchGroup) (c : Cabinet) :
    Kept (bufPut a x c) c := by
  unfold bufPut; (try dsimp only); (repeat' first | with_reducible apply kept_ite | split) <;> simp [Kept]

@[simp] theorem bufTrim_keeps (g : Nat) (c : Cabinet) :
    Kept (bufTrim g c) c := by
  unfold bufTrim; (try dsimp only); (repeat' first | with_reducible apply kept_ite | split) <;> simp [Kept]

@[simp] theorem checkWord_keeps (a : Nat) (w : BitVec 16) (c : Cabinet) :
    Kept ((checkWord a w c).1) c := by
  unfold checkWord; (try dsimp only); (repeat' first | with_reducible apply kept_ite | split) <;> simp [Kept]

@[simp] theorem endRunExc_keeps (e : Exc) (n : Nat) (c : Cabinet) :
    Kept (endRunExc e n c) c := by
  unfold endRunExc; (try dsimp only); (repeat' split) <;> simp [Kept]

@[simp] theorem dutyRetired_keeps (mask : Nat) (vals : List Word) (n : Nat) (c : Cabinet) :
    Kept (dutyRetired mask vals n c) c := by
  unfold dutyRetired; (try dsimp only); (repeat' split) <;> simp [Kept]

@[simp] theorem countWaits_keeps (k : Cls) (data : Option Nat) (old new : Waits) (pc : Nat) (c : Cabinet) :
    Kept (countWaits k data old new pc c) c := by
  unfold countWaits; (try dsimp only); (repeat' first | with_reducible apply kept_ite | split) <;> simp [Kept]

@[simp] theorem recountDuty_keeps (s : Sched) (c : Cabinet) :
    Kept (recountDuty s c) c := by
  unfold recountDuty; (try dsimp only); (repeat' first | with_reducible apply kept_ite | split) <;> simp [Kept]

theorem hitGroup_keeps (a : Nat) (c : Cabinet) (x : Cabinet × FetchGroup) (h : hitGroup a c = some x) : Kept x.1 c := by
  unfold hitGroup at h; dsimp only at h; (repeat' split at h) <;> simp at h <;> subst h <;> simp [Kept]

@[simp] theorem completeFill_keeps (a : Nat) (c : Cabinet) : Kept (completeFill a c).1 c := by
  unfold completeFill; dsimp only; (repeat' split) <;> simp [Kept]

@[simp] theorem fetchWord_keeps (a : Nat) (c : Cabinet) : Kept (fetchWord a c).1 c := by
  unfold fetchWord; split
  · simp [Kept]
  · split
    · simp [Kept]
    · split
      · rename_i h; have := hitGroup_keeps _ _ _ h; simp only [Kept] at this; simp [Kept, this]
      · simp [Kept]

@[simp] theorem prefetch_keeps (g : Nat) (c : Cabinet) : Kept (prefetch g c) c := by
  unfold prefetch; split
  · simp [Kept]
  · split
    · rename_i h; have := hitGroup_keeps _ _ _ h; simp only [Kept] at this; simp [Kept, this]
    · split <;> simp [Kept]

@[simp] theorem fetchSecond_keeps (w1 : Syl) (c : Cabinet) : Kept (fetchSecond w1 c).c c := by
  unfold fetchSecond; split <;> simp [Kept]

@[simp] theorem fetchInstr_keeps (c : Cabinet) : Kept (fetchInstr c).c c := by
  unfold fetchInstr; dsimp only; (repeat' split) <;> simp [Kept]

@[simp] theorem countRetired_keeps (k : Cls) (w1 w2 : Syl) (t : Option Timing) (r : Ret) (c : Cabinet) :
    Kept (countRetired k w1 w2 t r c) r.c := by
  unfold countRetired; dsimp only; (repeat' split) <;> simp [Kept]

@[simp] theorem countFaulted_keeps (k : Cls) (c d : Cabinet) : Kept (countFaulted k c d) d := by
  simp [countFaulted, Kept]

end Sys2Proof.Machine
end

