-- ==== Sys2Proof/Laws/KeepsAluBodies.lean ====
section
/-!
SUPPORT. What the operations of Machine/AluBodies.lean leave unchanged in a cabinet.
-/
namespace Sys2Proof.Machine

@[simp] theorem aluBody_mems (op : AluOp) (rd : Fin 16) (b : Word) (src : List Res) (c : Cabinet) :
    (aluBody op rd b src c).c.mems = c.mems := by
  unfold aluBody; (try dsimp only); (repeat' split) <;> simp

@[simp] theorem aluReg_mems (op : AluOp) (rd rs : Fin 16) (c : Cabinet) :
    (aluReg op rd rs c).c.mems = c.mems := by
  unfold aluReg; (try dsimp only); (repeat' split) <;> simp

@[simp] theorem aluImm_mems (op : AluOp) (rd : Fin 16) (imm : Word) (c : Cabinet) :
    (aluImm op rd imm c).c.mems = c.mems := by
  unfold aluImm; (try dsimp only); (repeat' split) <;> simp

@[simp] theorem shlqsBody_mems (rd rs : Fin 16) (n : BitVec 5) (c : Cabinet) :
    (shlqsBody rd rs n c).c.mems = c.mems := by
  unfold shlqsBody; (try dsimp only); (repeat' split) <;> simp

@[simp] theorem resBody_mems (mac : Bool) (lat : Nat) (rd : Fin 16) (r : AluRes) (src dst : List Res) (c : Cabinet) :
    (resBody mac lat rd r src dst c).c.mems = c.mems := by
  unfold resBody; (try dsimp only); (repeat' split) <;> simp

@[simp] theorem mulBody_mems (f : Word → Word → AluRes) (rd rs : Fin 16) (c : Cabinet) :
    (mulBody f rd rs c).c.mems = c.mems := by
  unfold mulBody; (try dsimp only); (repeat' split) <;> simp

@[simp] theorem macBody_mems (op : MacOp) (x : Fin 2) (ra rb : Fin 16) (c : Cabinet) :
    (macBody op x ra rb c).c.mems = c.mems := by
  unfold macBody; (try dsimp only); (repeat' split) <;> simp

@[simp] theorem accReadBody_mems (op : AccRead) (rd : Fin 16) (x : Fin 2) (c : Cabinet) :
    (accReadBody op rd x c).c.mems = c.mems := by
  unfold accReadBody; (try dsimp only); (repeat' split) <;> simp

@[simp] theorem accWriteBody_mems (v : Acc) (x : Fin 2) (src : List Res) (c : Cabinet) :
    (accWriteBody v x src c).c.mems = c.mems := by
  unfold accWriteBody; (try dsimp only); (repeat' split) <;> simp

@[simp] theorem float2Body_mems (f : Word → Word → AluRes) (rd rs : Fin 16) (c : Cabinet) :
    (float2Body f rd rs c).c.mems = c.mems := by
  unfold float2Body; (try dsimp only); (repeat' split) <;> simp

@[simp] theorem float1Body_mems (f : Word → AluRes) (rd : Fin 16) (c : Cabinet) :
    (float1Body f rd c).c.mems = c.mems := by
  unfold float1Body; (try dsimp only); (repeat' split) <;> simp

@[simp] theorem fcmpBody_mems (rd rs : Fin 16) (c : Cabinet) :
    (fcmpBody rd rs c).c.mems = c.mems := by
  unfold fcmpBody; (try dsimp only); (repeat' split) <;> simp

@[simp] theorem fmaddBody_mems (rd rs rt : Fin 16) (c : Cabinet) :
    (fmaddBody rd rs rt c).c.mems = c.mems := by
  unfold fmaddBody; (try dsimp only); (repeat' split) <;> simp

@[simp] theorem longBody_mems (flt : Bool) (n : Nat) (rd : Fin 16) (r : AluRes) (src dst : List Res) (c : Cabinet) :
    (longBody flt n rd r src dst c).c.mems = c.mems := by
  unfold longBody; (try dsimp only); (repeat' split) <;> simp

@[simp] theorem divBody_mems (op : DivOp) (rd rs : Fin 16) (c : Cabinet) :
    (divBody op rd rs c).c.mems = c.mems := by
  unfold divBody; (try dsimp only); (repeat' split) <;> simp

@[simp] theorem sincosBody_mems (rd rs : Fin 16) (c : Cabinet) :
    (sincosBody rd rs c).c.mems = c.mems := by
  unfold sincosBody; (try dsimp only); (repeat' split) <;> simp

@[simp] theorem atan2Body_mems (rd rs : Fin 16) (c : Cabinet) :
    (atan2Body rd rs c).c.mems = c.mems := by
  unfold atan2Body; (try dsimp only); (repeat' split) <;> simp

@[simp] theorem moveD_mems (rd : Fin 16) (v : Word) (src : List Res) (c : Cabinet) :
    (moveD rd v src c).c.mems = c.mems := by
  unfold moveD; (try dsimp only); (repeat' split) <;> simp

@[simp] theorem moveA_mems (ad : Nat) (v : Word) (src : List Res) (c : Cabinet) :
    (moveA ad v src c).c.mems = c.mems := by
  unfold moveA; (try dsimp only); (repeat' split) <;> simp

@[simp] theorem movdBody_mems (rd ra : Fin 16) (c : Cabinet) :
    (movdBody rd ra c).c.mems = c.mems := by
  unfold movdBody; (try dsimp only); (repeat' split) <;> simp

@[simp] theorem movaaBody_mems (ad ra : Fin 16) (c : Cabinet) :
    (movaaBody ad ra c).c.mems = c.mems := by
  unfold movaaBody; (try dsimp only); (repeat' split) <;> simp

@[simp] theorem movBody_mems (rd rs : Fin 16) (c : Cabinet) :
    (movBody rd rs c).c.mems = c.mems := by
  unfold movBody; (try dsimp only); (repeat' split) <;> simp

@[simp] theorem movaBody_mems (ad rs : Fin 16) (c : Cabinet) :
    (movaBody ad rs c).c.mems = c.mems := by
  unfold movaBody; (try dsimp only); (repeat' split) <;> simp

@[simp] theorem addaBody_mems (ad : Fin 8) (imm : BitVec 16) (c : Cabinet) :
    (addaBody ad imm c).c.mems = c.mems := by
  unfold addaBody; (try dsimp only); (repeat' split) <;> simp

@[simp] theorem movhBody_mems (rd : Fin 16) (imm : BitVec 16) (c : Cabinet) :
    (movhBody rd imm c).c.mems = c.mems := by
  unfold movhBody; (try dsimp only); (repeat' split) <;> simp

@[simp] theorem wrqBody_mems (x : Fin 2) (rd : Fin 16) (c : Cabinet) :
    (wrqBody x rd c).c.mems = c.mems := by
  unfold wrqBody; (try dsimp only); (repeat' split) <;> simp

@[simp] theorem wriBody_mems (x : Fin 2) (rd : Fin 16) (c : Cabinet) :
    (wriBody x rd c).c.mems = c.mems := by
  unfold wriBody; (try dsimp only); (repeat' split) <;> simp

@[simp] theorem clrBody_mems (x : Fin 2) (dst : Fin 16) (c : Cabinet) :
    (clrBody x dst c).c.mems = c.mems := by
  unfold clrBody; (try dsimp only); (repeat' split) <;> simp

@[simp] theorem long1Body_mems (flt : Bool) (n : Nat) (f : Word → AluRes) (rd rs : Fin 16) (c : Cabinet) :
    (long1Body flt n f rd rs c).c.mems = c.mems := by
  unfold long1Body; (try dsimp only); (repeat' split) <;> simp

@[simp] theorem long2Body_mems (flt : Bool) (n : Nat) (f : Word → Word → AluRes) (rd rs : Fin 16) (c : Cabinet) :
    (long2Body flt n f rd rs c).c.mems = c.mems := by
  unfold long2Body; (try dsimp only); (repeat' split) <;> simp

end Sys2Proof.Machine
end

