-- ==== Sys2Proof/Laws/KeepsLifecycle.lean ====
section
/-!
SUPPORT. What the operations of Machine/Lifecycle.lean leave unchanged in a cabinet.
-/
namespace Sys2Proof.Machine

@[simp] theorem addPend_keeps (k : LifeCmd) (t : Nat) (c : Cabinet) :
    Kept (addPend k t c) c := by
  unfold addPend; (try dsimp only); (repeat' split) <;> simp [Kept]

@[simp] theorem cabArm_keeps (t : Nat) (c : Cabinet) :
    Kept (cabArm t c) c := by
  unfold cabArm; (try dsimp only); (repeat' split) <;> simp [Kept]

@[simp] theorem cabRun_keeps (t : Nat) (c : Cabinet) :
    Kept (cabRun t c) c := by
  unfold cabRun; (try dsimp only); (repeat' split) <;> simp [Kept]

@[simp] theorem cabPark_mems (t : Nat) (c : Cabinet) :
    (cabPark t c).mems = c.mems := by
  unfold cabPark; (try dsimp only); (repeat' split) <;> simp

@[simp] theorem cabPark_core (t : Nat) (c : Cabinet) :
    (cabPark t c).core = c.core := by
  unfold cabPark; (try dsimp only); (repeat' split) <;> simp

@[simp] theorem beginWake_mems (c : Cabinet) :
    (beginWake c).mems = c.mems := by
  simp [beginWake]

@[simp] theorem beginWake_core (c : Cabinet) :
    (beginWake c).core = c.core := by
  simp [beginWake]

@[simp] theorem cabWake_mems (t : Nat) (c : Cabinet) :
    (cabWake t c).mems = c.mems := by
  unfold cabWake; (try dsimp only); (repeat' split) <;> simp

@[simp] theorem cabWake_core (t : Nat) (c : Cabinet) :
    (cabWake t c).core = c.core := by
  unfold cabWake; (try dsimp only); (repeat' split) <;> simp

@[simp] theorem wakeRestore_mems (ring : BitVec 64) (c : Cabinet) :
    (wakeRestore ring c).mems = c.mems := by
  unfold wakeRestore; (try dsimp only); (repeat' split) <;> simp

@[simp] theorem wakeRestore_core (ring : BitVec 64) (c : Cabinet) :
    (wakeRestore ring c).core = c.core := by
  unfold wakeRestore; (try dsimp only); (repeat' split) <;> simp

@[simp] theorem wakeCal_keeps (target : CabMode) (c : Cabinet) :
    Kept (wakeCal target c) c := by
  unfold wakeCal; (try dsimp only); (repeat' split) <;> simp [Kept]

@[simp] theorem wakeComplete_mems (c : Cabinet) :
    (wakeComplete c).mems = c.mems := by
  unfold wakeComplete; (try dsimp only); (repeat' split) <;> simp

@[simp] theorem wakeComplete_core (c : Cabinet) :
    (wakeComplete c).core = c.core := by
  unfold wakeComplete; (try dsimp only); (repeat' split) <;> simp

@[simp] theorem cabTripClear_keeps (t : Nat) (c : Cabinet) :
    Kept (cabTripClear t c) c := by
  unfold cabTripClear; (try dsimp only); (repeat' split) <;> simp [Kept]

@[simp] theorem cabTest_keeps (t : Nat) (c : Cabinet) :
    Kept (cabTest t c) c := by
  unfold cabTest; (try dsimp only); (repeat' split) <;> simp [Kept]

@[simp] theorem selfTestComplete_keeps (cnv pwm : Word) (refFail calFail : BitVec 5) (c : Cabinet) :
    Kept (selfTestComplete cnv pwm refFail calFail c) c := by
  unfold selfTestComplete; (try dsimp only); (repeat' first | with_reducible apply kept_ite | split) <;> simp [Kept]

@[simp] theorem clockLoss_mems (c : Cabinet) :
    (clockLoss c).mems = c.mems := by
  unfold clockLoss; (try dsimp only); (repeat' split) <;> simp

@[simp] theorem clockLoss_core (c : Cabinet) :
    (clockLoss c).core = c.core := by
  unfold clockLoss; (try dsimp only); (repeat' split) <;> simp

@[simp] theorem switchClock_mems (free : Bool) (c : Cabinet) :
    (switchClock free c).mems = c.mems := by
  unfold switchClock; (try dsimp only); (repeat' split) <;> simp

@[simp] theorem switchClock_core (free : Bool) (c : Cabinet) :
    (switchClock free c).core = c.core := by
  unfold switchClock; (try dsimp only); (repeat' split) <;> simp

@[simp] theorem freeRunSwitch_mems (c : Cabinet) :
    (freeRunSwitch c).mems = c.mems := by
  unfold freeRunSwitch; (try dsimp only); (repeat' split) <;> simp

@[simp] theorem freeRunSwitch_core (c : Cabinet) :
    (freeRunSwitch c).core = c.core := by
  unfold freeRunSwitch; (try dsimp only); (repeat' split) <;> simp

@[simp] theorem relock_mems (c : Cabinet) :
    (relock c).mems = c.mems := by
  unfold relock; (try dsimp only); (repeat' split) <;> simp

@[simp] theorem relock_core (c : Cabinet) :
    (relock c).core = c.core := by
  unfold relock; (try dsimp only); (repeat' split) <;> simp

@[simp] theorem bankSwap_keeps (t : Nat) (c : Cabinet) :
    Kept (bankSwap t c) c := by
  unfold bankSwap; (try dsimp only); (repeat' split) <;> simp [Kept]

@[simp] theorem perfConfig_keeps (t : Nat) (ws : List (Nat × Word)) (c : Cabinet) :
    Kept (perfConfig t ws c) c := by
  unfold perfConfig; (try dsimp only); (repeat' split) <;> simp [Kept]
theorem maintWords_mems (a : Nat) (ws : List Word) (l : List Nat) (c : Cabinet) :
    (l.foldl (fun c i => regWrite .machine (a + 4 * i) (ws.getD i 0) c) c).mems = c.mems := by
  induction l generalizing c with
  | nil => rfl
  | cons i t ih => simp only [List.foldl_cons, ih, regWrite_mems]

@[simp] theorem maintWriteAll_mems (a : Nat) (ws : List Word) (c : Cabinet) : (maintWriteAll a ws c).mems = c.mems :=
  maintWords_mems a ws _ c
theorem maintWords_core (a : Nat) (ws : List Word) (l : List Nat) (c : Cabinet) :
    (l.foldl (fun c i => regWrite .machine (a + 4 * i) (ws.getD i 0) c) c).core = c.core := by
  induction l generalizing c with
  | nil => rfl
  | cons i t ih => simp only [List.foldl_cons, ih, regWrite_core]

@[simp] theorem maintWriteAll_core (a : Nat) (ws : List Word) (c : Cabinet) : (maintWriteAll a ws c).core = c.core :=
  maintWords_core a ws _ c

@[simp] theorem maintWrite_mems (t a : Nat) (ws : List Word) (c : Cabinet) :
    (maintWrite t a ws c).mems = c.mems := by
  unfold maintWrite; (try dsimp only); (repeat' split) <;> simp

@[simp] theorem maintWrite_core (t a : Nat) (ws : List Word) (c : Cabinet) :
    (maintWrite t a ws c).core = c.core := by
  unfold maintWrite; (try dsimp only); (repeat' split) <;> simp

@[simp] theorem protCommit_keeps (ws : List (Nat × Word)) (c : Cabinet) :
    Kept (protCommit ws c) c := by
  unfold protCommit; (try dsimp only); (repeat' split) <;> simp [Kept]

@[simp] theorem dropWaiting_keeps (c : Cabinet) : Kept (dropWaiting c) c := by
  unfold dropWaiting; exact foldl_keeps _ (fun c t => Cabinet_answer_keeps c (some t) _ _) _ _

@[simp] theorem classC_mems (c : Cabinet) : (classC c).mems = c.mems := by
  show (decReset (prfReset (drwReset (ordReset c)))).mems = c.mems
  simp

@[simp] theorem cabReset_mems (ring : BitVec 64) (c : Cabinet) :
    (cabReset ring c).mems = c.mems := by
  unfold cabReset; (try dsimp only); (repeat' split) <;> simp

end Sys2Proof.Machine
end

