-- ==== Sys2Proof/Laws/KeepsReports.lean ====
section
/-!
SUPPORT. What the operations of Machine/Reports.lean leave unchanged in a cabinet.
-/
namespace Sys2Proof.Machine

@[simp] theorem reportPull_mems (cab ring : Nat) (r : Word) (count : Nat) (c : Cabinet) :
    (reportPull cab ring r count c).1.mems = c.mems := by
  unfold reportPull; (try dsimp only); (repeat' split) <;> simp

@[simp] theorem reportPull_core (cab ring : Nat) (r : Word) (count : Nat) (c : Cabinet) :
    (reportPull cab ring r count c).1.core = c.core := by
  unfold reportPull; (try dsimp only); (repeat' split) <;> simp

end Sys2Proof.Machine
end

