-- ==== Sys2Proof/Laws/KeepsLoader.lean ====
section
/-!
SUPPORT. What the operations of Machine/Loader.lean leave unchanged in a cabinet.
-/
namespace Sys2Proof.Machine

@[simp] theorem countLoader_keeps (n : Nat) (c : Cabinet) :
    Kept (countLoader n c) c := by
  unfold countLoader; (try dsimp only); (repeat' first | with_reducible apply kept_ite | split) <;> simp [Kept]

@[simp] theorem loadWord_core (a : Nat) (bs : List Byte) (c : Cabinet) :
    (loadWord a bs c).core = c.core := by
  first
  | rfl
  | unfold loadWord; (try dsimp only); (repeat' first | with_reducible apply part_ite Cabinet.core | split) <;> simp

@[simp] theorem loadBytes_core (a : Nat) (bs : List Byte) (c : Cabinet) :
    (loadBytes a bs c).core = c.core := by
  unfold loadBytes; (try dsimp only); (repeat' split) <;> simp

@[simp] theorem bankWriteAt_core (b : Bool) (o : Nat) (syls : List (BitVec 16)) (c : Cabinet) :
    (bankWriteAt b o syls c).core = c.core := by
  simp [bankWriteAt]

@[simp] theorem progLoad_core (a : Nat) (syls : List (BitVec 16)) (c : Cabinet) :
    (progLoad a syls c).core = c.core := by
  unfold progLoad; (try dsimp only); (repeat' split) <;> simp

@[simp] theorem loadDecode_mems (bs : List Byte) (c : Cabinet) :
    (loadDecode bs c).1.mems = c.mems := by
  unfold loadDecode; (try dsimp only); (repeat' split) <;> simp

@[simp] theorem loadDecode_core (bs : List Byte) (c : Cabinet) :
    (loadDecode bs c).1.core = c.core := by
  unfold loadDecode; (try dsimp only); (repeat' split) <;> simp

@[simp] theorem loadSection_core (x : Section) (c : Cabinet) :
    (loadSection x c).1.core = c.core := by
  unfold loadSection; (try dsimp only); (repeat' split) <;> simp

@[simp] theorem abortStage_mems (c : Cabinet) :
    (abortStage c).mems = c.mems := by
  simp [abortStage]

@[simp] theorem abortStage_core (c : Cabinet) :
    (abortStage c).core = c.core := by
  simp [abortStage]

@[simp] theorem loadBegin_core (t source length crc : Nat) (slot : Option (List Byte)) (c : Cabinet) :
    (loadBegin t source length crc slot c).core = c.core := by
  unfold loadBegin; (try dsimp only); (repeat' split) <;> simp

@[simp] theorem loadData_mems (t offset : Nat) (bs : List Byte) (c : Cabinet) :
    (loadData t offset bs c).mems = c.mems := by
  unfold loadData; (try dsimp only); (repeat' split) <;> simp

@[simp] theorem loadData_core (t offset : Nat) (bs : List Byte) (c : Cabinet) :
    (loadData t offset bs c).core = c.core := by
  unfold loadData; (try dsimp only); (repeat' split) <;> simp

@[simp] theorem coreStart_mems (c : Cabinet) :
    (coreStart c).mems = c.mems := by
  simp [coreStart]

@[simp] theorem imageSets_mems (i : Image) (c : Cabinet) :
    (imageSets i c).mems = c.mems := by
  unfold imageSets; (try dsimp only); (repeat' split) <;> simp

@[simp] theorem enterLoaded_mems (i : Image) (c : Cabinet) :
    (enterLoaded i c).mems = c.mems := by
  unfold enterLoaded; (try dsimp only); (repeat' split) <;> simp

@[simp] theorem stageOpen_mems (t length crc : Nat) (c : Cabinet) :
    (stageOpen t length crc c).mems = c.mems := by
  unfold stageOpen; (try dsimp only); (repeat' split) <;> simp

@[simp] theorem stageOpen_core (t length crc : Nat) (c : Cabinet) :
    (stageOpen t length crc c).core = c.core := by
  unfold stageOpen; (try dsimp only); (repeat' split) <;> simp

@[simp] theorem stageData_core (t offset : Nat) (ws : List (BitVec 16)) (c : Cabinet) :
    (stageData t offset ws c).core = c.core := by
  unfold stageData; (try dsimp only); (repeat' split) <;> simp

@[simp] theorem stageClose_mems (t : Nat) (c : Cabinet) :
    (stageClose t c).mems = c.mems := by
  unfold stageClose; (try dsimp only); (repeat' split) <;> simp

@[simp] theorem stageClose_core (t : Nat) (c : Cabinet) :
    (stageClose t c).core = c.core := by
  unfold stageClose; (try dsimp only); (repeat' split) <;> simp

@[simp] theorem stageAbort_mems (t : Nat) (c : Cabinet) :
    (stageAbort t c).mems = c.mems := by
  unfold stageAbort; (try dsimp only); (repeat' split) <;> simp

@[simp] theorem stageAbort_core (t : Nat) (c : Cabinet) :
    (stageAbort t c).core = c.core := by
  unfold stageAbort; (try dsimp only); (repeat' split) <;> simp

end Sys2Proof.Machine
end

