-- ==== Sys2Proof/Laws/KeepsMemBodies.lean ====
section
/-!
SUPPORT. What the operations of Machine/MemBodies.lean leave unchanged in a cabinet.
-/
namespace Sys2Proof.Machine

@[simp] theorem bccBody_keeps (cond : Nat) (off : Word) (c : Cabinet) :
    Kept ((bccBody cond off c).c) c := by
  unfold bccBody; (try dsimp only); (repeat' split) <;> simp [Kept]

@[simp] theorem jmpBody_keeps (an : Fin 8) (c : Cabinet) :
    Kept ((jmpBody an c).c) c := by
  unfold jmpBody; (try dsimp only); (repeat' split) <;> simp [Kept]

end Sys2Proof.Machine
end

