-- ==== Sys2Proof/Laws/KeepsSystemBodies.lean ====
section
/-!
SUPPORT. What the operations of Machine/SystemBodies.lean leave unchanged in a cabinet.
-/
namespace Sys2Proof.Machine

@[simp] theorem smprdBody_mems (rd : Fin 16) (n : Fin 4) (c : Cabinet) :
    (smprdBody rd n c).c.mems = c.mems := by
  unfold smprdBody; (try dsimp only); (repeat' split) <;> simp

@[simp] theorem dutyBody_keeps (g : Fin 4) (mask : Fin 16) (c : Cabinet) :
    Kept ((dutyBody g mask c).c) c := by
  unfold dutyBody; (try dsimp only); (repeat' split) <;> simp [Kept]

@[simp] theorem waitfBody_keeps (c : Cabinet) :
    Kept ((waitfBody c).c) c := by
  unfold waitfBody; (try dsimp only); (repeat' split) <;> simp [Kept]

@[simp] theorem xformBody_mems (f : Word → Word → Word → Word → XformRes) (n ins outs : Nat) (g : Fin 4) (c : Cabinet) :
    (xformBody f n ins outs g c).c.mems = c.mems := by
  unfold xformBody; (try dsimp only); (repeat' split) <;> simp

@[simp] theorem nopBody_keeps (c : Cabinet) :
    Kept ((nopBody c).c) c := by
  unfold nopBody; (try dsimp only); (repeat' split) <;> simp [Kept]

@[simp] theorem sysBody_keeps (c : Cabinet) :
    Kept ((sysBody c).c) c := by
  unfold sysBody; (try dsimp only); (repeat' split) <;> simp [Kept]

@[simp] theorem brkBody_keeps (c : Cabinet) :
    Kept ((brkBody c).c) c := by
  unfold brkBody; (try dsimp only); (repeat' split) <;> simp [Kept]

@[simp] theorem syncIBody_keeps (c : Cabinet) :
    Kept ((syncIBody c).c) c := by
  unfold syncIBody; (try dsimp only); (repeat' split) <;> simp [Kept]

@[simp] theorem syncCBody_mems (c : Cabinet) :
    (syncCBody c).c.mems = c.mems := by
  unfold syncCBody; (try dsimp only); (repeat' split) <;> simp

@[simp] theorem wfiBody_keeps (c : Cabinet) : Kept (wfiBody c).c c := by
  unfold wfiBody; (repeat' split) <;> simp [Kept, illegalY, privileged, Ret.faulted]

@[simp] theorem wfiWake_mems (c : Cabinet) : (wfiWake c).mems = c.mems := by
  unfold wfiWake finishSup; dsimp only; split <;> simp

theorem wfiWake_idle (c : Cabinet) (h : c.pipe.hold ≠ .wfi) : wfiWake c = c := by
  unfold wfiWake; simp [h]

@[simp] theorem mtcBody_mems (n : Fin 32) (rd : Fin 16) (c : Cabinet) :
    (mtcBody n rd c).c.mems = c.mems := by
  unfold mtcBody; (try dsimp only); (repeat' split) <;> simp

@[simp] theorem mfcBody_mems (rd : Fin 16) (n : Fin 32) (c : Cabinet) :
    (mfcBody rd n c).c.mems = c.mems := by
  unfold mfcBody; (try dsimp only); (repeat' split) <;> simp

@[simp] theorem lineFillComplete_keeps (c : Cabinet) :
    Kept (lineFillComplete c) c := by
  unfold lineFillComplete; (try dsimp only); (repeat' split) <;> simp [Kept]

@[simp] theorem fetchRedirect_keeps (c : Cabinet) :
    Kept (fetchRedirect c) c := by
  unfold fetchRedirect; (try dsimp only); (repeat' split) <;> simp [Kept]

@[simp] theorem cacheRefetch_keeps (second l8 l6 leak : Bool) (c : Cabinet) :
    Kept (cacheRefetch second l8 l6 leak c) c := by
  unfold cacheRefetch; (try dsimp only); (repeat' split) <;> simp [Kept]

end Sys2Proof.Machine
end

