-- ==== Sys2Proof/Laws/KeepsPower.lean ====
section
/-!
SUPPORT. What the operations of Machine/Power.lean leave unchanged in a cabinet.
-/
namespace Sys2Proof.Machine

@[simp] theorem chipTrip_mems (c : Cabinet) :
    (chipTrip c).mems = c.mems := by
  unfold chipTrip; (try dsimp only); (repeat' split) <;> simp

@[simp] theorem chipTrip_core (c : Cabinet) :
    (chipTrip c).core = c.core := by
  unfold chipTrip; (try dsimp only); (repeat' split) <;> simp

end Sys2Proof.Machine
end

