-- ==== Sys2Proof/Laws/KeepsCustomBodies.lean ====
section
/-!
SUPPORT. What the operations of Machine/CustomBodies.lean leave unchanged in a cabinet.
-/
namespace Sys2Proof.Machine

@[simp] theorem cxFault_mems (slot reason : Nat) (c : Cabinet) :
    (cxFault slot reason c).c.mems = c.mems := by
  unfold cxFault; (try dsimp only); (repeat' split) <;> simp

@[simp] theorem cxFault_core (slot reason : Nat) (c : Cabinet) :
    (cxFault slot reason c).c.core = c.core := by
  unfold cxFault; (try dsimp only); (repeat' split) <;> simp

@[simp] theorem cxParity_keeps (c : Cabinet) :
    Kept ((cxParity c).c) c := by
  unfold cxParity; (try dsimp only); (repeat' split) <;> simp [Kept]

end Sys2Proof.Machine
end

