-- ==== Sys2Proof/Laws/KeepsCommand.lean ====
section
/-!
SUPPORT. What the operations of Machine/Command.lean leave unchanged in a cabinet.
-/
namespace Sys2Proof.Machine

@[simp] theorem softWrite_mems (l : Level) (a : Nat) (w : Word) (c : Cabinet) :
    (softWrite l a w c).mems = c.mems := by
  unfold softWrite; (try dsimp only); (repeat' split) <;> simp

@[simp] theorem softWrite_core (l : Level) (a : Nat) (w : Word) (c : Cabinet) :
    (softWrite l a w c).core = c.core := by
  unfold softWrite; (try dsimp only); (repeat' split) <;> simp

@[simp] theorem softRead_mems (a : Nat) (c : Cabinet) :
    (softRead a c).mems = c.mems := by
  unfold softRead; (try dsimp only); (repeat' split) <;> simp

@[simp] theorem softRead_core (a : Nat) (c : Cabinet) :
    (softRead a c).core = c.core := by
  unfold softRead; (try dsimp only); (repeat' split) <;> simp

end Sys2Proof.Machine
end

