-- ==== Sys2Proof/Laws/KeepsTick.lean ====
section
/-!
SUPPORT. What the operations of Machine/Tick.lean leave unchanged in a cabinet.
-/
namespace Sys2Proof.Machine

@[simp] theorem tickFrame_keeps (c : Cabinet) :
    Kept (tickFrame c) c := by
  unfold tickFrame; (try dsimp only); (repeat' split) <;> simp [Kept]

@[simp] theorem tickTime_mems (c : Cabinet) :
    (tickTime c).mems = c.mems := by
  unfold tickTime; (try dsimp only); (repeat' split) <;> simp

@[simp] theorem tickTime_core (c : Cabinet) :
    (tickTime c).core = c.core := by
  unfold tickTime; (try dsimp only); (repeat' split) <;> simp

@[simp] theorem tickDrawers_keeps (c : Cabinet) :
    Kept (tickDrawers c) c := by
  unfold tickDrawers; (try dsimp only); (repeat' split) <;> simp [Kept]

@[simp] theorem tickCore_keeps (c : Cabinet) :
    Kept (tickCore c) c := by
  unfold tickCore; (try dsimp only); (repeat' split) <;> simp [Kept]

@[simp] theorem tickLevels_keeps (c : Cabinet) :
    Kept (tickLevels c) c := by
  unfold tickLevels; (try dsimp only); (repeat' first | with_reducible apply kept_ite | split) <;> simp [Kept]

@[simp] theorem tickCab_mems (c : Cabinet) :
    (tickCab c).mems = c.mems := by
  unfold tickCab; (try dsimp only); (repeat' split) <;> simp

@[simp] theorem tickCab_core (c : Cabinet) :
    (tickCab c).core = c.core := by
  unfold tickCab; (try dsimp only); (repeat' split) <;> simp

end Sys2Proof.Machine
end

