-- ==== Sys2Proof/Laws/PipePart.lean ====
section
/-!
SUPPORT. The part of the execution machinery that errors, events, counters and the fetch of an instruction leave: the deferred writes, the
stores, the faults and traps that wait, the nesting depth, and whether the core is stopped or waits for an interrupt.
-/
namespace Sys2Proof.Machine

/-- That part. -/
structure PipePart where
  deferred : List Deferred
  sbuf : List StoreEntry
  fault : Option Exc
  trap : Option Exc
  violation : List (Level × Word)
  mdepth : Nat
  stopped : Bool
  wfi : Bool

/-- That part of the machinery. -/
def pipeOf (p : Pipe) : PipePart :=
  ⟨p.deferred, p.sbuf, p.fault, p.trap, p.violation, p.mdepth, p.stopped, p.hold == .wfi⟩

/-- A fold of operations that keep the part keeps it. -/
@[simp] theorem foldl_pipeOf {α : Type} (f : Cabinet → α → Cabinet) (h : ∀ c x, pipeOf (f c x).pipe = pipeOf c.pipe) (l : List α)
    (c : Cabinet) : pipeOf (l.foldl f c).pipe = pipeOf c.pipe := foldl_part (fun c => pipeOf c.pipe) f h l c

@[simp] theorem foldl_pipe {α : Type} (f : Cabinet → α → Cabinet) (h : ∀ c x, (f c x).pipe = c.pipe) (l : List α)
    (c : Cabinet) : (l.foldl f c).pipe = c.pipe := foldl_part Cabinet.pipe f h l c

/-- The cache, the line buffer, the fetch buffer and a line fill are no part of it. -/
@[simp] theorem pipeOf_fetch (p : Pipe) (a : List (Nat × CacheSet)) (b : Option CacheLine) (f : List FetchGroup) (g : Option LineFill) :
    pipeOf { p with cache := a, lineBuf := b, fetchBuf := f, fill := g } = pipeOf p := rfl

/-- Ending WAITF's hold, or the stop of issue for a run, is no part of it. -/
theorem pipeOf_hold (p : Pipe) (e b : Bool) :
    pipeOf { p with hold := if p.hold == .waitf then .none else p.hold, entryFirst := e, issueStop := b } = pipeOf p := by
  unfold pipeOf; cases p.hold <;> rfl

@[simp] theorem Cabinet_setBlk_pipe (c : Cabinet) (b : Blk) (e : BlkErr) :
    (Cabinet.setBlk c b e).pipe = c.pipe := by
  simp [Cabinet.setBlk]

@[simp] theorem Cabinet_note_pipe (c : Cabinet) (n : Note) :
    (Cabinet.note c n).pipe = c.pipe := by
  simp [Cabinet.note]

@[simp] theorem Cabinet_answer_pipe (c : Cabinet) (t : Option Nat) (status : Nat) (data : List Byte) :
    (Cabinet.answer c t status data).pipe = c.pipe := by
  unfold Cabinet.answer; (try dsimp only); (repeat' split) <;> simp

@[simp] theorem Cabinet_takeFree_pipe (c : Cabinet) :
    (Cabinet.takeFree c).pipe = c.pipe := by
  simp [Cabinet.takeFree]

@[simp] theorem Cabinet_orIrq_pipe (c : Cabinet) (b : Blk) (bits : Word) :
    (Cabinet.orIrq c b bits).pipe = c.pipe := by
  simp [Cabinet.orIrq]

@[simp] theorem setWrap_pipe (n : Fin 64) (c : Cabinet) :
    (setWrap n c).pipe = c.pipe := by
  simp [setWrap]

@[simp] theorem bump_pipe (n : Fin 64) (m : Nat) (a : Attr) (c : Cabinet) :
    (bump n m a c).pipe = c.pipe := by
  unfold bump; (try dsimp only); (repeat' split) <;> simp

@[simp] theorem latchEdge_pipe (n : Nat) (c : Cabinet) :
    (latchEdge n c).1.pipe = c.pipe := by
  unfold latchEdge; (try dsimp only); (repeat' split) <;> simp

@[simp] theorem pulseRaw_pipe (n : Nat) (c : Cabinet) :
    (pulseRaw n c).pipe = c.pipe := by
  unfold pulseRaw; (try dsimp only); (repeat' split) <;> simp

@[simp] theorem commonSet_pipe (b : Blk) (off : Nat) (v : Word) (c : Cabinet) :
    (commonSet b off v c).pipe = c.pipe := by
  simp [commonSet]

@[simp] theorem prfReadEffect_pipe (off : Nat) (c : Cabinet) :
    (prfReadEffect off c).pipe = c.pipe := by
  unfold prfReadEffect; (try dsimp only); (repeat' split) <;> simp

@[simp] theorem prfHoldLow_pipe (n : Fin 64) (w : Word) (c : Cabinet) :
    (prfHoldLow n w c).pipe = c.pipe := by
  simp [prfHoldLow]

@[simp] theorem prfSetCount_pipe (n : Fin 64) (w : Word) (c : Cabinet) :
    (prfSetCount n w c).pipe = c.pipe := by
  simp [prfSetCount]

@[simp] theorem prfMoveArea_pipe (base : Word) (len : Nat) (c : Cabinet) :
    (prfMoveArea base len c).pipe = c.pipe := by
  simp [prfMoveArea]

@[simp] theorem prfSampleClear_pipe (c : Cabinet) :
    (prfSampleClear c).pipe = c.pipe := by
  simp [prfSampleClear]

@[simp] theorem prfSet_pipe (off : Nat) (v w : Word) (c : Cabinet) :
    (prfSet off v w c).pipe = c.pipe := by
  unfold prfSet; (try dsimp only); (repeat' split) <;> simp [apply_ite Cabinet.pipe]

@[simp] theorem prfWrite_pipe (off : Nat) (w : Word) (c : Cabinet) :
    (prfWrite off w c).pipe = c.pipe := by
  unfold prfWrite; (try dsimp only); (repeat' split) <;> simp

@[simp] theorem setPair_pipe (c : Cabinet) (p : Fin 4) (q : Pair) :
    (setPair c p q).pipe = c.pipe := by
  simp [setPair]

@[simp] theorem switchingEdge_pipe (p : Fin 4) (c : Cabinet) :
    (switchingEdge p c).pipe = c.pipe := by
  simp [switchingEdge]

@[simp] theorem pairSettle_pipe (p : Fin 4) (c : Cabinet) :
    (pairSettle p c).pipe = c.pipe := by
  unfold pairSettle; (try dsimp only); (repeat' split) <;> simp

@[simp] theorem settlePairs_pipe (c : Cabinet) :
    (settlePairs c).pipe = c.pipe := by
  unfold settlePairs; (try dsimp only); (repeat' split) <;> simp

@[simp] theorem clearRel_pipe (c : Cabinet) :
    (clearRel c).pipe = c.pipe := by
  unfold clearRel; (try dsimp only); (repeat' split) <;> simp

@[simp] theorem doSwap_pipeOf (c : Cabinet) : pipeOf (doSwap c).pipe = pipeOf c.pipe := by
  unfold doSwap; dsimp only
  rw [foldl_pipe _ (fun c t => by simp)]; rfl

@[simp] theorem trySwap_pipeOf (c : Cabinet) :
    pipeOf (trySwap c).pipe = pipeOf c.pipe := by
  unfold trySwap; (try dsimp only); (repeat' split) <;> simp

@[simp] theorem setWindow_pipe (w : Word) (c : Cabinet) :
    (setWindow w c).pipe = c.pipe := by
  simp [setWindow]

@[simp] theorem moveLevels_pipe (old : Cmpr) (c : Cabinet) :
    (moveLevels old c).pipe = c.pipe := by
  first
  | rfl
  | unfold moveLevels; (try dsimp only); (repeat' first | with_reducible apply part_ite Cabinet.pipe | split) <;> simp

@[simp] theorem protWrite_pipe (addr : Nat) (w : Word) (c : Cabinet) :
    (protWrite addr w c).pipe = c.pipe := by
  unfold protWrite; (try dsimp only); (repeat' split) <;> simp

@[simp] theorem applyPairCfg_pipe (p : Fin 4) (c : Cabinet) :
    (applyPairCfg p c).pipe = c.pipe := by
  unfold applyPairCfg; (try dsimp only); (repeat' split) <;> simp

@[simp] theorem applyWaitingRegs_pipe (c : Cabinet) :
    (applyWaitingRegs c).pipe = c.pipe := by
  unfold applyWaitingRegs; (try dsimp only); (repeat' split) <;> simp

@[simp] theorem applyProtected_pipe (c : Cabinet) :
    (applyProtected c).pipe = c.pipe := by
  unfold applyProtected; (try dsimp only); (repeat' split) <;> simp

@[simp] theorem applyPerf_pipe (c : Cabinet) :
    (applyPerf c).pipe = c.pipe := by
  unfold applyPerf; (try dsimp only); (repeat' split) <;> simp

@[simp] theorem frameStop_pipeOf (c : Cabinet) : pipeOf (frameStop c).pipe = pipeOf c.pipe := by
  unfold frameStop; dsimp only; split
  · rfl
  · rw [trySwap_pipeOf, applyPerf_pipe, applyProtected_pipe, applyWaitingRegs_pipe]; split <;> exact pipeOf_hold _ _ _

@[simp] theorem setMode_pipeOf (m : CabMode) (c : Cabinet) :
    pipeOf (setMode m c).pipe = pipeOf c.pipe := by
  unfold setMode; (try dsimp only); (repeat' split) <;> simp

@[simp] theorem beginTest_pipeOf (parked : Bool) (c : Cabinet) :
    pipeOf (beginTest parked c).pipe = pipeOf c.pipe := by
  unfold beginTest; (try dsimp only); (repeat' split) <;> simp

@[simp] theorem startDeferredTest_pipeOf (c : Cabinet) :
    pipeOf (startDeferredTest c).pipe = pipeOf c.pipe := by
  unfold startDeferredTest; (try dsimp only); (repeat' split) <;> simp

@[simp] theorem enterMode_pipeOf (m : CabMode) (c : Cabinet) :
    pipeOf (enterMode m c).pipe = pipeOf c.pipe := by
  unfold enterMode; (try dsimp only); (repeat' split) <;> simp

@[simp] theorem tripStopDrawer_pipe (n : Fin 4) (c : Cabinet) :
    (tripStopDrawer n c).pipe = c.pipe := by
  unfold tripStopDrawer; (try dsimp only); (repeat' split) <;> simp

@[simp] theorem backToPark_pipeOf (c : Cabinet) :
    pipeOf (backToPark c).pipe = pipeOf c.pipe := by
  first
  | rfl
  | unfold backToPark; (try dsimp only); (repeat' first | with_reducible apply part_ite (fun c => pipeOf c.pipe) | split) <;> simp

@[simp] theorem tripState_pipeOf (c : Cabinet) :
    pipeOf (tripState c).pipe = pipeOf c.pipe := by
  unfold tripState; (try dsimp only); (repeat' split) <;> simp

@[simp] theorem tripBy_pipeOf (src : Nat) (c : Cabinet) :
    pipeOf (tripBy src c).pipe = pipeOf c.pipe := by
  unfold tripBy; (try dsimp only); (repeat' split) <;> simp

@[simp] theorem escalate_pipeOf (b : Blk) (c : Cabinet) :
    pipeOf (escalate b c).pipe = pipeOf c.pipe := by
  unfold escalate; (try dsimp only); (repeat' split) <;> simp

@[simp] theorem setErr_pipeOf (b : Blk) (bits : Word) (c : Cabinet) :
    pipeOf (setErr b bits c).pipe = pipeOf c.pipe := by
  unfold setErr; (try dsimp only); (repeat' split) <;> simp

@[simp] theorem pulse_pipeOf (n : Nat) (c : Cabinet) :
    pipeOf (pulse n c).pipe = pipeOf c.pipe := by
  unfold pulse; (try dsimp only); (repeat' split) <;> simp

@[simp] theorem raiseErr_pipeOf (b : Blk) (bits : Word) (c : Cabinet) :
    pipeOf (raiseErr b bits c).pipe = pipeOf c.pipe := by
  unfold raiseErr; (try dsimp only); (repeat' split) <;> simp

@[simp] theorem icuSyncOne_pipeOf (b : Blk) (c : Cabinet) :
    pipeOf (icuSyncOne b c).pipe = pipeOf c.pipe := by
  unfold icuSyncOne; (try dsimp only); (repeat' split) <;> simp

@[simp] theorem icuSync_pipeOf (c : Cabinet) :
    pipeOf (icuSync c).pipe = pipeOf c.pipe := by
  unfold icuSync; (try dsimp only); (repeat' split) <;> simp

@[simp] theorem pairChange_pipeOf (p : Fin 4) (q : Pair) (c : Cabinet) :
    pipeOf (pairChange p q c).pipe = pipeOf c.pipe := by
  unfold pairChange; (try dsimp only); (repeat' split) <;> simp

@[simp] theorem evalPair_pipeOf (p : Fin 4) (below byLatch : Bool) (c : Cabinet) :
    pipeOf (evalPair p below byLatch c).pipe = pipeOf c.pipe := by
  unfold evalPair; (try dsimp only); (repeat' split) <;> simp

@[simp] theorem pulseEnd_pipeOf (p : Fin 4) (peak : Bool) (c : Cabinet) :
    pipeOf (pulseEnd p peak c).pipe = pipeOf c.pipe := by
  unfold pulseEnd; (try dsimp only); (repeat' split) <;> simp

@[simp] theorem decideNow_pipe (c : Cabinet) :
    (decideNow c).pipe = c.pipe := by
  first
  | rfl
  | unfold decideNow; (try dsimp only); (repeat' first | with_reducible apply part_ite Cabinet.pipe | split) <;> simp

@[simp] theorem decideAhead_pipe (c : Cabinet) :
    (decideAhead c).pipe = c.pipe := by
  first
  | rfl
  | unfold decideAhead; (try dsimp only); (repeat' first | with_reducible apply part_ite Cabinet.pipe | split) <;> simp

@[simp] theorem decideInstants_pipe (c : Cabinet) :
    (decideInstants c).pipe = c.pipe := by
  first
  | rfl
  | unfold decideInstants; (try dsimp only); (repeat' first | with_reducible apply part_ite Cabinet.pipe | split) <;> simp

@[simp] theorem sidePulse_pipeOf (n : Fin 8) (low : Bool) (c : Cabinet) :
    pipeOf (sidePulse n low c).pipe = pipeOf c.pipe := by
  first
  | rfl
  | unfold sidePulse; (try dsimp only); (repeat' first | with_reducible apply part_ite (fun c => pipeOf c.pipe) | split) <;> simp

@[simp] theorem sideTrip_pipeOf (n : Fin 8) (low : Bool) (c : Cabinet) :
    pipeOf (sideTrip n low c).pipe = pipeOf c.pipe := by
  first
  | rfl
  | unfold sideTrip; (try dsimp only); (repeat' first | with_reducible apply part_ite (fun c => pipeOf c.pipe) | split) <;> simp

@[simp] theorem sideAct_pipeOf (n : Fin 8) (low : Bool) (c : Cabinet) :
    pipeOf (sideAct n low c).pipe = pipeOf c.pipe := by
  first
  | rfl
  | unfold sideAct; (try dsimp only); (repeat' first | with_reducible apply part_ite (fun c => pipeOf c.pipe) | split) <;> simp

@[simp] theorem cutEnd_pipeOf (p : Fin 4) (c : Cabinet) :
    pipeOf (cutEnd p c).pipe = pipeOf c.pipe := by
  first
  | rfl
  | unfold cutEnd; (try dsimp only); (repeat' first | with_reducible apply part_ite (fun c => pipeOf c.pipe) | split) <;> simp

@[simp] theorem carrierAt_pipeOf (x : Nat) (c : Cabinet) :
    pipeOf (carrierAt x c).pipe = pipeOf c.pipe := by
  first
  | rfl
  | unfold carrierAt; (try dsimp only); (repeat' first | with_reducible apply part_ite (fun c => pipeOf c.pipe) | split) <;> simp

@[simp] theorem parCorrect_pipe (pc addr : Nat) (l8 l6 lineBuf leak : Bool) (c : Cabinet) :
    (parCorrect pc addr l8 l6 lineBuf leak c).pipe = c.pipe := by
  first
  | rfl
  | unfold parCorrect; (try dsimp only); (repeat' first | with_reducible apply part_ite Cabinet.pipe | split) <;> simp

@[simp] theorem parLeak_pipe (c : Cabinet) :
    (parLeak c).pipe = c.pipe := by
  unfold parLeak; (try dsimp only); (repeat' split) <;> simp

@[simp] theorem parUncorrect_pipeOf (mem addr fail : Nat) (c : Cabinet) :
    pipeOf (parUncorrect mem addr fail c).pipe = pipeOf c.pipe := by
  unfold parUncorrect; (try dsimp only); (repeat' split) <;> simp

@[simp] theorem wordUncorrect_pipeOf (a fails : Nat) (c : Cabinet) :
    pipeOf (wordUncorrect a fails c).pipe = pipeOf c.pipe := by
  unfold wordUncorrect; (try dsimp only); (repeat' split) <;> simp

@[simp] theorem loadCheck_pipeOf (a n : Nat) (c : Cabinet) :
    pipeOf (loadCheck a n c).1.pipe = pipeOf c.pipe := by
  unfold loadCheck; (try dsimp only); (repeat' split) <;> simp

@[simp] theorem popCheck_pipeOf (a : Nat) (c : Cabinet) :
    pipeOf (popCheck a c).1.pipe = pipeOf c.pipe := by
  unfold popCheck; (try dsimp only); (repeat' split) <;> simp

@[simp] theorem parTestWrite_pipeOf (v : Word) (c : Cabinet) :
    pipeOf (parTestWrite v c).pipe = pipeOf c.pipe := by
  unfold parTestWrite; (try dsimp only); (repeat' split) <;> simp

@[simp] theorem parSet_pipeOf (off : Nat) (v : Word) (c : Cabinet) :
    pipeOf (parSet off v c).pipe = pipeOf c.pipe := by
  unfold parSet; (try dsimp only); (repeat' split) <;> simp

@[simp] theorem setRep_pipe (c : Cabinet) (r : Nat) (x : RepRing) :
    (setRep c r x).pipe = c.pipe := by
  simp [setRep]

@[simp] theorem pushRefused_pipeOf (bits : Word) (c : Cabinet) :
    pipeOf (pushRefused bits c).pipe = pipeOf c.pipe := by
  unfold pushRefused; (try dsimp only); (repeat' split) <;> simp

@[simp] theorem pushAppend_pipe (r : Nat) (x : RepRing) (kind : Nat) (body : List Word) (c : Cabinet) :
    (pushAppend r x kind body c).pipe = c.pipe := by
  unfold pushAppend; (try dsimp only); (repeat' split) <;> simp

@[simp] theorem portPush_pipeOf (r kind : Nat) (bad : Bool) (body : List Word) (c : Cabinet) :
    pipeOf ((portPush r kind bad body c).1).pipe = pipeOf c.pipe := by
  first
  | rfl
  | unfold portPush; (try dsimp only); (repeat' first | with_reducible apply part_ite (fun c => pipeOf c.pipe) | split) <;> simp

@[simp] theorem ordPush_pipeOf (r lenw kind : Nat) (c : Cabinet) :
    pipeOf (ordPush r lenw kind c).pipe = pipeOf c.pipe := by
  unfold ordPush; (try dsimp only); (repeat' split) <;> simp

@[simp] theorem releaseReports_pipe (r n : Nat) (c : Cabinet) :
    (releaseReports r n c).pipe = c.pipe := by
  unfold releaseReports; (try dsimp only); (repeat' split) <;> simp

@[simp] theorem orderAvailable_pipeOf (o : PortOrder) (c : Cabinet) :
    pipeOf (orderAvailable o c).pipe = pipeOf c.pipe := by
  unfold orderAvailable; (try dsimp only); (repeat' split) <;> simp

@[simp] theorem ordPop_pipe (r : Nat) (c : Cabinet) :
    (ordPop r c).pipe = c.pipe := by
  unfold ordPop; (try dsimp only); (repeat' split) <;> simp

@[simp] theorem ordDone_pipeOf (tag : Word) (c : Cabinet) :
    pipeOf (ordDone tag c).pipe = pipeOf c.pipe := by
  unfold ordDone; (try dsimp only); (repeat' split) <;> simp

@[simp] theorem ordReset_pipe (c : Cabinet) :
    (ordReset c).pipe = c.pipe := by
  unfold ordReset; (try dsimp only); (repeat' split) <;> simp

@[simp] theorem ordReadEffect_pipe (off : Nat) (c : Cabinet) :
    (ordReadEffect off c).pipe = c.pipe := by
  unfold ordReadEffect; (try dsimp only); (repeat' split) <;> simp

@[simp] theorem ordSet_pipeOf (off : Nat) (v w : Word) (c : Cabinet) :
    pipeOf (ordSet off v w c).pipe = pipeOf c.pipe := by
  unfold ordSet; (try dsimp only); (repeat' split) <;> simp

@[simp] theorem dumpMiss_pipeOf (c : Cabinet) :
    pipeOf (dumpMiss c).pipe = pipeOf c.pipe := by
  unfold dumpMiss; (try dsimp only); (repeat' split) <;> simp

@[simp] theorem dumpSnapshot_pipeOf (cnt : Vector (BitVec 48) 64) (c : Cabinet) :
    pipeOf (dumpSnapshot cnt c).pipe = pipeOf c.pipe := by
  unfold dumpSnapshot; (try dsimp only); (repeat' split) <;> simp

@[simp] theorem dumpDone_pipe (c : Cabinet) :
    (dumpDone c).pipe = c.pipe := by
  simp [dumpDone]

@[simp] theorem smpStore_pipe (c : Cabinet) :
    (smpStore c).pipe = c.pipe := by
  unfold smpStore; (try dsimp only); (repeat' split) <;> simp

@[simp] theorem smpRetire_pipe (a : Attr) (ws : List Word) (c : Cabinet) :
    (smpRetire a ws c).pipe = c.pipe := by
  unfold smpRetire; (try dsimp only); (repeat' split) <;> simp

@[simp] theorem counterWrap_pipe (n : Fin 64) (c : Cabinet) :
    (counterWrap n c).pipe = c.pipe := by
  unfold counterWrap; (try dsimp only); (repeat' split) <;> simp

@[simp] theorem prfReset_pipe (c : Cabinet) :
    (prfReset c).pipe = c.pipe := by
  simp [prfReset]

@[simp] theorem keepPending_pipe (c : Cabinet) :
    (keepPending c).pipe = c.pipe := by
  unfold keepPending; (try dsimp only); (repeat' split) <;> simp

@[simp] theorem endRun_pipeOf (n : Nat) (c : Cabinet) : pipeOf (endRun n c).pipe = pipeOf c.pipe := by
  unfold endRun; dsimp only
  by_cases h : c.frame.inRun = true
  · rw [if_neg (by simp [h])]
    simp only [apply_ite Cabinet.pipe, apply_ite pipeOf, doSwap_pipeOf, trySwap_pipeOf, pulse_pipeOf, bump_pipe, pipeOf_hold, ite_self]
  · rw [if_pos (by simp [h])]

@[simp] theorem guardAct_pipeOf (c : Cabinet) : pipeOf (guardAct c).pipe = pipeOf c.pipe := by
  have h : ∀ p : Pipe, pipeOf { p with overrun := true } = pipeOf p := fun _ => rfl
  unfold guardAct; dsimp only; (repeat' split) <;> simp [h]

@[simp] theorem frameGuard_pipeOf (c : Cabinet) :
    pipeOf (frameGuard c).pipe = pipeOf c.pipe := by
  unfold frameGuard; (try dsimp only); (repeat' split) <;> simp

@[simp] theorem takeSamples_pipeOf (codes : Vector (BitVec 14) 4) (c : Cabinet) :
    pipeOf (takeSamples codes c).pipe = pipeOf c.pipe := by
  unfold takeSamples; (try dsimp only); (repeat' split) <;> simp

@[simp] theorem advancePos_pipe (p : Nat) (c : Cabinet) :
    (advancePos p c).pipe = c.pipe := by
  unfold advancePos; (try dsimp only); (repeat' split) <;> simp

@[simp] theorem updatePoint_pipe (half : Bool) (early : Option Nat) (c : Cabinet) :
    (updatePoint half early c).pipe = c.pipe := by
  simp [updatePoint]

@[simp] theorem applyClockSwitch_pipe (c : Cabinet) :
    (applyClockSwitch c).pipe = c.pipe := by
  unfold applyClockSwitch; (try dsimp only); (repeat' split) <;> simp

@[simp] theorem swapEvent_pipeOf (c : Cabinet) :
    pipeOf (swapEvent c).pipe = pipeOf c.pipe := by
  unfold swapEvent; (try dsimp only); (repeat' split) <;> simp

@[simp] theorem heartbeatPeriod_pipe (c : Cabinet) :
    (heartbeatPeriod c).pipe = c.pipe := by
  unfold heartbeatPeriod; (try dsimp only); (repeat' split) <;> simp

@[simp] theorem cachePut_pipeOf (l : CacheLine) (c : Cabinet) :
    pipeOf (cachePut l c).pipe = pipeOf c.pipe := by
  first
  | rfl
  | unfold cachePut; (try dsimp only); (repeat' first | with_reducible apply part_ite (fun c => pipeOf c.pipe) | split) <;> simp

@[simp] theorem cacheDrop_pipeOf (l : Nat) (c : Cabinet) : pipeOf (cacheDrop l c).pipe = pipeOf c.pipe := rfl

@[simp] theorem deliverLine_pipeOf (l : CacheLine) (c : Cabinet) :
    pipeOf (deliverLine l c).pipe = pipeOf c.pipe := by
  first
  | rfl
  | unfold deliverLine; (try dsimp only); (repeat' first | with_reducible apply part_ite (fun c => pipeOf c.pipe) | split) <;> simp

@[simp] theorem countFill_pipe (a : Nat) (c : Cabinet) :
    (countFill a c).pipe = c.pipe := by
  unfold countFill; (try dsimp only); (repeat' split) <;> simp

@[simp] theorem startFill_pipeOf (a : Nat) (c : Cabinet) :
    pipeOf (startFill a c).pipe = pipeOf c.pipe := by
  first
  | rfl
  | unfold startFill; (try dsimp only); (repeat' first | with_reducible apply part_ite (fun c => pipeOf c.pipe) | split) <;> simp

@[simp] theorem redirectFill_pipeOf (c : Cabinet) :
    pipeOf (redirectFill c).pipe = pipeOf c.pipe := by
  first
  | rfl
  | unfold redirectFill; (try dsimp only); (repeat' first | with_reducible apply part_ite (fun c => pipeOf c.pipe) | split) <;> simp

@[simp] theorem completeFill_pipeOf (a : Nat) (c : Cabinet) :
    pipeOf ((completeFill a c).1).pipe = pipeOf c.pipe := by
  first
  | rfl
  | unfold completeFill; (try dsimp only); (repeat' first | with_reducible apply part_ite (fun c => pipeOf c.pipe) | split) <;> simp

@[simp] theorem bufPut_pipeOf (a : Nat) (x : FetchGroup) (c : Cabinet) :
    pipeOf (bufPut a x c).pipe = pipeOf c.pipe := by
  first
  | rfl
  | unfold bufPut; (try dsimp only); (repeat' first | with_reducible apply part_ite (fun c => pipeOf c.pipe) | split) <;> simp

@[simp] theorem bufTrim_pipeOf (g : Nat) (c : Cabinet) :
    pipeOf (bufTrim g c).pipe = pipeOf c.pipe := by
  first
  | rfl
  | unfold bufTrim; (try dsimp only); (repeat' first | with_reducible apply part_ite (fun c => pipeOf c.pipe) | split) <;> simp

@[simp] theorem checkWord_pipeOf (a : Nat) (w : BitVec 16) (c : Cabinet) :
    pipeOf ((checkWord a w c).1).pipe = pipeOf c.pipe := by
  first
  | rfl
  | unfold checkWord; (try dsimp only); (repeat' first | with_reducible apply part_ite (fun c => pipeOf c.pipe) | split) <;> simp

@[simp] theorem dutyRetired_pipeOf (mask : Nat) (vals : List Word) (n : Nat) (c : Cabinet) :
    pipeOf (dutyRetired mask vals n c).pipe = pipeOf c.pipe := by
  unfold dutyRetired; (try dsimp only); (repeat' split) <;> simp

@[simp] theorem countWaits_pipe (k : Cls) (data : Option Nat) (old new : Waits) (pc : Nat) (c : Cabinet) :
    (countWaits k data old new pc c).pipe = c.pipe := by
  first
  | rfl
  | unfold countWaits; (try dsimp only); (repeat' first | with_reducible apply part_ite Cabinet.pipe | split) <;> simp

@[simp] theorem recountDuty_pipe (s : Sched) (c : Cabinet) :
    (recountDuty s c).pipe = c.pipe := by
  first
  | rfl
  | unfold recountDuty; (try dsimp only); (repeat' first | with_reducible apply part_ite Cabinet.pipe | split) <;> simp

@[simp] theorem fetchParity_pipeOf (c : Cabinet) (l : List Nat) : pipeOf (fetchParity c l).1.pipe = pipeOf c.pipe := by
  induction l with
  | nil => rfl
  | cons a t ih => unfold fetchParity; dsimp only; split <;> simp [ih]

theorem hitGroup_pipeOf (a : Nat) (c : Cabinet) (x : Cabinet × FetchGroup) (h : hitGroup a c = some x) :
    pipeOf x.1.pipe = pipeOf c.pipe := by
  unfold hitGroup at h; dsimp only at h; (repeat' split at h) <;> simp at h <;> subst h <;> simp

@[simp] theorem fetchWord_pipeOf (a : Nat) (c : Cabinet) : pipeOf (fetchWord a c).1.pipe = pipeOf c.pipe := by
  unfold fetchWord; split
  · rfl
  · split
    · rfl
    · split
      · rename_i h; have := hitGroup_pipeOf _ _ _ h; simpa using this
      · simp

@[simp] theorem prefetch_pipeOf (g : Nat) (c : Cabinet) : pipeOf (prefetch g c).pipe = pipeOf c.pipe := by
  unfold prefetch; split
  · rfl
  · split
    · rename_i h; have := hitGroup_pipeOf _ _ _ h; simpa using this
    · split <;> simp

@[simp] theorem fetchSecond_pipeOf (w1 : Syl) (c : Cabinet) : pipeOf (fetchSecond w1 c).c.pipe = pipeOf c.pipe := by
  unfold fetchSecond; split <;> simp

@[simp] theorem fetchInstr_pipeOf (c : Cabinet) : pipeOf (fetchInstr c).c.pipe = pipeOf c.pipe := by
  unfold fetchInstr; dsimp only; (repeat' split) <;> simp

@[simp] theorem countRetired_pipeOf (k : Cls) (w1 w2 : Syl) (t : Option Timing) (r : Ret) (c : Cabinet) :
    pipeOf (countRetired k w1 w2 t r c).pipe = pipeOf r.c.pipe := by
  unfold countRetired; dsimp only; (repeat' split) <;> simp

@[simp] theorem countFaulted_pipe (k : Cls) (c d : Cabinet) : (countFaulted k c d).pipe = d.pipe := by
  simp [countFaulted]

@[simp] theorem sidesAct_pipeOf (c : Cabinet) : pipeOf (sidesAct c).pipe = pipeOf c.pipe := by
  unfold sidesAct; dsimp only
  rw [foldl_pipeOf _ (fun c x => by simp [apply_ite Cabinet.pipe, apply_ite pipeOf])]
  exact foldl_pipeOf _ (fun c x => by simp [apply_ite Cabinet.pipe, apply_ite pipeOf]) _ _

end Sys2Proof.Machine
end

