-- ==== Sys2Proof/Laws/State.lean ====
section
/-!
SUPPORT. The updates of the chip and the state, field by field.
-/
namespace Sys2Proof.Machine

@[simp] theorem onSide_cabs (f : Side → Side) (ch : Chip) : (ch.onSide f).cabs = ch.cabs := rfl

@[simp] theorem onSide_side (f : Side → Side) (ch : Chip) : (ch.onSide f).side = f ch.side := rfl

@[simp] theorem setCab_side (k : Fin 16) (c : Cabinet) (ch : Chip) : (ch.setCab k c).side = ch.side := rfl

@[simp] theorem setCab_same (k : Fin 16) (c : Cabinet) (ch : Chip) : (ch.setCab k c).cabs[k] = c := by
  simp [Chip.setCab]

theorem setCab_other (k j : Fin 16) (c : Cabinet) (ch : Chip) (h : j ≠ k) : (ch.setCab k c).cabs[j] = ch.cabs[j] := by
  have : (k : Nat) ≠ (j : Nat) := fun e => h (Fin.ext e.symm)
  simp [Chip.setCab, this]

/-- A cabinet of a chip after one is replaced. -/
theorem setCab_get (k j : Fin 16) (c : Cabinet) (ch : Chip) :
    (ch.setCab k c).cabs[j] = if j = k then c else ch.cabs[j] := by
  split
  · rename_i h; subst h; exact setCab_same _ _ _
  · rename_i h; exact setCab_other _ _ _ _ h

@[simp] theorem chipNext_eq (f : Chip → Chip) (s : State) : chipNext f s = .next { s with chip := f s.chip } := rfl

@[simp] theorem settleNote_cabs (k : Fin 16) (ch : Chip) (n : Note) : (settleNote k ch n).cabs = ch.cabs := by
  cases n <;> simp only [settleNote, onSide_cabs]

@[simp] theorem settleNotes_cabs (k : Fin 16) (ns : List Note) (ch : Chip) : (ns.foldl (settleNote k) ch).cabs = ch.cabs := by
  induction ns generalizing ch with
  | nil => rfl
  | cons n t ih => rw [List.foldl_cons, ih, settleNote_cabs]

@[simp] theorem confirmProgress_cabs (k : Fin 16) (ch : Chip) : (confirmProgress k ch).cabs = ch.cabs := by
  unfold confirmProgress; split <;> simp only [onSide_cabs]

/-- The cabinets after one has been settled: that one with what follows, its messages delivered. -/
@[simp] theorem settleCab_cabs (k : Fin 16) (c : Cabinet) (ch : Chip) :
    (settleCab k c ch).cabs =
      (ch.setCab k { stateHeartbeat ch.cabs[k] (wfiWake (followUp ch.cabs[k] c)) with notes := [] }).cabs := by
  simp [settleCab]

theorem settleCab_other (k j : Fin 16) (c : Cabinet) (ch : Chip) (h : j ≠ k) : (settleCab k c ch).cabs[j] = ch.cabs[j] := by
  rw [settleCab_cabs]; exact setCab_other _ _ _ _ h

theorem settleCab_same (k : Fin 16) (c : Cabinet) (ch : Chip) :
    (settleCab k c ch).cabs[k] = { stateHeartbeat ch.cabs[k] (wfiWake (followUp ch.cabs[k] c)) with notes := [] } := by
  rw [settleCab_cabs]; exact setCab_same _ _ _

end Sys2Proof.Machine
end

