-- ==== Sys2Proof/Laws/Settle.lean ====
section
/-!
SUPPORT. What follows from a command in its cabinet: the parts that it leaves.
-/
namespace Sys2Proof.Machine

@[simp] theorem carrierStop_keeps (old c : Cabinet) : Kept (carrierStop old c) c := by
  unfold carrierStop; split
  · exact carrierAt_keeps 0 c
  · simp [Kept]

@[simp] theorem carrierStop_pipeOf (old c : Cabinet) : pipeOf (carrierStop old c).pipe = pipeOf c.pipe := by
  unfold carrierStop; split <;> simp

@[simp] theorem enTripSet_keeps (old c : Cabinet) : Kept (enTripSet old c) c := by
  unfold enTripSet; split
  · exact tripBy_keeps 2 c
  · simp [Kept]

@[simp] theorem enTripSet_pipeOf (old c : Cabinet) : pipeOf (enTripSet old c).pipe = pipeOf c.pipe := by
  unfold enTripSet; split <;> simp

@[simp] theorem leaveTest_keeps (old c : Cabinet) : Kept (leaveTest old c) c := by
  unfold leaveTest; split
  · exact sidesAct_keeps c
  · simp [Kept]

@[simp] theorem leaveTest_pipeOf (old c : Cabinet) : pipeOf (leaveTest old c).pipe = pipeOf c.pipe := by
  unfold leaveTest; split
  · exact sidesAct_pipeOf c
  · rfl

@[simp] theorem followUp_keeps (old c : Cabinet) : Kept (followUp old c) c := by
  simp [followUp, Kept]

@[simp] theorem followUp_pipeOf (old c : Cabinet) : pipeOf (followUp old c).pipe = pipeOf c.pipe := by
  simp [followUp]

@[simp] theorem stateHeartbeat_keeps (old c : Cabinet) : Kept (stateHeartbeat old c) c := by
  unfold stateHeartbeat; split <;> simp [Kept]

@[simp] theorem stateHeartbeat_pipe (old c : Cabinet) : (stateHeartbeat old c).pipe = c.pipe := by
  unfold stateHeartbeat; split <;> simp

@[simp] theorem stateHeartbeat_frame (old c : Cabinet) : (stateHeartbeat old c).frame = c.frame := by
  unfold stateHeartbeat; split <;> rfl

/-- The settling of a cabinet keeps its number, memories, registers and machinery, where no WFI ends with it. -/
theorem settleCab_kept (k : Fin 16) (c : Cabinet) (ch : Chip) (h : (followUp ch.cabs[k] c).pipe.hold ≠ .wfi) :
    Kept ((settleCab k c ch).cabs[k]) c ∧ pipeOf ((settleCab k c ch).cabs[k]).pipe = pipeOf c.pipe := by
  rw [settleCab_same, wfiWake_idle _ h]
  simp [Kept]

end Sys2Proof.Machine
end

