-- ==== Sys2Proof/Laws/Retire.lean ====
section
/-!
SUPPORT. What the fetch, the retirement and the end of a command leave of a cabinet: the laws that the statements about the core's
instructions rest on.
-/
namespace Sys2Proof.Machine

/-! ## Fetch -/

/-- Counting an event changes the counters and the events of the counter block alone. -/
theorem bump_frame (n : Fin 64) (m : Nat) (a : Attr) (c : Cabinet) :
    bump n m a c = { c with prf := (bump n m a c).prf, errs := (bump n m a c).errs } := by
  unfold bump; dsimp only; split
  · rfl
  · split
    · unfold setWrap Cabinet.orIrq Cabinet.setBlk; rfl
    · rfl

/-- What a fetch without a machine check may change: counters, cache, line buffer, fetch buffer and the line fill. -/
abbrev Fetched (c' c : Cabinet) : Prop :=
  c' = { c with
    prf := c'.prf, errs := c'.errs,
    pipe := { c.pipe with
      cache := c'.pipe.cache, lineBuf := c'.pipe.lineBuf, fetchBuf := c'.pipe.fetchBuf, fill := c'.pipe.fill } }

theorem Fetched_trans (a b c : Cabinet) (h1 : Fetched a b) (h2 : Fetched b c) : Fetched a c := by
  rw [h2] at h1; exact h1

theorem bump_fetched (n : Fin 64) (m : Nat) (a : Attr) (c : Cabinet) : Fetched (bump n m a c) c := by
  have h := bump_frame n m a c
  have hp := bump_pipe n m a c
  unfold Fetched; rw [h]

theorem cachePut_fetched (l : CacheLine) (c : Cabinet) : Fetched (cachePut l c) c := rfl

theorem bufTrim_fetched (g : Nat) (c : Cabinet) : Fetched (bufTrim g c) c := rfl

theorem bufPut_fetched (a : Nat) (x : FetchGroup) (c : Cabinet) : Fetched (bufPut a x c) c := by
  unfold bufPut; exact Fetched_trans _ _ _ (bump_fetched _ _ _ _) rfl

theorem deliverLine_fetched (l : CacheLine) (c : Cabinet) : Fetched (deliverLine l c) c := by
  unfold deliverLine; dsimp only; split <;> rfl

theorem countFill_fetched (a : Nat) (c : Cabinet) : Fetched (countFill a c) c := bump_fetched _ _ _ _

theorem startFill_fetched (a : Nat) (c : Cabinet) : Fetched (startFill a c) c := by
  unfold startFill; exact Fetched_trans _ (countFill a c) _ rfl (countFill_fetched a c)

theorem redirectFill_fetched (c : Cabinet) : Fetched (redirectFill c) c := by
  unfold redirectFill; split
  · rfl
  · split
    · rfl
    · exact deliverLine_fetched _ _

theorem completeFill_fetched (a : Nat) (c : Cabinet) : Fetched (completeFill a c).1 c := by
  unfold completeFill; split
  · split
    · exact deliverLine_fetched _ _
    · exact Fetched_trans _ _ _ (deliverLine_fetched _ _) (Fetched_trans _ _ _ (countFill_fetched _ _) (redirectFill_fetched _))
  · exact Fetched_trans _ _ _ (deliverLine_fetched _ _) (countFill_fetched _ _)

theorem hitGroup_fetched (a : Nat) (c : Cabinet) (x : Cabinet × FetchGroup) (h : hitGroup a c = some x) : Fetched x.1 c := by
  unfold hitGroup at h; dsimp only at h
  (repeat' split at h) <;> simp only [Option.some.injEq, reduceCtorEq] at h <;> subst h
  · rfl
  · exact cachePut_fetched _ _
  · exact bump_fetched _ _ _ _

theorem fetchWord_fetched (a : Nat) (c : Cabinet) : Fetched (fetchWord a c).1 c := by
  unfold fetchWord; split
  · rfl
  · split
    · rfl
    · split
      · rename_i h; exact Fetched_trans _ _ _ (bufPut_fetched _ _ _) (hitGroup_fetched _ _ _ h)
      · exact Fetched_trans _ _ _ (bufPut_fetched _ _ _) (completeFill_fetched _ _)

theorem prefetch_fetched (g : Nat) (c : Cabinet) : Fetched (prefetch g c) c := by
  unfold prefetch; split
  · rfl
  · split
    · rename_i h; exact Fetched_trans _ _ _ (bufPut_fetched _ _ _) (hitGroup_fetched _ _ _ h)
    · split
      · rfl
      · exact startFill_fetched _ _

theorem checkWord_good (a : Nat) (w : BitVec 16) (c : Cabinet) (h : (checkWord a w c).2 = false) : (checkWord a w c).1 = c := by
  unfold checkWord at h ⊢; split at h
  · simp at h
  · rename_i h1; rw [if_neg h1]

theorem fetchSecond_good (w1 : Syl) (c : Cabinet) (h : (fetchSecond w1 c).exc = none) : Fetched (fetchSecond w1 c).c c := by
  unfold fetchSecond at h ⊢; split at h
  · simp at h
  · dsimp only at h ⊢; split at h
    · simp at h
    · rename_i h1
      rw [checkWord_good _ _ _ (by simpa using h1)]; exact fetchWord_fetched _ _

/-- A fetch without an exception. -/
theorem fetchInstr_good (c : Cabinet) (h : (fetchInstr c).exc = none) : Fetched (fetchInstr c).c c := by
  unfold fetchInstr at h ⊢; dsimp only at h ⊢
  split at h
  · simp at h
  · rename_i h1
    rw [if_neg h1]; dsimp only
    have hg := checkWord_good _ _ _ (by simpa using h1)
    have hw : Fetched (fetchWord (curPc c).toNat (bufTrim (groupOf (curPc c).toNat) c)).1 c :=
      Fetched_trans _ _ _ (fetchWord_fetched _ _) (bufTrim_fetched _ _)
    refine Fetched_trans _ _ _ (prefetch_fetched _ _) ?_
    split
    · rename_i h2; rw [if_pos h2] at h
      exact Fetched_trans _ _ _ (fetchSecond_good _ _ h) (by rw [hg]; exact hw)
    · dsimp only; rw [hg]; exact hw

/-! ## Retirement -/

/-- A deferred write acts on the core's registers alone. -/
theorem applyDeferred_frame (x : Deferred) (c : Cabinet) : applyDeferred x c = { c with core := (applyDeferred x c).core } := by
  unfold applyDeferred; split
  · rfl
  · unfold ctlSetNow; dsimp only; (repeat' split) <;> rfl

/-- What a deferred write makes of the registers depends on the registers alone. -/
theorem applyDeferred_core (x : Deferred) (c d : Cabinet) (h : c.core = d.core) :
    (applyDeferred x c).core = (applyDeferred x d).core := by
  unfold applyDeferred; split
  · unfold ctlSetNow; simp [h]
  · unfold ctlSetNow; dsimp only; rw [h]; (repeat' split) <;> first | rfl | exact h

theorem applyDeferreds_frame (l : List Deferred) (c : Cabinet) :
    l.foldl (fun c x => applyDeferred x c) c = { c with core := (l.foldl (fun c x => applyDeferred x c) c).core } := by
  induction l generalizing c with
  | nil => rfl
  | cons x t ih =>
    rw [List.foldl_cons, ih, applyDeferred_frame x c]

theorem applyDeferreds_core (l : List Deferred) (c d : Cabinet) (h : c.core = d.core) :
    (l.foldl (fun c x => applyDeferred x c) c).core = (l.foldl (fun c x => applyDeferred x c) d).core := by
  induction l generalizing c d with
  | nil => exact h
  | cons x t ih => exact ih _ _ (applyDeferred_core x c d h)

/-- The registers after deferred writes have come nearer depend on the registers and the deferred writes alone. -/
theorem ageDeferred_core (c d : Cabinet) (h : c.core = d.core) (hd : c.pipe.deferred = d.pipe.deferred) :
    (ageDeferred c).core = (ageDeferred d).core := by
  unfold ageDeferred; dsimp only; rw [hd]; exact applyDeferreds_core _ _ _ h

/-- It changes the registers and the list of deferred writes alone. -/
theorem ageDeferred_frame (c : Cabinet) :
    ageDeferred c = { c with core := (ageDeferred c).core, pipe := { c.pipe with deferred := (ageDeferred c).pipe.deferred } } := by
  unfold ageDeferred; dsimp only; rw [applyDeferreds_frame]

/-- Only the counters and the events of blocks differ. -/
def CountsOnly (c' c : Cabinet) : Prop := ∃ p e, c' = { c with prf := p, errs := e }

theorem CountsOnly_refl (c : Cabinet) : CountsOnly c c := ⟨_, _, rfl⟩

theorem CountsOnly_trans (a b c : Cabinet) (h1 : CountsOnly a b) (h2 : CountsOnly b c) : CountsOnly a c := by
  obtain ⟨p, e, rfl⟩ := h1
  obtain ⟨q, f, rfl⟩ := h2
  exact ⟨p, e, rfl⟩

theorem bump_counts (n : Fin 64) (m : Nat) (a : Attr) (c : Cabinet) : CountsOnly (bump n m a c) c := ⟨_, _, bump_frame n m a c⟩

theorem smpStore_counts (c : Cabinet) : CountsOnly (smpStore c) c := by
  unfold smpStore; dsimp only; split
  · exact CountsOnly_refl c
  · split <;> exact ⟨_, _, rfl⟩

theorem smpRetire_counts (a : Attr) (ws : List Word) (c : Cabinet) : CountsOnly (smpRetire a ws c) c := by
  unfold smpRetire; dsimp only; split
  · split
    · obtain ⟨p, e, h⟩ := smpStore_counts c
      exact ⟨_, e, by rw [h]⟩
    · exact ⟨_, _, rfl⟩
  · exact CountsOnly_refl c

/-- Retiring counts, samples and takes a free value: nothing else. -/
theorem countRetired_counts (k : Cls) (w1 w2 : Syl) (t : Option Timing) (r : Ret) (c : Cabinet) :
    CountsOnly (countRetired k w1 w2 t r c) { r.c with free := r.c.free + 1 } := by
  have h : ∀ x : Cabinet, CountsOnly x r.c → CountsOnly x.takeFree { r.c with free := r.c.free + 1 } := by
    intro x hx; obtain ⟨p, e, rfl⟩ := hx; exact ⟨p, e, rfl⟩
  unfold countRetired; dsimp only
  refine CountsOnly_trans _ _ _ (smpRetire_counts _ _ _) (h _ ?_)
  have h2 : CountsOnly (bump 0x02 1 (insAttr k c) (bump 0x01 1 (insAttr k c) r.c)) r.c :=
    CountsOnly_trans _ _ _ (bump_counts _ _ _ _) (bump_counts _ _ _ _)
  split
  · exact CountsOnly_trans _ _ _ (bump_counts _ _ _ _) h2
  · exact CountsOnly_trans _ _ _ (bump_counts _ _ _ _) h2
  · split
    · exact CountsOnly_trans _ _ _ (bump_counts _ _ _ _) h2
    · exact h2

theorem countWaits_counts (k : Cls) (data : Option Nat) (old new : Waits) (pc : Nat) (c : Cabinet) :
    CountsOnly (countWaits k data old new pc c) c := by
  unfold countWaits; dsimp only
  exact CountsOnly_trans _ _ _ (bump_counts _ _ _ _) (CountsOnly_trans _ _ _ (bump_counts _ _ _ _) (CountsOnly_trans _ _ _
    (bump_counts _ _ _ _) (CountsOnly_trans _ _ _ (bump_counts _ _ _ _) (CountsOnly_trans _ _ _ (bump_counts _ _ _ _)
    (bump_counts _ _ _ _)))))

/-- A supervisory instruction that retires. -/
theorem finishSup_retires (k : Cls) (w1 w2 : Syl) (c : Cabinet) (r : Ret) (hf : r.fault = none) (hs : r.stay = false) :
    Kept { finishSup k w1 w2 c r with core := r.c.core } r.c ∧
    (finishSup k w1 w2 c r).core =
      (ageDeferred { r.c with core := { r.c.core with pc := nextPc (coreLen w1) r c.core.pc } }).core ∧
    (finishSup k w1 w2 c r).pipe.sbuf = r.c.pipe.sbuf ∧ (finishSup k w1 w2 c r).pipe.hold = r.c.pipe.hold ∧
    (finishSup k w1 w2 c r).pipe.trap = r.trap.map (fun e => { e with level := some c.level }) ∧
    (finishSup k w1 w2 c r).frame = r.c.frame := by
  obtain ⟨p, e, h⟩ := countRetired_counts k w1 w2 none r c
  unfold finishSup; rw [hf, hs, if_neg (by simp)]; dsimp only
  rw [h, ageDeferred_frame]
  refine ⟨by simp [Kept], ?_, rfl, rfl, rfl, rfl⟩
  exact ageDeferred_core _ _ rfl rfl

/-- The end of a run by an exception keeps what `endRun` keeps. -/
theorem endRunExc_pipe (e : Exc) (n : Nat) (c : Cabinet) :
    (endRunExc e n c).pipe.sbuf = c.pipe.sbuf ∧ ((endRunExc e n c).pipe.hold == .wfi) = (c.pipe.hold == .wfi) := by
  unfold endRunExc; dsimp only
  have h := endRun_pipeOf n { c with
    frame := { c.frame with stat := c.frame.stat ||| 0x20 },
    pipe := { c.pipe with
      runExc := some e, heldTrap := c.pipe.trap.or c.pipe.heldTrap, heldViol := c.pipe.heldViol ++ c.pipe.violation,
      trap := none, violation := [] } }
  simp only [pipeOf, PipePart.mk.injEq] at h
  exact ⟨h.2.1, h.2.2.2.2.2.2.2⟩

/-- What the end of an instruction of a run keeps of the cabinet `x` that its execution left, `core` being the registers then. -/
def RunKept (x : Cabinet) (core : Core) (y : Cabinet) : Prop :=
  Kept { y with core := x.core } x ∧ y.core = core ∧ y.pipe.sbuf = x.pipe.sbuf ∧ (y.pipe.hold == .wfi) = (x.pipe.hold == .wfi)

/-- An operation that keeps the parts, the stores and a WFI's hold keeps it. -/
theorem runKept_step (x : Cabinet) (core : Core) (y z : Cabinet) (hk : Kept z y) (hp : pipeOf z.pipe = pipeOf y.pipe)
    (h : RunKept x core y) : RunKept x core z := by
  simp only [pipeOf, PipePart.mk.injEq] at hp
  obtain ⟨h1, h2, h3, h4⟩ := h
  simp only [Kept] at hk h1
  exact ⟨by simp [Kept, hk, h1], hk.2.2.1.trans h2, hp.2.1.trans h3, hp.2.2.2.2.2.2.2.trans h4⟩

theorem markDuty_keeps (x y : Cabinet) : Kept (markDuty x y) y ∧ pipeOf (markDuty x y).pipe = pipeOf y.pipe := by
  unfold markDuty; split <;> simp [Kept, pipeOf]

theorem recountDuty_pipeOf (z : Sched) (y : Cabinet) : pipeOf (recountDuty z y).pipe = pipeOf y.pipe := by
  unfold recountDuty; split <;> rfl

theorem runKept_endRunExc (x : Cabinet) (core : Core) (e : Exc) (n : Nat) (y : Cabinet) (h : RunKept x core y) :
    RunKept x core (endRunExc e n y) := by
  have hk := endRunExc_keeps e n y
  have hp := endRunExc_pipe e n y
  obtain ⟨h1, h2, h3, h4⟩ := h
  simp only [Kept] at hk h1
  exact ⟨by simp [Kept, h1], hk.2.2.1.trans h2, hp.1.trans h3, hp.2.trans h4⟩

/-- An instruction of a run that raises no fault. -/
theorem finishRun_retires (k : Cls) (w1 w2 : Syl) (c : Cabinet) (r : Ret) (hf : r.fault = none) :
    RunKept r.c { r.c.core with runPc := nextPc (coreLen w1) r c.core.runPc } (finishRun k w1 w2 c r) := by
  unfold finishRun; rw [hf]; dsimp only
  generalize (c.pipe.sched.instr _ _ _ _ _) = p
  obtain ⟨q, e, h⟩ := countRetired_counts k w1 w2 (if r.ops.length = 1 then some p.1.timing else none) r c
  obtain ⟨q2, e2, h2⟩ := countWaits_counts k ((r.ops.findSome? (·.load)).map (·.1)) c.pipe.sched.waits p.1.waits c.core.runPc.toNat
    (countRetired k w1 w2 (if r.ops.length = 1 then some p.1.timing else none) r c)
  rw [h2, h]; dsimp only
  generalize ({ r.c.core with runPc := nextPc (coreLen w1) r c.core.runPc } : Core) = C
  have base : ∀ y : Cabinet, Kept { y with core := r.c.core } r.c → y.core = C → y.pipe.sbuf = r.c.pipe.sbuf →
      y.pipe.hold = r.c.pipe.hold → RunKept r.c C (recountDuty p.1 y) := by
    intro y h1 h2 h3 h4
    exact runKept_step _ _ y _ (recountDuty_keeps _ _) (recountDuty_pipeOf _ _) ⟨h1, h2, h3, by rw [h4]⟩
  have duty : ∀ y : Cabinet, RunKept r.c C y → RunKept r.c C
      (match r.duty with
        | some d => markDuty c (dutyRetired d.1 d.2 (p.2 + 1) y)
        | none => y) := by
    intro y hy; split
    · refine runKept_step _ _ _ _ (markDuty_keeps _ _).1 (markDuty_keeps _ _).2 ?_
      exact runKept_step _ _ _ _ (dutyRetired_keeps _ _ _ _) (dutyRetired_pipeOf _ _ _ _) hy
    · exact hy
  refine (fun (y : Cabinet) (hy : RunKept r.c C y) => ?_ : ∀ y : Cabinet, RunKept r.c C y → RunKept r.c C
    (match r.trap with
      | some e => endRunExc e (p.2 + 1) y
      | none => if r.ends then endRun (p.2 + 1) y
        else match fetchFault y.core.runPc y with
          | some e => endRunExc e ((p.1.instr y.core.runPc.toNat false false [{ alu := true }] none).2 + 1) y
          | none => y)) _ (duty _ (base _ (by simp [Kept]) rfl rfl rfl))
  split
  · exact runKept_endRunExc _ _ _ _ _ hy
  · split
    · exact runKept_step _ _ _ _ (endRun_keeps _ _) (endRun_pipeOf _ _) hy
    · split
      · exact runKept_endRunExc _ _ _ _ _ hy
      · exact hy

/-- A WFI that retires leaves everything but the registers, counts and the hold. -/
theorem wfiWake_parts (c : Cabinet) : Kept { wfiWake c with core := c.core } c ∧ (wfiWake c).pipe.sbuf = c.pipe.sbuf := by
  unfold wfiWake; split
  · have h := finishSup_retires .y wfiSyl 0 c { c := { c with pipe := { c.pipe with hold := .none } }, first := true } rfl rfl
    exact ⟨h.1, h.2.2.1⟩
  · simp [Kept]

/-- What the core executes runs whole: `issue` of an instruction that it executes now. -/
theorem issue_executes (k : Fin 16) (i : Instr) (cls : Cls) (body : Cabinet → Ret) (s : State) (hE : Executes k i s) :
    issue k i cls body (s.cab k) =
      finishInstr cls (fetchInstr (s.cab k)).w1 (fetchInstr (s.cab k)).w2 (fetchInstr (s.cab k)).c (body (fetchInstr (s.cab k)).c) := by
  obtain ⟨-, hready, hfetch, hdec⟩ := hE
  unfold issue; rw [hready]; dsimp only; rw [if_neg (by simp), hfetch, hdec]; dsimp only; rw [if_pos rfl]

/-- The number of syllables of the instruction that the core executes. -/
theorem executes_len (k : Fin 16) (i : Instr) (s : State) (hE : Executes k i s) :
    coreLen (fetchInstr (s.cab k)).w1 = Instr.syllables i := by
  rw [decodeCore_len _ _ _ _ hE.2.2.2, coded_syllables]

/-- AN INSTRUCTION RETIRES: from a state in which its core executes it, where its execution raises no fault and leaves the cabinet as
`x` is. -/
theorem issue_retires (k : Fin 16) (i : Instr) (cls : Cls) (body : Cabinet → Ret) (s : State) (x : Cabinet) (next : Word)
    (hi : exec i s = coreNext k i cls body s) (hE : Executes k i s)
    (hf : (body (fetchInstr (s.cab k)).c).fault = none) (hs : (body (fetchInstr (s.cab k)).c).stay = false)
    (hk : Kept (body (fetchInstr (s.cab k)).c).c x) (hb : (body (fetchInstr (s.cab k)).c).c.pipe.sbuf = x.pipe.sbuf)
    (hd : (body (fetchInstr (s.cab k)).c).c.pipe.deferred = x.pipe.deferred)
    (hw : ((body (fetchInstr (s.cab k)).c).c.pipe.hold == .wfi) = ((s.cab k).pipe.hold == .wfi))
    (hx : x.frame.inRun = (s.cab k).frame.inRun)
    (hn : nextPc (Instr.syllables i) (body (fetchInstr (s.cab k)).c) (curPc (s.cab k)) = next) : Retires k i s x next := by
  have hissue0 := issue_executes k i cls body s hE
  have hlen := executes_len k i s hE
  obtain ⟨hreset, hready, hfetch, -⟩ := hE
  have hF := fetchInstr_good (s.cab k) hfetch
  generalize hc : s.cab k = c at *
  generalize hw1 : (fetchInstr c).w1 = w1 at *
  generalize hw2 : (fetchInstr c).w2 = w2 at *
  generalize hc' : (fetchInstr c).c = c' at *
  generalize hb' : body c' = r at *
  have hrun : c'.frame.inRun = c.frame.inRun := by rw [hF]
  have hcore : c'.core = c.core := by rw [hF]
  have key : ∀ y : Cabinet, Kept { y with core := x.core } x → y.core = coreAfter x next → y.pipe.sbuf = x.pipe.sbuf →
      (y.pipe.hold == .wfi) = (c.pipe.hold == .wfi) → issue k i cls body c = y → Retires k i s x next := by
    intro y hk' hcore' hsb hwf hy
    refine ⟨{ s with chip := settleCab k (issue k i cls body s.chip.cabs[k]) s.chip }, ?_,
      ⟨rfl, fun j hj => settleCab_other _ _ _ _ hj⟩, ?_⟩
    · rw [hi]; unfold coreNext cabNext chipNext Chip.runCab
      rw [if_neg (by simp [hreset])]
    have hc2 : s.chip.cabs[k] = c := hc
    have hcab : State.cab { s with chip := settleCab k y s.chip } k =
        { stateHeartbeat c (wfiWake (followUp c y)) with notes := [] } := by
      have := settleCab_same k y s.chip; rw [hc2] at this; exact this
    rw [hc2, hy, hcab]
    have hps := followUp_pipeOf c y
    simp only [pipeOf, PipePart.mk.injEq] at hps
    have hfu := followUp_keeps c y
    have hwf2 : ((followUp c y).pipe.hold == .wfi) = (c.pipe.hold == .wfi) := by rw [hps.2.2.2.2.2.2.2, hwf]
    have hK : Kept { followUp c y with core := x.core } x := by
      simp only [Kept] at hk' ⊢; simp [hk']
    have hco : (followUp c y).core = coreAfter x next := by simp only [Kept] at hfu; rw [hfu.2.2.1, hcore']
    by_cases hwait : (followUp c y).pipe.hold = .wfi
    · refine ⟨fun hcl => ?_, ?_⟩
      · have hcw : c.pipe.hold = .wfi := by have := hwf2; simp [hwait] at this; exact this
        rcases hcl with hcl | hcl
        · exact absurd (hc ▸ hcw) hcl
        · simp only [stateHeartbeat_frame] at hcl
          have hsh := stateHeartbeat_keeps c (wfiWake (followUp c y))
          simp only [Kept] at hsh
          dsimp only; rw [hsh.2.2.1]
          unfold wfiWake at hcl ⊢
          split
          · rename_i hwk
            rw [if_pos hwk] at hcl
            have hin := (finishSup_retires .y wfiSyl 0 (followUp c y)
              { c := { followUp c y with pipe := { (followUp c y).pipe with hold := .none } }, first := true } rfl rfl).2.2.2.2.2
            rw [hin] at hcl
            simp [mayEnter] at hwk
            simp [hwk] at hcl
          · exact hco
      · have hin := wfiWake_parts (followUp c y)
        have hsh := stateHeartbeat_keeps c (wfiWake (followUp c y))
        simp only [Kept] at hin hK hsh
        obtain ⟨⟨-, h1, -, h2, h3, h4, h5, h6, h7, -⟩, h8⟩ := hin
        obtain ⟨-, g1, -, g2, g3, g4, g5, g6, g7, -⟩ := hK
        obtain ⟨-, e1, -, e2, e3, e4, e5, e6, e7, -⟩ := hsh
        refine ⟨e1.trans (h1.trans g1), ?_, e2.trans (h2.trans g2), e3.trans (h3.trans g3), e4.trans (h4.trans g4),
          e5.trans (h5.trans g5), e6.trans (h6.trans g6), e7.trans (h7.trans g7)⟩
        dsimp only; rw [stateHeartbeat_pipe]; exact h8.trans (hps.2.1.trans hsb)
    · rw [wfiWake_idle _ hwait]
      have hsh := stateHeartbeat_keeps c (followUp c y)
      simp only [Kept] at hK hsh
      obtain ⟨-, g1, -, g2, g3, g4, g5, g6, g7, -⟩ := hK
      obtain ⟨-, e1, e0, e2, e3, e4, e5, e6, e7, -⟩ := hsh
      refine ⟨fun _ => e0.trans hco, e1.trans g1, ?_, e2.trans g2, e3.trans g3, e4.trans g4, e5.trans g5, e6.trans g6, e7.trans g7⟩
      dsimp only; rw [stateHeartbeat_pipe]; exact hps.2.1.trans hsb
  have hissue : issue k i cls body c = if c'.frame.inRun then finishRun cls w1 w2 c' r else finishSup cls w1 w2 c' r := by
    rw [hissue0]; rfl
  by_cases hin : c.frame.inRun = true
  · rw [if_pos (by rw [hrun]; exact hin)] at hissue
    have hfr := finishRun_retires cls w1 w2 c' r hf
    refine key (finishRun cls w1 w2 c' r) ?_ ?_ (hfr.2.2.1.trans hb) (hfr.2.2.2.trans hw) hissue
    · have h1 := hfr.1; simp only [Kept] at h1 hk ⊢; simp [h1, hk]
    · rw [hfr.2.1, coreAfter, if_pos (by rw [hx]; exact hin), hcore, hlen]
      have : curPc c = c.core.runPc := by simp [curPc, hin]
      rw [this] at hn; rw [hn]; simp only [Kept] at hk; rw [hk.2.2.1]
  · rw [if_neg (by rw [hrun]; exact hin)] at hissue
    have hfr := finishSup_retires cls w1 w2 c' r hf hs
    refine key (finishSup cls w1 w2 c' r) ?_ ?_ (hfr.2.2.1.trans hb) (by rw [hfr.2.2.2.1]; exact hw) hissue
    · have h1 := hfr.1; simp only [Kept] at h1 hk ⊢; simp [h1, hk]
    · rw [hfr.2.1, coreAfter, if_neg (by rw [hx]; exact hin), hcore, hlen]
      have : curPc c = c.core.pc := by simp [curPc, hin]
      rw [this] at hn; rw [hn]; simp only [Kept] at hk
      exact ageDeferred_core _ _ (by simp [hk]) hd

end Sys2Proof.Machine
end

