-- ==== Sys2Proof/Laws/Registers.lean ====
section
/-!
SUPPORT. Operations on the core's registers alone: how they are composed, and how an instruction made of one retires.
-/
namespace Sys2Proof.Machine

/-- A value that the registers, and whether a run is in progress, settle. -/
def RegVal {α : Type} (v : Cabinet → α) : Prop := ∀ c d : Cabinet, c.core = d.core → c.frame.inRun = d.frame.inRun → v c = v d

/-- An operation that changes the registers alone, and reads nothing else but whether a run is in progress. -/
def RegOp (x : Cabinet → Cabinet) : Prop := (∀ c, x c = { c with core := (x c).core }) ∧ RegVal (fun c => (x c).core)

theorem regVal_const {α : Type} (a : α) : RegVal (fun _ => a) := fun _ _ _ _ => rfl

theorem regVal_map {α β : Type} (f : α → β) (v : Cabinet → α) (h : RegVal v) : RegVal (fun c => f (v c)) :=
  fun c d h1 h2 => congrArg f (h c d h1 h2)

theorem regVal_map2 {α β γ : Type} (f : α → β → γ) (u : Cabinet → α) (v : Cabinet → β) (hu : RegVal u) (hv : RegVal v) :
    RegVal (fun c => f (u c) (v c)) := fun c d h1 h2 => by dsimp only; rw [hu c d h1 h2, hv c d h1 h2]

theorem regVal_ctx : RegVal ctx := fun c d h1 h2 => by simp [ctx, h1, h2]

theorem regVal_getD (i : Fin 16) : RegVal (getD i) := fun c d h1 h2 => by simp [getD, ctx, h1, h2]

theorem regVal_level : RegVal Cabinet.level := fun c d h1 h2 => by simp [Cabinet.level, h1, h2]

theorem regVal_getSp : RegVal (fun c => getSp c.level c) := fun c d h1 h2 => by
  dsimp only; rw [regVal_level c d h1 h2]; cases d.level <;> simp [getSp, h1]

theorem regVal_getA (i : Nat) : RegVal (getA i) := fun c d h1 h2 => by
  unfold getA; split
  · simp [ctx, h1, h2]
  · exact regVal_getSp c d h1 h2

theorem regVal_getAcc (x : Fin 2) : RegVal (getAcc x) := fun c d h1 h2 => by simp [getAcc, ctx, h1, h2]

theorem regVal_getFlags : RegVal getFlags := fun c d h1 h2 => by simp [getFlags, h1, h2]

theorem regVal_carry : RegVal carry := fun c d h1 h2 => by simp [carry, getFlags, h1, h2]

theorem regVal_curPc : RegVal curPc := fun c d h1 h2 => by simp [curPc, h1, h2]

theorem regVal_after (len : Nat) : RegVal (after len) := fun c d h1 h2 => by simp [after, curPc, h1, h2]

theorem regVal_core : RegVal Cabinet.core := fun _ _ h _ => h

theorem regOp_id : RegOp (fun c => c) := ⟨fun _ => rfl, regVal_core⟩

/-- What an operation reads of the registers after another. -/
theorem regVal_comp {α : Type} (v : Cabinet → α) (y : Cabinet → Cabinet) (hv : RegVal v) (hy : RegOp y) : RegVal (fun c => v (y c)) :=
  fun c d h1 h2 => hv _ _ (hy.2 c d h1 h2) (by rw [hy.1 c, hy.1 d]; exact h2)

theorem regOp_comp (x y : Cabinet → Cabinet) (hx : RegOp x) (hy : RegOp y) : RegOp (fun c => x (y c)) :=
  ⟨fun c => by dsimp only; rw [hx.1 (y c), hy.1 c], regVal_comp _ y hx.2 hy⟩

/-- An operation with a value that is an operation on registers for each value. -/
theorem regOp_with {α : Type} (f : α → Cabinet → Cabinet) (hf : ∀ a, RegOp (f a)) (v : Cabinet → α) (hv : RegVal v)
    (y : Cabinet → Cabinet) (hy : RegOp y) : RegOp (fun c => f (v c) (y c)) :=
  ⟨fun c => by dsimp only; rw [(hf (v c)).1 (y c), hy.1 c], fun c d h1 h2 => by
    dsimp only; rw [hv c d h1 h2]; exact regVal_comp _ y (hf (v d)).2 hy c d h1 h2⟩

theorem regOp_setCtx (x : Ctx) : RegOp (setCtx x) := by
  refine ⟨fun c => ?_, fun c d h1 h2 => ?_⟩
  · unfold setCtx; split <;> rfl
  · simp only [setCtx, h1, h2]; split <;> rfl

theorem regOp_setD (i : Fin 16) (v : Word) : RegOp (setD i v) :=
  regOp_with setCtx regOp_setCtx (fun c => { ctx c with d := (ctx c).d.set i v }) (fun c d h1 h2 => by dsimp only; rw [regVal_ctx c d h1 h2]) _ regOp_id

theorem regOp_setAcc (x : Fin 2) (v : Acc) : RegOp (setAcc x v) :=
  regOp_with setCtx regOp_setCtx (fun c => { ctx c with acc := (ctx c).acc.set x v }) (fun c d h1 h2 => by dsimp only; rw [regVal_ctx c d h1 h2]) _ regOp_id

theorem regOp_setSp (l : Level) (v : Word) : RegOp (setSp l v) := by
  cases l <;> exact ⟨fun c => rfl, fun c d h1 h2 => by simp [setSp, h1]⟩

theorem regOp_setA (i : Nat) (v : Word) : RegOp (setA i v) := by
  by_cases h : i < 7
  · have := regOp_with setCtx regOp_setCtx (fun c => { ctx c with a := (ctx c).a.set i v h }) (fun c d h1 h2 => by dsimp only; rw [regVal_ctx c d h1 h2]) _ regOp_id
    unfold setA; simpa [h] using this
  · have := regOp_with (fun l => setSp l v) (fun l => regOp_setSp l v) _ regVal_level _ regOp_id
    unfold setA; simpa [h] using this

theorem regOp_setFlags (w : Word) : RegOp (setFlags w) := by
  refine ⟨fun c => ?_, fun c d h1 h2 => ?_⟩
  · unfold setFlags; split <;> rfl
  · simp only [setFlags, h1, h2]; split <;> rfl

theorem regOp_putFlags (u : FlagUpd) : RegOp (putFlags u) :=
  regOp_with setFlags regOp_setFlags (fun c => u.apply (getFlags c)) (fun c d h1 h2 => by dsimp only; rw [regVal_getFlags c d h1 h2]) _ regOp_id

/-- Flags that no operation names stay. -/
@[simp] theorem putFlags_none (c : Cabinet) : putFlags {} c = c := by
  have h : ∀ w m : Word, (w &&& ~~~ m) ||| (w &&& m &&& m) = w := by
    intro w m; apply BitVec.eq_of_getLsbD_eq; intro i hi
    simp [hi]; cases w[i] <;> cases m[i] <;> rfl
  have hu : ∀ w : Word, ({} : FlagUpd).apply w = w := fun w => by simp [FlagUpd.apply, putFlag]
  unfold putFlags setFlags getFlags; rw [hu]
  split <;> simp only [h]

theorem regVal_next (m : Mode) (i n : Nat) : RegVal (m.next i n) := fun c d h1 h2 => by
  cases m <;> simp [Mode.next, regVal_getA i c d h1 h2, h1]

theorem regOp_stepMode (m : Mode) (i n : Nat) : RegOp (stepMode m i n) := by
  refine ⟨fun c => ?_, fun c d h1 h2 => ?_⟩
  · unfold stepMode; split
    · rfl
    · exact (regOp_setA _ _).1 _
  · unfold stepMode; dsimp only; rw [regVal_next m i n c d h1 h2]; split
    · exact h1
    · exact (regOp_setA _ _).2 c d h1 h2

/-- AN INSTRUCTION ON REGISTERS RETIRES: its cabinet after is `x` of the cabinet before. -/
theorem issue_registers (k : Fin 16) (i : Instr) (cls : Cls) (body : Cabinet → Ret) (s : State)
    (x : Cabinet → Cabinet) (next : Cabinet → Word) (hi : exec i s = coreNext k i cls body s) (hE : Executes k i s)
    (hx : RegOp x) (hf : ∀ c, (body c).fault = none) (hs : ∀ c, (body c).stay = false) (hc : ∀ c, (body c).c = x c)
    (hn : ∀ c, nextPc (Instr.syllables i) (body c) (curPc c) = next c) (hnext : RegVal next) :
    Retires k i s (x (s.cab k)) (next (s.cab k)) := by
  have hF := fetchInstr_good (s.cab k) hE.2.2.1
  obtain ⟨hg, hv⟩ := hx
  have hcf : (fetchInstr (s.cab k)).c.core = (s.cab k).core ∧ (fetchInstr (s.cab k)).c.frame = (s.cab k).frame ∧
      (fetchInstr (s.cab k)).c.pipe.sbuf = (s.cab k).pipe.sbuf ∧
      (fetchInstr (s.cab k)).c.pipe.deferred = (s.cab k).pipe.deferred ∧
      (fetchInstr (s.cab k)).c.pipe.hold = (s.cab k).pipe.hold := by
    rw [hF]; exact ⟨rfl, rfl, rfl, rfl, rfl⟩
  obtain ⟨h1, h2, h3, h4, h5⟩ := hcf
  have hr := congrArg Frame.inRun h2
  have hK := fetchInstr_keeps (s.cab k)
  have hcore := hv _ _ h1 hr
  refine issue_retires k i cls body s _ _ hi hE (hf _) (hs _) ?_ ?_ ?_ ?_ ?_ ?_
  · rw [hc, hg, hg (s.cab k)]; simp only [Kept] at hK ⊢; simp only [hK, and_true]; exact ⟨trivial, trivial, hcore⟩
  · rw [hc, hg, hg (s.cab k)]; exact h3
  · rw [hc, hg, hg (s.cab k)]; exact h4
  · rw [hc, hg]; simp only [h5]
  · rw [hg]
  · rw [← hnext (fetchInstr (s.cab k)).c (s.cab k) h1 hr, ← hn]
    rw [regVal_curPc (fetchInstr (s.cab k)).c (s.cab k) h1 hr]

end Sys2Proof.Machine
end

