-- ==== Sys2Proof/Laws/Access.lean ====
section
/-!
SUPPORT. Data accesses of the core: what the access checks depend on, and what a load from memory delivers and leaves.
-/
namespace Sys2Proof.Machine

/-- Counting leaves the control register of the counters. -/
@[simp] theorem bump_ctrl (n : Fin 64) (m : Nat) (a : Attr) (c : Cabinet) : (bump n m a c).prf.ctrl = c.prf.ctrl := by
  unfold bump; dsimp only; split
  · rfl
  · split
    · unfold setWrap Cabinet.orIrq Cabinet.setBlk; dsimp only; split <;> rfl
    · rfl

@[simp] theorem countFill_ctrl (a : Nat) (c : Cabinet) : (countFill a c).prf.ctrl = c.prf.ctrl := bump_ctrl _ _ _ _

@[simp] theorem bufPut_ctrl (a : Nat) (x : FetchGroup) (c : Cabinet) : (bufPut a x c).prf.ctrl = c.prf.ctrl := by
  unfold bufPut; rw [bump_ctrl]

@[simp] theorem deliverLine_ctrl (l : CacheLine) (c : Cabinet) : (deliverLine l c).prf.ctrl = c.prf.ctrl := by
  unfold deliverLine; dsimp only; split <;> rfl

@[simp] theorem startFill_ctrl (a : Nat) (c : Cabinet) : (startFill a c).prf.ctrl = c.prf.ctrl := by
  unfold startFill; dsimp only; exact countFill_ctrl a c

@[simp] theorem redirectFill_ctrl (c : Cabinet) : (redirectFill c).prf.ctrl = c.prf.ctrl := by
  unfold redirectFill; (repeat' split) <;> simp

@[simp] theorem completeFill_ctrl (a : Nat) (c : Cabinet) : (completeFill a c).1.prf.ctrl = c.prf.ctrl := by
  unfold completeFill; dsimp only; (repeat' split) <;> simp

theorem hitGroup_ctrl (a : Nat) (c : Cabinet) (x : Cabinet × FetchGroup) (h : hitGroup a c = some x) :
    x.1.prf.ctrl = c.prf.ctrl := by
  unfold hitGroup at h; dsimp only at h
  (repeat' split at h) <;> simp only [Option.some.injEq, reduceCtorEq] at h <;> subst h
  · rfl
  · rfl
  · exact bump_ctrl _ _ _ _

@[simp] theorem fetchWord_ctrl (a : Nat) (c : Cabinet) : (fetchWord a c).1.prf.ctrl = c.prf.ctrl := by
  unfold fetchWord; (repeat' split) <;> try simp
  rename_i h; exact hitGroup_ctrl _ _ _ h

@[simp] theorem prefetch_ctrl (g : Nat) (c : Cabinet) : (prefetch g c).prf.ctrl = c.prf.ctrl := by
  unfold prefetch; (repeat' split) <;> try simp
  rename_i h; exact hitGroup_ctrl _ _ _ h

theorem fetchSecond_ctrl (w1 : Syl) (c : Cabinet) (h : (fetchSecond w1 c).exc = none) :
    (fetchSecond w1 c).c.prf.ctrl = c.prf.ctrl := by
  unfold fetchSecond at h ⊢; split at h
  · simp at h
  · dsimp only at h ⊢; split at h
    · simp at h
    · rename_i h1
      rw [checkWord_good _ _ _ (by simpa using h1)]; simp

/-- A fetch without an exception leaves the control register of the counters. -/
theorem fetchInstr_ctrl (c : Cabinet) (h : (fetchInstr c).exc = none) : (fetchInstr c).c.prf.ctrl = c.prf.ctrl := by
  unfold fetchInstr at h ⊢; dsimp only at h ⊢
  split at h
  · simp at h
  · rename_i h1
    rw [if_neg h1]; dsimp only
    have hg := checkWord_good _ _ _ (by simpa using h1)
    rw [prefetch_ctrl]
    split
    · rename_i h2; rw [if_pos h2] at h
      rw [fetchSecond_ctrl _ _ h, hg]; simp [bufTrim]
    · dsimp only; rw [hg]; simp [bufTrim]

/-- The access checks depend on the registers, on whether a run is in progress, and on PRF_CTRL. -/
theorem accessFault_congr (a : Word) (n : Nat) (k : AccKind) (c d : Cabinet) (h1 : c.core = d.core)
    (h2 : c.frame.inRun = d.frame.inRun) (h3 : c.prf.ctrl = d.prf.ctrl) : accessFault a n k c = accessFault a n k d := by
  have hl : c.level = d.level := regVal_level c d h1 h2
  have hreg : ∀ b, userReg c a.toNat b = userReg d a.toNat b := by
    intro b; simp only [userReg, userPrf, h1, h3]
  have hdat : userData c a.toNat n = userData d a.toNat n := by simp only [userData, h1]
  have hm : ∀ b, mayReach c a.toNat n b = mayReach d a.toNat n b := by
    intro b; unfold mayReach; rw [h2, hl, hreg, hdat]
  simp only [accessFault, hm]

/-- What a fetch without an exception leaves of a cabinet. -/
theorem fetchInstr_same (c : Cabinet) (h : (fetchInstr c).exc = none) :
    Kept (fetchInstr c).c c ∧ (fetchInstr c).c.frame = c.frame ∧ (fetchInstr c).c.pipe.sbuf = c.pipe.sbuf ∧
    (fetchInstr c).c.pipe.deferred = c.pipe.deferred ∧ (fetchInstr c).c.pipe.hold = c.pipe.hold ∧
    (fetchInstr c).c.prf.ctrl = c.prf.ctrl ∧ (fetchInstr c).c.par = c.par ∧ (fetchInstr c).c.bank = c.bank ∧
    (fetchInstr c).c.mode = c.mode ∧ (fetchInstr c).c.icu = c.icu ∧
    (fetchInstr c).c.pipe.violation = c.pipe.violation := by
  have hF := fetchInstr_good c h
  refine ⟨fetchInstr_keeps c, ?_⟩
  rw [fetchInstr_ctrl c h, hF]
  exact ⟨rfl, rfl, rfl, rfl, rfl, rfl, rfl, rfl, rfl, rfl⟩

/-- Only counters, events and the parity block differ. -/
def ReadOnly (c' c : Cabinet) : Prop := ∃ p e q, c' = { c with prf := p, errs := e, par := q }

theorem ReadOnly_counts (c' c : Cabinet) (h : CountsOnly c' c) : ReadOnly c' c := by
  obtain ⟨p, e, rfl⟩ := h; exact ⟨p, e, c.par, rfl⟩

theorem ReadOnly_trans (a b c : Cabinet) (h1 : ReadOnly a b) (h2 : ReadOnly b c) : ReadOnly a c := by
  obtain ⟨p, e, q, rfl⟩ := h1
  obtain ⟨p', e', q', rfl⟩ := h2
  exact ⟨p, e, q, rfl⟩

theorem memRead_readOnly (c' c : Cabinet) (h : ReadOnly c' c) (a n : Nat) : memRead c' a n = memRead c a n := by
  obtain ⟨p, e, q, rfl⟩ := h; rfl

theorem loadFails_readOnly (c' c : Cabinet) (h : ReadOnly c' c) (a n : Nat) : loadFails c' a n = loadFails c a n := by
  obtain ⟨p, e, q, rfl⟩ := h; rfl

theorem loadCheck_good (a n : Nat) (c : Cabinet) (h : loadFails c a n = 0) :
    (loadCheck a n c).2 = false ∧ ReadOnly (loadCheck a n c).1 c := by
  unfold loadCheck; dsimp only; rw [h]
  split <;> exact ⟨rfl, _, _, _, rfl⟩

theorem popCheck_good (a : Nat) (c : Cabinet) (h : loadFails c a 4 = 0) : popCheck a c = (c, false) := by
  unfold popCheck; dsimp only; rw [h]; rfl

/-- A load that no older store overlaps, with good parity, reads memory. -/
theorem loadMem_plain (pop : Bool) (k : Cls) (a n : Nat) (c : Cabinet) (hy : youngest c a n = none) (hl : loadFails c a n = 0)
    (hp : pop = true → n = 4) : (loadMem pop k a n c).2 = .val (memRead c a n) ∧ ReadOnly (loadMem pop k a n c).1 c := by
  unfold loadMem; rw [hy]; dsimp only
  have hc : ReadOnly (countRead a (bump 0x0F 1 { insAttr k c with data := some a } c)) c :=
    ReadOnly_counts _ _ (CountsOnly_trans _ _ _ (bump_counts _ _ _ _) (bump_counts _ _ _ _))
  generalize hd : countRead a (bump 0x0F 1 { insAttr k c with data := some a } c) = d at *
  have hld : loadFails d a n = 0 := by rw [loadFails_readOnly _ _ hc, hl]
  cases pop
  · have hg := loadCheck_good a n d hld
    simp only [Bool.false_eq_true, if_false, hg.1]
    exact ⟨by rw [memRead_readOnly _ _ (ReadOnly_trans _ _ _ hg.2 hc)], ReadOnly_trans _ _ _ hg.2 hc⟩
  · have hn := hp rfl; subst hn
    simp only [if_true, popCheck_good a d hld, Bool.false_eq_true, if_false]
    exact ⟨by rw [memRead_readOnly _ _ hc], hc⟩

/-- A load that the youngest older overlapping store holds whole takes its bytes. -/
theorem loadMem_forward (pop : Bool) (k : Cls) (a n : Nat) (c : Cabinet) (e : StoreEntry) (hy : youngest c a n = some e)
    (hr : rangeHolds e.addr e.size a n = true) :
    (loadMem pop k a n c).2 = .val (e.forward a n) ∧ ReadOnly (loadMem pop k a n c).1 c := by
  unfold loadMem; rw [hy]; dsimp only; rw [if_pos hr]
  exact ⟨rfl, ReadOnly_counts _ _ (CountsOnly_trans _ _ _ (bump_counts _ _ _ _) (bump_counts _ _ _ _))⟩

/-- An operation on registers after another cabinet that agrees in what it reads. -/
theorem regOp_same (x : Cabinet → Cabinet) (hx : RegOp x) (c d : Cabinet) (hk : Kept d c) (hr : d.frame.inRun = c.frame.inRun)
    (hs : d.pipe.sbuf = c.pipe.sbuf) (hd : d.pipe.deferred = c.pipe.deferred) :
    Kept (x d) (x c) ∧ (x d).pipe.sbuf = (x c).pipe.sbuf ∧ (x d).pipe.deferred = (x c).pipe.deferred ∧
    (x d).pipe.hold = d.pipe.hold ∧ (x c).frame.inRun = c.frame.inRun := by
  have hc := hx.2 d c hk.2.2.1 hr
  rw [hx.1 d, hx.1 c]
  simp only [Kept] at hk ⊢
  simp only [hk, hs, hd, and_true]
  exact ⟨trivial, trivial, hc⟩

end Sys2Proof.Machine
end

