-- ==== Sys2Proof/Laws/Memory.lean ====
section
/-!
SUPPORT. The canonical form of the memories: lists sorted by key stay sorted, and every operation on a cabinet that writes a memory
keeps the form. Operations that write none leave the memories as they are (Laws/Keeps*.lean).
-/
namespace Sys2Proof.Machine

/-! ## Sorted lists -/

/-- The head of a sorted list lies below a key that all of it lies below. -/
theorem assocSorted_cons {α : Type} (a : Nat) (x : α) (l : List (Nat × α)) :
    assocSorted ((a, x) :: l) = true ↔ (∀ p ∈ l.head?, a < p.1) ∧ assocSorted l = true := by
  cases l with
  | nil => simp [assocSorted]
  | cons p t => obtain ⟨b, y⟩ := p; simp [assocSorted]

/-- The head of a list after a put is the new key or the old head. -/
theorem assocPut_head {α : Type} (a : Nat) (x : α) (l : List (Nat × α)) (p : Nat × α) :
    p ∈ (assocPut a x l).head? → p.1 = a ∨ p ∈ l.head? := by
  cases l with
  | nil => simp [assocPut]; rintro rfl; simp
  | cons q t =>
    obtain ⟨b, y⟩ := q
    simp only [assocPut]
    split
    · simp; rintro rfl; simp
    · split
      · simp; rintro rfl; simp
      · simp; rintro rfl; simp

/-- A put keeps a list sorted. -/
theorem assocPut_sorted {α : Type} (a : Nat) (x : α) (l : List (Nat × α)) (h : assocSorted l = true) :
    assocSorted (assocPut a x l) = true := by
  induction l with
  | nil => rfl
  | cons q t ih =>
    obtain ⟨b, y⟩ := q
    rw [assocSorted_cons] at h
    simp only [assocPut]
    split
    · rw [assocSorted_cons]
      refine ⟨?_, ?_⟩
      · simpa using by assumption
      · rw [assocSorted_cons]; exact h
    · split
      · rename_i h1 h2
        subst h2
        rw [assocSorted_cons]
        exact h
      · rw [assocSorted_cons]
        refine ⟨?_, ih h.2⟩
        intro p hp
        rcases assocPut_head a x t p hp with h1 | h1
        · omega
        · exact h.1 p h1

/-- A filter of a sorted list is sorted. -/
theorem assocSorted_filter {α : Type} (f : Nat × α → Bool) (l : List (Nat × α)) (h : assocSorted l = true) :
    assocSorted (l.filter f) = true ∧ ∀ p ∈ (l.filter f).head?, ∀ q ∈ l.head?, q.1 ≤ p.1 := by
  induction l with
  | nil => simp [assocSorted]
  | cons q t ih =>
    obtain ⟨b, y⟩ := q
    rw [assocSorted_cons] at h
    obtain ⟨i1, i2⟩ := ih h.2
    have above : ∀ p ∈ (t.filter f).head?, b < p.1 := by
      intro p hp
      cases ht : t.head? with
      | none =>
        cases t with
        | nil => simp at hp
        | cons _ _ => simp at ht
      | some r => exact Nat.lt_of_lt_of_le (h.1 r (by rw [ht]; rfl)) (i2 p hp r (by rw [ht]; rfl))
    by_cases hf : f (b, y) = true
    · rw [List.filter_cons_of_pos hf]
      refine ⟨(assocSorted_cons b y _).2 ⟨above, i1⟩, ?_⟩
      simp
    · rw [List.filter_cons_of_neg (by simpa using hf)]
      refine ⟨i1, ?_⟩
      intro p hp q hq
      simp at hq
      subst hq
      exact Nat.le_of_lt (above p hp)

/-- Insertion into a strictly rising list is a put. -/
theorem setInsert_put (a : Nat) (l : List Nat) :
    (setInsert a l).map (fun x => (x, ())) = assocPut a () (l.map (fun x => (x, ()))) := by
  induction l with
  | nil => rfl
  | cons b t ih =>
    simp only [setInsert, List.map_cons, assocPut]
    split
    · simp
    · split
      · rename_i h; simp [h]
      · simp [ih]

/-! ## The memories -/

/-- One byte written keeps the form of a memory. -/
theorem Mem_put_wf (m : Mem) (a : Nat) (b : Byte) (w : Bool) (h : m.wf = true) : (m.put a b w).wf = true := by
  unfold Mem.put
  split
  · exact h
  · simp only [Mem.wf, Bool.and_eq_true, List.all_eq_true, decide_eq_true_eq] at h ⊢
    obtain ⟨⟨h1, h2⟩, h3⟩ := h
    refine ⟨⟨assocPut_sorted a b _ h1, ?_⟩, ?_⟩
    · intro x hx
      have key : ∀ (l : List Host.Cell), (∀ y ∈ l, y.1 < 0x22000) → ∀ y ∈ assocPut a b l, y.1 < 0x22000 := by
        intro l
        induction l with
        | nil => intro _ y hy; simp [assocPut] at hy; subst hy; simpa using by omega
        | cons q t ih =>
          obtain ⟨c, z⟩ := q
          intro hl y hy
          simp only [assocPut] at hy
          split at hy
          · simp at hy
            rcases hy with rfl | rfl | hy
            · simpa using by omega
            · exact hl _ (by simp)
            · exact hl _ (by simp [hy])
          · split at hy
            · simp at hy
              rcases hy with rfl | hy
              · simpa using by omega
              · exact hl _ (by simp [hy])
            · simp at hy
              rcases hy with rfl | hy
              · exact hl _ (by simp)
              · exact ih (fun y hy => hl y (by simp [hy])) y hy
      exact key _ h2 x hx
    · split
      · rw [setInsert_put]; exact assocPut_sorted _ _ _ h3
      · have := (assocSorted_filter (fun p => p.1 != a) _ h3).1
        rw [List.filter_map] at this
        exact this

/-- A list without one key keeps strictly rising keys, and has no others. -/
theorem assocErase_sorted {α : Type} (a : Nat) (l : List (Nat × α)) (h : assocSorted l = true) :
    assocSorted (assocErase a l) = true ∧ ∀ p ∈ (assocErase a l).head?, ∀ q ∈ l.head?, q.1 ≤ p.1 := by
  induction l with
  | nil => simp [assocErase, assocSorted]
  | cons q t ih =>
    obtain ⟨b, y⟩ := q
    rw [assocSorted_cons] at h
    obtain ⟨i1, i2⟩ := ih h.2
    unfold assocErase; split
    · exact ⟨h.2, fun p hp q hq => by simp at hq; subst hq; exact Nat.le_of_lt (h.1 p hp)⟩
    · refine ⟨(assocSorted_cons b y _).2 ⟨fun p hp => ?_, i1⟩, fun p hp q hq => by simp at hp hq; subst hp hq; exact Nat.le_refl _⟩
      cases ht : t.head? with
      | none => cases t with
        | nil => simp [assocErase] at hp
        | cons _ _ => simp at ht
      | some r => exact Nat.lt_of_lt_of_le (h.1 r (by rw [ht]; rfl)) (i2 p hp r (by rw [ht]; rfl))

theorem mem_assocErase {α : Type} (a : Nat) (l : List (Nat × α)) (p : Nat × α) (h : p ∈ assocErase a l) : p ∈ l := by
  induction l with
  | nil => simp [assocErase] at h
  | cons q t ih =>
    obtain ⟨b, y⟩ := q
    unfold assocErase at h; split at h
    · exact List.mem_cons_of_mem _ h
    · rcases List.mem_cons.1 h with h | h
      · rw [h]; exact List.mem_cons_self
      · exact List.mem_cons_of_mem _ (ih h)

/-- One byte put back as it stood keeps the form of a memory. -/
theorem Mem_restore_wf (m : Mem) (x : SavedByte) (h : m.wf = true) : (m.restore x).wf = true := by
  unfold Mem.restore; split
  · exact Mem_put_wf _ _ _ _ h
  · simp only [Mem.wf, Bool.and_eq_true, List.all_eq_true, decide_eq_true_eq] at h ⊢
    obtain ⟨⟨h1, h2⟩, h3⟩ := h
    refine ⟨⟨(assocErase_sorted _ _ h1).1, fun y hy => h2 y (mem_assocErase _ _ _ hy)⟩, ?_⟩
    have := (assocSorted_filter (fun p => p.1 != x.1) _ h3).1
    rw [List.filter_map] at this
    exact this

/-- What holds before a fold and is kept by each of its steps holds after it. -/
theorem foldl_inv {σ α : Type} (p : σ → Prop) (f : σ → α → σ) (h : ∀ s x, p s → p (f s x)) (l : List α) :
    ∀ s, p s → p (l.foldl f s) := by
  induction l with
  | nil => intro s hs; exact hs
  | cons x t ih => intro s hs; exact ih _ (h s x hs)

/-- Every part of the form of a cabinet's memories. -/
theorem Mems_wf_iff (m : Mems) : m.wf = true ↔
    m.data.wf = true ∧ assocSorted m.prog = true ∧ assocSorted m.bankA = true ∧ assocSorted m.bankB = true := by
  simp [Mems.wf, SylMem.wf, and_assoc]

@[simp] theorem memWrite_wf (inj : Bool) (a : Nat) (bs : List Byte) (c : Cabinet) (h : c.mems.wf = true) :
    (memWrite inj a bs c).mems.wf = true := by
  rw [Mems_wf_iff] at h ⊢
  refine ⟨?_, h.2⟩
  show Mem.wf _ = true
  exact foldl_inv (fun m => Mem.wf m = true) _ (fun m i hm => Mem_put_wf m _ _ _ hm) _ _ h.1

@[simp] theorem progWrite_wf (a : Nat) (w : BitVec 16) (c : Cabinet) (h : c.mems.wf = true) : (progWrite a w c).mems.wf = true := by
  rw [Mems_wf_iff] at h ⊢
  exact ⟨h.1, assocPut_sorted _ _ _ h.2.1, h.2.2⟩

@[simp] theorem unpush_wf (saved : List SavedByte) (c : Cabinet) (h : c.mems.wf = true) : (unpush saved c).mems.wf = true := by
  rw [Mems_wf_iff] at h ⊢
  refine ⟨?_, h.2⟩
  show Mem.wf _ = true
  exact foldl_inv (fun m => Mem.wf m = true) _ (fun m x hm => Mem_restore_wf m x hm) _ _ h.1

end Sys2Proof.Machine
end

