-- ==== Sys2Proof/Laws/MemoryForm.lean ====
section
/-!
SUPPORT. Every operation on a cabinet keeps the canonical form of its memories: those that write a memory, and those that are built from
them.
-/
namespace Sys2Proof.Machine

/-! ## The store buffer, the dump engine -/

@[simp] theorem dumpWord_wf (a : Nat) (w : Word) (c : Cabinet) (h : c.mems.wf = true) : (dumpWord a w c).mems.wf = true := by
  unfold dumpWord; split <;> simp [h]

@[simp] theorem dumpComplete_wf (c : Cabinet) (h : c.mems.wf = true) : (dumpComplete c).mems.wf = true := by
  unfold dumpComplete; dsimp only
  split
  · exact h
  · split
    · simp only [dumpDone_keeps]
      exact foldl_inv (fun c : Cabinet => c.mems.wf = true) _ (fun c i hc => dumpWord_wf _ _ c hc) _ _ h
    · split <;> simp [h]

@[simp] theorem drainMemory_wf (e : StoreEntry) (c : Cabinet) (h : c.mems.wf = true) : (drainMemory e c).mems.wf = true := by
  simp [drainMemory, h]

@[simp] theorem drainOne_wf (c : Cabinet) (h : c.mems.wf = true) : (drainOne c).mems.wf = true := by
  unfold drainOne; dsimp only; (repeat' split) <;> simp [h]

@[simp] theorem drainN_wf (n : Nat) (c : Cabinet) (h : c.mems.wf = true) : (drainN n c).mems.wf = true := by
  induction n generalizing c with
  | zero => exact h
  | succ n ih => exact ih _ (drainOne_wf c h)

@[simp] theorem drainAll_wf (c : Cabinet) (h : c.mems.wf = true) : (drainAll c).mems.wf = true := drainN_wf _ c h

@[simp] theorem storeDrain_wf (c : Cabinet) (h : c.mems.wf = true) : (storeDrain c).mems.wf = true := by
  unfold storeDrain; split <;> simp [h]

/-! ## The frame -/

@[simp] theorem discardAll_wf (c : Cabinet) (h : c.mems.wf = true) : (discardAll c).mems.wf = true := by
  unfold discardAll; exact drainAll_wf _ (by simpa using h)

@[simp] theorem supervisoryDiscard_wf (c : Cabinet) (h : c.mems.wf = true) : (supervisoryDiscard c).mems.wf = true := by
  unfold supervisoryDiscard; split <;> simp [h]

@[simp] theorem dispatchRun_wf (c : Cabinet) (h : c.mems.wf = true) : (dispatchRun c).mems.wf = true := by
  simp [dispatchRun, h]

@[simp] theorem sampleComplete_wf (c : Cabinet) (h : c.mems.wf = true) : (sampleComplete c).mems.wf = true := by
  unfold sampleComplete; dsimp only; (repeat' split) <;> simp [h]

/-! ## Data accesses of the core -/

@[simp] theorem loadMem_wf (pop : Bool) (k : Cls) (a n : Nat) (c : Cabinet) (h : c.mems.wf = true) :
    (loadMem pop k a n c).1.mems.wf = true := by
  unfold loadMem; dsimp only; cases pop <;> (repeat' split) <;> simp [h]

@[simp] theorem loadReg_wf (k : Cls) (a : Nat) (c : Cabinet) (h : c.mems.wf = true) : (loadReg k a c).1.mems.wf = true := by
  unfold loadReg; dsimp only; (repeat' split) <;> simp [h]

@[simp] theorem load_wf (k : Cls) (a : Word) (n : Nat) (c : Cabinet) (h : c.mems.wf = true) : (load k a n c).1.mems.wf = true := by
  unfold load; (repeat' split) <;> simp [h]

@[simp] theorem loadStarted_wf (k : Cls) (a : Word) (c : Cabinet) (h : c.mems.wf = true) : (loadStarted k c a).mems.wf = true := by
  unfold loadStarted; split <;> simp [startReg, h]

@[simp] theorem loadStops_wf (k : Cls) (l : List Word) (a : Word) (c : Cabinet) (h : c.mems.wf = true) :
    (loadStops k l a c).mems.wf = true := by
  unfold loadStops
  exact load_wf _ _ _ _ (foldl_inv (fun c : Cabinet => c.mems.wf = true) _ (fun c a hc => loadStarted_wf k a c hc) _ _ h)

@[simp] theorem popWordAt_wf (a : Word) (c : Cabinet) (h : c.mems.wf = true) : (popWordAt a c).1.mems.wf = true := by
  unfold popWordAt; (repeat' split) <;> simp [h]

@[simp] theorem pushStore_wf (k : Cls) (a : Word) (n : Nat) (v : Word) (c : Cabinet) (h : c.mems.wf = true) :
    (pushStore k a n v c).mems.wf = true := by
  unfold pushStore; dsimp only; split <;> simp [h]

/-! ## Exceptions -/

@[simp] theorem entryPush_wf (l : Level) (sp v : Word) (c : Cabinet) (h : c.mems.wf = true) : (entryPush l sp v c).mems.wf = true := by
  simp [entryPush, h]

@[simp] theorem countEntry_mems (vec : Nat) (l : Level) (c : Cabinet) : (countEntry vec l c).mems = c.mems := by
  unfold countEntry; dsimp only; (repeat' split) <;> simp

@[simp] theorem coreStop_mems (c : Cabinet) : (coreStop c).mems = c.mems := by
  unfold coreStop; dsimp only; (repeat' split) <;> simp

@[simp] theorem enterOnce_wf (e : Exc) (l : Level) (run : Bool) (resume : Word) (c : Cabinet) (h : c.mems.wf = true) :
    (enterOnce e l run resume c).1.mems.wf = true := by
  unfold enterOnce; dsimp only; split
  · exact h
  · split
    · exact unpush_wf _ _ (by simp [h])
    · simp [h]

@[simp] theorem enterDouble_wf (run : Bool) (resume : Word) (c : Cabinet) (h : c.mems.wf = true) :
    (enterDouble run resume c).mems.wf = true := by
  unfold enterDouble; dsimp only; (repeat' split) <;> simp [h]

@[simp] theorem takeException_wf (e : Exc) (l : Level) (run : Bool) (resume : Word) (c : Cabinet) (h : c.mems.wf = true) :
    (takeException e l run resume c).mems.wf = true := by
  unfold takeException; dsimp only; (repeat' split) <;> simp [h]

@[simp] theorem undoEntry_wf (u : EntryUndo) (c : Cabinet) (h : c.mems.wf = true) : (undoEntry u c).mems.wf = true := by
  have := unpush_wf u.saved c h
  simpa [undoEntry] using this

@[simp] theorem clearPick_mems (k : Pick) (c : Cabinet) : (clearPick k c).mems = c.mems := by
  unfold clearPick; (repeat' split) <;> rfl

@[simp] theorem enterCause_wf (x : Cause) (c : Cabinet) (h : c.mems.wf = true) : (enterCause x c).mems.wf = true := by
  unfold enterCause; dsimp only; (repeat' split) <;> simp [h]

@[simp] theorem exceptionEntry_wf (c : Cabinet) (h : c.mems.wf = true) : (exceptionEntry c).mems.wf = true := by
  unfold exceptionEntry; dsimp only; (repeat' split) <;> simp [h]

@[simp] theorem reteBody_wf (c : Cabinet) (h : c.mems.wf = true) : (reteBody c).c.mems.wf = true := by
  unfold reteBody; dsimp only; (repeat' split) <;> simp [h, illegalY, privileged, Ret.faulted]

/-! ## Loads, stores, calls and resumable instructions -/

@[simp] theorem loadBody_wf (n : Nat) (signed : Bool) (rd : Fin 16) (m : Mode) (an : Fin 8) (c : Cabinet) (h : c.mems.wf = true) :
    (loadBody n signed rd m an c).c.mems.wf = true := by
  unfold loadBody; dsimp only; split <;> simp [Ret.faulted, h]

@[simp] theorem storeBody_wf (n : Nat) (rd : Fin 16) (m : Mode) (an : Fin 8) (c : Cabinet) (h : c.mems.wf = true) :
    (storeBody n rd m an c).c.mems.wf = true := by
  unfold storeBody; dsimp only; split <;> simp [Ret.faulted, h]

@[simp] theorem callBody_wf (len : Nat) (target : Word) (src : List Res) (c : Cabinet) (h : c.mems.wf = true) :
    (callBody len target src c).c.mems.wf = true := by
  unfold callBody; dsimp only; split <;> simp [Ret.faulted, h]

@[simp] theorem callRelBody_wf (off : BitVec 16) (c : Cabinet) (h : c.mems.wf = true) : (callRelBody off c).c.mems.wf = true := by
  simp [callRelBody, h]

@[simp] theorem callRegBody_wf (an : Fin 8) (c : Cabinet) (h : c.mems.wf = true) : (callRegBody an c).c.mems.wf = true := by
  simp [callRegBody, h]

@[simp] theorem retBody_wf (c : Cabinet) (h : c.mems.wf = true) : (retBody c).c.mems.wf = true := by
  unfold retBody; dsimp only; split <;> simp [Ret.faulted, h]

@[simp] theorem elemStore_wf (q v : Word) (l : List Word) (start c : Cabinet) (hs : start.mems.wf = true) (h : c.mems.wf = true) :
    (elemStore q v l start c).1.mems.wf = true := by
  unfold elemStore; split
  · exact foldl_inv (fun c : Cabinet => c.mems.wf = true) _ (fun c a hc => loadStarted_wf .v a c hc) _ _ hs
  · simp [h]

/-- What an element of a resumable instruction does keeps the form. -/
theorem walk_wf (elem : Cabinet → Elem) (hE : ∀ c, c.mems.wf = true → (elem c).c.mems.wf = true) (n : Nat) (w : Walk)
    (h : w.c.mems.wf = true) : (walk elem n w).c.mems.wf = true := by
  induction n generalizing w with
  | zero => exact h
  | succ n ih =>
    unfold walk; dsimp only
    have := hE w.c h
    split
    · exact this
    · exact this
    · exact ih _ this

theorem vmacElem_wf (x : Fin 2) (ax ay : Fin 8) (c : Cabinet) (h : c.mems.wf = true) : (vmacElem x ax ay c).c.mems.wf = true := by
  unfold vmacElem; dsimp only; (repeat' split) <;> simp [h]

theorem bmoveElem_wf (as' ad : Fin 8) (c : Cabinet) (h : c.mems.wf = true) : (bmoveElem as' ad c).c.mems.wf = true := by
  unfold bmoveElem; dsimp only; (repeat' split) <;> simp [h]

theorem interpElem_wf (as' ad at' : Fin 8) (c : Cabinet) (h : c.mems.wf = true) : (interpElem as' ad at' c).c.mems.wf = true := by
  unfold interpElem; dsimp only; (repeat' split) <;> simp (maxDischargeDepth := 8) [h]

theorem resumeBody_wf (fixed fast slow : Nat) (elem : Cabinet → Elem)
    (hE : ∀ c, c.mems.wf = true → (elem c).c.mems.wf = true) (rn : Fin 16) (pause : Option Nat) (src dst : List Res) (c : Cabinet)
    (h : c.mems.wf = true) : (resumeBody fixed fast slow elem rn pause src dst c).c.mems.wf = true := by
  have hw : ∀ n k, (walk elem n { c := c, done := k }).c.mems.wf = true := fun n k => walk_wf elem hE n _ h
  unfold resumeBody; dsimp only
  (repeat' split) <;> simp [Ret.faulted, hw]

@[simp] theorem vmacBody_wf (x : Fin 2) (ax ay : Fin 8) (rn : Fin 16) (pause : Option Nat) (c : Cabinet) (h : c.mems.wf = true) :
    (vmacBody x ax ay rn pause c).c.mems.wf = true := resumeBody_wf _ _ _ _ (vmacElem_wf x ax ay) _ _ _ _ c h

@[simp] theorem interpBody_wf (as' ad at' : Fin 8) (rn : Fin 16) (pause : Option Nat) (c : Cabinet) (h : c.mems.wf = true) :
    (interpBody as' ad at' rn pause c).c.mems.wf = true := resumeBody_wf _ _ _ _ (interpElem_wf as' ad at') _ _ _ _ c h

@[simp] theorem bmoveBody_wf (as' ad : Fin 8) (rn : Fin 16) (pause : Option Nat) (c : Cabinet) (h : c.mems.wf = true) :
    (bmoveBody as' ad rn pause c).c.mems.wf = true := resumeBody_wf _ _ _ _ (bmoveElem_wf as' ad) _ _ _ _ c h

@[simp] theorem pwriteBody_wf (an : Fin 8) (rd : Fin 16) (c : Cabinet) (h : c.mems.wf = true) : (pwriteBody an rd c).c.mems.wf = true := by
  unfold pwriteBody; dsimp only; (repeat' split) <;> simp [illegalY, privileged, Ret.faulted, h]

/-! ## Custom instructions -/

@[simp] theorem cxOut_c (o : CxOps) (sel : Nat) (v : Word) (k : CxState) : (cxOut o sel v k).c = k.c := by
  unfold cxOut; (repeat' split) <;> rfl

@[simp] theorem cxResult_c (o : CxOps) (u : Uop) (w : Bool) (r : AluRes) (k : CxState) : (cxResult o u w r k).c = k.c := by
  unfold cxResult; dsimp only; (repeat' split) <;> simp

@[simp] theorem cxOut_base (o : CxOps) (sel : Nat) (v : Word) (k : CxState) : (cxOut o sel v k).base = k.base := by
  unfold cxOut; (repeat' split) <;> rfl

@[simp] theorem cxResult_base (o : CxOps) (u : Uop) (w : Bool) (r : AluRes) (k : CxState) : (cxResult o u w r k).base = k.base := by
  unfold cxResult; dsimp only; (repeat' split) <;> simp

/-- Both cabinets of a custom instruction in progress have memories in canonical form. -/
def CxState.wf (k : CxState) : Prop := k.c.mems.wf = true ∧ k.base.mems.wf = true

theorem cxUop_wf (o : CxOps) (u : Uop) (k : CxState) (h : k.wf) : (cxUop o u k).wf := by
  obtain ⟨h1, h2⟩ := h
  unfold cxUop cxLoad cxStore; dsimp only; (repeat' split) <;> simp [CxState.wf, h1, h2]

theorem cxRun_wf (o : CxOps) (f : Bool) (us : List Uop) (k : CxState) (h : k.wf) : (cxRun o f us k).wf := by
  induction us generalizing f k with
  | nil => exact h
  | cons u t ih =>
    have h1 := cxUop_wf o u { k with ops := k.ops ++ [cxMicro o u f k] } h
    unfold cxRun; dsimp only; split
    · exact h1
    · exact ih _ _ h1

/-- The stores of a custom instruction, pushed in order, keep the form. -/
@[simp] theorem cxStores_wf (l : List (Word × Word)) (c : Cabinet) (h : c.mems.wf = true) :
    (l.foldl (fun c x => pushStore .u x.1 4 x.2 c) c).mems.wf = true := by
  induction l generalizing c with
  | nil => exact h
  | cons x t ih => exact ih _ (pushStore_wf .u x.1 4 x.2 c h)

@[simp] theorem cxBody_wf (slot : Fin 16) (o : CxOps) (c : Cabinet) (h : c.mems.wf = true) : (cxBody slot o c).c.mems.wf = true := by
  have hr : ∀ us, (cxRun o true us { c := c, base := c, x := ctx c, flags := getFlags c }).wf := fun us => cxRun_wf o true us _ ⟨h, h⟩
  have h1 := fun us => (hr us).1
  have h2 := fun us => (hr us).2
  unfold cxBody; dsimp only
  (repeat' split) <;> try simp [h, Ret.faulted]
  · exact h2 _
  · exact h2 _
  · exact cxStores_wf _ _ (by simpa using h1 _)

@[simp] theorem cxShortBody_wf (slot : Fin 16) (rd rs : Fin 8) (c : Cabinet) (h : c.mems.wf = true) :
    (cxShortBody slot rd rs c).c.mems.wf = true := by
  simp [cxShortBody, h]

@[simp] theorem cxLongBody_wf (slot rd rs rt imm4 : Fin 16) (c : Cabinet) (h : c.mems.wf = true) :
    (cxLongBody slot rd rs rt imm4 c).c.mems.wf = true := by
  simp [cxLongBody, h]

/-! ## Whole instructions -/

@[simp] theorem countWaits_mems (k : Cls) (data : Option Nat) (old new : Waits) (pc : Nat) (c : Cabinet) :
    (countWaits k data old new pc c).mems = c.mems := by simp

@[simp] theorem markDuty_mems (c c1 : Cabinet) : (markDuty c c1).mems = c1.mems := by unfold markDuty; split <;> rfl

@[simp] theorem finishRun_wf (k : Cls) (w1 w2 : Syl) (c : Cabinet) (r : Ret) (h : r.c.mems.wf = true) :
    (finishRun k w1 w2 c r).mems.wf = true := by
  unfold finishRun; dsimp only; (repeat' split) <;> simp [h]

@[simp] theorem finishSup_wf (k : Cls) (w1 w2 : Syl) (c : Cabinet) (r : Ret) (h : r.c.mems.wf = true) :
    (finishSup k w1 w2 c r).mems.wf = true := by
  unfold finishSup; dsimp only; (repeat' split) <;> simp [h]

@[simp] theorem finishInstr_wf (k : Cls) (w1 w2 : Syl) (c : Cabinet) (r : Ret) (h : r.c.mems.wf = true) :
    (finishInstr k w1 w2 c r).mems.wf = true := by
  unfold finishInstr; split <;> simp [h]

/-- An instruction whose execution keeps the form keeps it whole. -/
theorem issue_wf (k : Fin 16) (i : Instr) (cls : Cls) (body : Cabinet → Ret) (hb : ∀ c, c.mems.wf = true → (body c).c.mems.wf = true)
    (c : Cabinet) (h : c.mems.wf = true) : (issue k i cls body c).mems.wf = true := by
  have hf : (body (fetchInstr c).c).c.mems.wf = true := hb _ (by simpa using h)
  unfold issue; dsimp only; (repeat' split) <;> simp [h, hf, illegal, Ret.faulted]

/-! ## The loader, parking and resets -/

@[simp] theorem loadWord_wf (a : Nat) (bs : List Byte) (c : Cabinet) (h : c.mems.wf = true) : (loadWord a bs c).mems.wf = true := by
  simp [loadWord, h]

@[simp] theorem loadBytes_wf (a : Nat) (bs : List Byte) (c : Cabinet) (h : c.mems.wf = true) : (loadBytes a bs c).mems.wf = true :=
  foldl_inv (fun c : Cabinet => c.mems.wf = true) _ (fun c _ hc => loadWord_wf _ _ c hc) _ _ h

/-- Syllables put at successive addresses keep a store's form. -/
theorem bankPut_sorted (o : Nat) (syls : List (BitVec 16)) (l : List Nat) (m : SylMem) (h : assocSorted m = true) :
    assocSorted (l.foldl (fun m i =>
      if o + i < 0x4000 then assocPut (0x20000 + o + i) (physSyl ((syls.getD i 0).setWidth 14)) m else m) m) = true := by
  induction l generalizing m with
  | nil => exact h
  | cons i t ih =>
    apply ih
    dsimp only
    split
    · exact assocPut_sorted _ _ _ h
    · exact h

@[simp] theorem bankWriteAt_wf (b : Bool) (o : Nat) (syls : List (BitVec 16)) (c : Cabinet) (h : c.mems.wf = true) :
    (bankWriteAt b o syls c).mems.wf = true := by
  unfold bankWriteAt; dsimp only; simp only [countLoader_keeps]
  rw [Mems_wf_iff] at h ⊢
  obtain ⟨h1, h2, h3, h4⟩ := h
  cases b
  · exact ⟨h1, h2, bankPut_sorted o syls _ _ h3, h4⟩
  · exact ⟨h1, h2, h3, bankPut_sorted o syls _ _ h4⟩

@[simp] theorem progLoad_wf (a : Nat) (syls : List (BitVec 16)) (c : Cabinet) (h : c.mems.wf = true) :
    (progLoad a syls c).mems.wf = true :=
  foldl_inv (fun c : Cabinet => c.mems.wf = true) _ (fun c _ hc => progWrite_wf _ _ c hc) _ _ (by simp [h])

@[simp] theorem loadSection_wf (x : Section) (c : Cabinet) (h : c.mems.wf = true) : (loadSection x c).1.mems.wf = true := by
  unfold loadSection; split <;> simp [h]

@[simp] theorem loadSections_wf (xs : List Section) (c : Cabinet) (h : c.mems.wf = true) : (loadSections xs c).1.mems.wf = true := by
  induction xs generalizing c with
  | nil => exact h
  | cons x t ih => exact ih _ (loadSection_wf x c h)

@[simp] theorem loadBegin_wf (t source length crc : Nat) (slot : Option (List Byte)) (c : Cabinet) (h : c.mems.wf = true) :
    (loadBegin t source length crc slot c).mems.wf = true := by
  unfold loadBegin; dsimp only; (repeat' split) <;> simp [h]

@[simp] theorem loadEnd_wf (t : Nat) (c : Cabinet) (h : c.mems.wf = true) : (loadEnd t c).mems.wf = true := by
  unfold loadEnd; dsimp only; (repeat' split) <;> simp [h]

@[simp] theorem stageData_wf (t offset : Nat) (ws : List (BitVec 16)) (c : Cabinet) (h : c.mems.wf = true) :
    (stageData t offset ws c).mems.wf = true := by
  unfold stageData; dsimp only; (repeat' split) <;> simp [h]

@[simp] theorem parkComplete_wf (c : Cabinet) (h : c.mems.wf = true) : (parkComplete c).mems.wf = true := by
  unfold parkComplete; dsimp only; (repeat' split) <;> simp [h]

/-- What a reset of class P makes of the memories: they stay, or at power-on they are empty. -/
theorem cabResetP_mems (p keep : Bool) (c : Cabinet) :
    (cabResetP p keep c).mems = if p then { epoch := c.mems.epoch + 1 } else c.mems := by
  unfold cabResetP; cases p <;> simp

@[simp] theorem cabResetP_wf (p keep : Bool) (c : Cabinet) (h : c.mems.wf = true) : (cabResetP p keep c).mems.wf = true := by
  rw [cabResetP_mems]; split
  · rfl
  · exact h

end Sys2Proof.Machine
end

