-- ==== Sys2Proof/Laws/ChipForm.lean ====
section
/-!
SUPPORT. Every operation on the chip keeps the canonical form of the memories of all cabinets.
-/
namespace Sys2Proof.Machine

/-! ## Changes of one cabinet -/

@[simp] theorem memsWf_onSide (f : Side → Side) (ch : Chip) : (ch.onSide f).memsWf ↔ ch.memsWf := Iff.rfl

/-- Only the cabinets matter. -/
theorem memsWf_of_cabs (ch ch' : Chip) (e : ch'.cabs = ch.cabs) (h : ch.memsWf) : ch'.memsWf := by
  intro k; rw [e]; exact h k

@[simp] theorem memsWf_side (ch : Chip) (s : Side) (h : ch.memsWf) : Chip.memsWf { cabs := ch.cabs, side := s } := h

@[simp] theorem setCab_memsWf (k : Fin 16) (c : Cabinet) (ch : Chip) (h : ch.memsWf) (hc : c.mems.wf = true) :
    (ch.setCab k c).memsWf := by
  intro j; rw [setCab_get]; split
  · exact hc
  · exact h j

@[simp] theorem settleCab_memsWf (k : Fin 16) (c : Cabinet) (ch : Chip) (h : ch.memsWf) (hc : c.mems.wf = true) :
    (settleCab k c ch).memsWf :=
  memsWf_of_cabs _ _ (settleCab_cabs k c ch) (setCab_memsWf _ _ _ h (by simpa using hc))

/-- A change of one cabinet that keeps the form. -/
theorem runCab_memsWf (k : Fin 16) (f : Cabinet → Cabinet) (ch : Chip) (hf : ∀ c, c.mems.wf = true → (f c).mems.wf = true)
    (h : ch.memsWf) : (ch.runCab k f).memsWf := by
  unfold Chip.runCab; split
  · exact h
  · exact settleCab_memsWf _ _ _ h (hf _ (h k))

theorem cabCommand_memsWf (p : Packet) (f : Nat → Cabinet → Cabinet) (ch : Chip)
    (hf : ∀ t c, c.mems.wf = true → (f t c).mems.wf = true) (h : ch.memsWf) : (cabCommand p f ch).1.memsWf :=
  settleCab_memsWf _ _ _ h (hf _ _ (h _))

/-- A fold over cabinets, each of which is settled after a change that keeps the form. -/
theorem foldCabs_memsWf {α : Type} (f : Chip → α → Chip) (hf : ∀ ch x, ch.memsWf → (f ch x).memsWf) (l : List α) (ch : Chip)
    (h : ch.memsWf) : (l.foldl f ch).memsWf := foldl_inv Chip.memsWf f hf l ch h

/-! ## The packet engine -/

theorem sideWrite_memsWf (p : Packet) (ch : Chip) (h : ch.memsWf) : (sideWrite p ch).1.memsWf := by
  unfold sideWrite; dsimp only; (repeat' split)
  all_goals repeat (first | with_reducible exact h | simp only [memsWf_onSide])

theorem ringConfig_memsWf (p : Packet) (ch : Chip) (h : ch.memsWf) : (ringConfig p ch).1.memsWf := by
  have hk : (ch.cabs[cabOf p.cab]).mems.wf = true := h _
  unfold ringConfig; dsimp only
  (repeat' split) <;> first
    | exact h
    | exact setCab_memsWf _ _ _ h hk

theorem fwStage_memsWf (p : List Byte) (ch : Chip) (h : ch.memsWf) : (fwStage p ch).1.memsWf := by
  unfold fwStage; dsimp only; (repeat' split)
  all_goals repeat (first | with_reducible exact h | simp only [memsWf_onSide])

theorem fwCommit_memsWf (p : List Byte) (ch : Chip) (h : ch.memsWf) : (fwCommit p ch).1.memsWf := by
  unfold fwCommit; dsimp only; (repeat' split)
  all_goals repeat (first | with_reducible exact h | simp only [memsWf_onSide])

theorem bankStage_memsWf (p : Packet) (ch : Chip) (h : ch.memsWf) : (bankStage p ch).1.memsWf := by
  unfold bankStage; dsimp only
  (repeat' split) <;> exact cabCommand_memsWf _ _ _ (fun t c hc => by simp [hc]) h

theorem cabResetCommand_memsWf (p : Packet) (ch : Chip) (h : ch.memsWf) : (cabResetCommand p ch).1.memsWf := by
  unfold cabResetCommand; dsimp only
  exact cabCommand_memsWf _ _ _ (fun t c hc => by simp [hc]) (by simpa only [memsWf_onSide] using h)

theorem perfCommand_memsWf (p : Packet) (ch : Chip) (h : ch.memsWf) : (perfCommand p ch).1.memsWf := by
  unfold perfCommand; dsimp only; split
  · exact h
  · exact cabCommand_memsWf _ _ _ (fun t c hc => by simp [hc]) h

theorem regWriteCommand_memsWf (p : Packet) (ch : Chip) (h : ch.memsWf) : (regWriteCommand p ch).1.memsWf := by
  unfold regWriteCommand; dsimp only; (repeat' split)
  · exact sideWrite_memsWf p ch h
  · exact h
  · exact cabCommand_memsWf _ _ _ (fun t c hc => by simp [hc]) h

theorem commitProposal_memsWf (q : Proposal) (out : Nat) (p : Option Packet) (ch : Chip) (h : ch.memsWf) :
    (commitProposal q out p ch).memsWf := by
  unfold commitProposal; dsimp only
  rw [memsWf_onSide]
  apply foldCabs_memsWf _ (fun ch k hch => settleCab_memsWf _ _ _ hch (by simpa using hch _))
  split <;> exact h

theorem protectConfirm_memsWf (p : Packet) (ch : Chip) (h : ch.memsWf) : (protectConfirm p ch).1.memsWf := by
  unfold protectConfirm; dsimp only; (repeat' split)
  all_goals repeat (first | with_reducible exact h | simp only [memsWf_onSide] | with_reducible apply commitProposal_memsWf)

theorem keyConfirm_memsWf (ch : Chip) (h : ch.memsWf) : (keyConfirm ch).memsWf := by
  unfold keyConfirm; (repeat' split)
  all_goals repeat (first | with_reducible exact h | simp only [memsWf_onSide] | with_reducible apply commitProposal_memsWf)

theorem execJ_memsWf (p : Packet) (ch : Chip) (h : ch.memsWf) : (execJ p ch).1.memsWf := by
  unfold execJ; dsimp only; split
  · refine cabCommand_memsWf _ _ _ ?_ h; intro t c hc; simp [hc]
  · refine cabCommand_memsWf _ _ _ ?_ h; intro t c hc; simp [hc]
  · refine cabCommand_memsWf _ _ _ ?_ h; intro t c hc; simp [hc]
  · refine cabCommand_memsWf _ _ _ ?_ h; intro t c hc; simp [hc]
  · refine cabCommand_memsWf _ _ _ ?_ h; intro t c hc; simp [hc]
  · refine cabCommand_memsWf _ _ _ ?_ h; intro t c hc; simp [hc]
  · refine cabCommand_memsWf _ _ _ ?_ h; intro t c hc; simp [hc]
  · exact cabResetCommand_memsWf _ ch h
  · exact bankStage_memsWf _ ch h
  · refine cabCommand_memsWf _ _ _ ?_ h; intro t c hc; simp [hc]
  · refine cabCommand_memsWf _ _ _ ?_ h; intro t c hc; simp [hc]
  · refine cabCommand_memsWf _ _ _ ?_ h; intro t c hc; simp [hc]
  · exact h
  · exact h
  · exact h
  · exact h
  · exact ringConfig_memsWf _ ch h
  · exact regWriteCommand_memsWf _ ch h
  · exact h
  · exact protectConfirm_memsWf _ ch h
  · exact h
  · exact h
  · exact perfCommand_memsWf _ ch h
  · exact h
  · exact fwStage_memsWf _ ch h
  · exact fwCommit_memsWf _ ch h
  · exact h

theorem execU_memsWf (p : Packet) (ch : Chip) (h : ch.memsWf) : (execU p ch).memsWf := by
  unfold execU; dsimp only; split
  all_goals simp only [memsWf_onSide]
  all_goals first
    | with_reducible exact h
    | exact settleCab_memsWf _ _ _ h (by simpa using h _)


theorem processJ_memsWf (p : Packet) (ch : Chip) (h : ch.memsWf) : (processJ p ch).memsWf := by
  unfold processJ; dsimp only; (repeat' split)
  all_goals repeat (first | with_reducible exact h | simp only [memsWf_onSide] | with_reducible apply execJ_memsWf)

theorem judgeSequenced_memsWf (p : Packet) (ch : Chip) (h : ch.memsWf) : (judgeSequenced p ch).memsWf := by
  unfold judgeSequenced; dsimp only; (repeat' split)
  all_goals repeat (first | with_reducible exact h | simp only [memsWf_onSide] | with_reducible apply processJ_memsWf)

theorem judge_memsWf (p : Packet) (ch : Chip) (h : ch.memsWf) : (judge p ch).memsWf := by
  unfold judge; (repeat' split)
  all_goals repeat (first | with_reducible exact h | simp only [memsWf_onSide] | with_reducible apply execU_memsWf | with_reducible apply judgeSequenced_memsWf)

theorem pump_memsWf (n ses : Nat) (ch : Chip) (h : ch.memsWf) : (pump n ses ch).memsWf := by
  induction n generalizing ch with
  | zero => exact h
  | succ n ih =>
    unfold pump; split
    · exact h
    · exact ih _ (judge_memsWf _ _ h)

theorem pumpAll_memsWf (ses : Nat) (ch : Chip) (h : ch.memsWf) : (pumpAll ses ch).memsWf := pump_memsWf _ ses ch h

theorem process_memsWf (p : Packet) (vf : Bool) (ch : Chip) (h : ch.memsWf) : (process p vf ch).memsWf := by
  unfold process; dsimp only; (repeat' split)
  all_goals repeat (first | with_reducible exact h | simp only [memsWf_onSide] | with_reducible apply pumpAll_memsWf | with_reducible apply judge_memsWf)

theorem arrive_memsWf (p : Packet) (ch : Chip) (h : ch.memsWf) : (arrive p ch).memsWf := by
  unfold arrive; dsimp only; (repeat' split)
  all_goals repeat (first | with_reducible exact h | simp only [memsWf_onSide] | with_reducible apply process_memsWf)

theorem processBytes_memsWf (port : Port) (bs : List Byte) (ch : Chip) (h : ch.memsWf) : (processBytes port bs ch).memsWf := by
  unfold processBytes; dsimp only; (repeat' split)
  all_goals repeat (first | with_reducible exact h | simp only [memsWf_onSide] | with_reducible apply process_memsWf)

/-! ## The commit engine and heartbeats -/

theorem releaseCommit_memsWf (ch : Chip) (r : Release) (h : ch.memsWf) : (releaseCommit ch r).memsWf := by
  unfold releaseCommit; dsimp only
  split
  · exact h
  · split
    · exact pumpAll_memsWf _ _ h
    · exact h
  · exact setCab_memsWf _ _ _ h (h _)
  · exact h
  · exact h

theorem completeFront_memsWf (ch : Chip) (h : ch.memsWf) : (completeFront ch).memsWf := by
  unfold completeFront; split
  · exact h
  · exact foldCabs_memsWf _ releaseCommit_memsWf _ _ h

theorem completeN_memsWf (n : Nat) (ch : Chip) (h : ch.memsWf) : (completeN n ch).memsWf := by
  induction n generalizing ch with
  | zero => exact h
  | succ n ih => exact ih _ (completeFront_memsWf _ h)

theorem heartbeatReceived_memsWf (k : Fin 16) (ch : Chip) (h : ch.memsWf) : (heartbeatReceived k ch).memsWf := by
  unfold heartbeatReceived; dsimp only; (repeat' split)
  all_goals repeat (first | with_reducible exact h | simp only [memsWf_onSide] | with_reducible apply completeN_memsWf)

/-! ## The chip safe state and resets -/

theorem tripAll_memsWf (ch : Chip) (h : ch.memsWf) : (tripAll ch).memsWf :=
  foldCabs_memsWf _ (fun ch k hch => settleCab_memsWf _ _ _ hch (by simpa using hch k)) _ _ h

theorem finalCheck_memsWf (ch : Chip) (h : ch.memsWf) : (finalCheck ch).memsWf := by
  unfold finalCheck; dsimp only; split <;> exact h

theorem enterSafe_memsWf (cause : SafeCause) (ch : Chip) (h : ch.memsWf) : (enterSafe cause ch).memsWf := by
  unfold enterSafe; dsimp only; (repeat' split)
  all_goals repeat (first | with_reducible exact h | simp only [memsWf_onSide] | with_reducible apply finalCheck_memsWf | with_reducible apply tripAll_memsWf)

theorem completeAll_memsWf (ch : Chip) (h : ch.memsWf) : (completeAll ch).memsWf := completeN_memsWf _ _ h

theorem beforeResetN_memsWf (ch : Chip) (h : ch.memsWf) : (beforeResetN ch).memsWf := by
  unfold beforeResetN; (repeat' split)
  all_goals repeat (first | with_reducible exact h | simp only [memsWf_onSide] | with_reducible apply finalCheck_memsWf | with_reducible apply completeAll_memsWf)

theorem beforeChipReset_memsWf (ch : Chip) (h : ch.memsWf) : (beforeChipReset ch).memsWf := by
  unfold beforeChipReset
  repeat (first | with_reducible exact h | simp only [memsWf_onSide] | with_reducible apply completeAll_memsWf | with_reducible apply tripAll_memsWf)

theorem startReset_memsWf (src : ResetSrc) (ch : Chip) (h : ch.memsWf) : (startReset src ch).memsWf := by
  unfold startReset; dsimp only
  apply foldCabs_memsWf _ (fun ch k hch => settleCab_memsWf _ _ _ hch (hch k))
  intro k
  have hk := h k
  simp only [cabsReset, Fin.getElem_fin, Vector.getElem_map]
  split <;> simpa using cabResetP_wf _ _ _ hk

theorem commandReset_memsWf (fw : Bool) (ch : Chip) (h : ch.memsWf) : (commandReset fw ch).memsWf :=
  startReset_memsWf _ _ (beforeChipReset_memsWf _ h)

theorem afterReset_memsWf (ch : Chip) (h : ch.memsWf) : (afterReset ch).memsWf := by
  unfold afterReset; (repeat' split)
  all_goals repeat (first | with_reducible exact h | simp only [memsWf_onSide] | with_reducible apply commandReset_memsWf)

theorem leaveRingEvent_memsWf (r : RingId) (ch : Chip) (h : ch.memsWf) : (leaveRingEvent r ch).memsWf := by
  unfold leaveRingEvent; split
  · exact h
  · exact afterReset_memsWf _ (by simpa only [memsWf_onSide] using h)

theorem resetN_memsWf (ns : Nat) (ch : Chip) (h : ch.memsWf) : (resetN ns ch).memsWf := by
  unfold resetN; dsimp only; (repeat' split)
  all_goals repeat (first | with_reducible exact h | simp only [memsWf_onSide] | with_reducible apply startReset_memsWf | with_reducible apply beforeResetN_memsWf)

theorem resetEnd_memsWf (ch : Chip) (h : ch.memsWf) : (resetEnd ch).memsWf := by
  unfold resetEnd; split
  · exact h
  · intro k
    have hk := h k
    simpa using hk

theorem boot_memsWf (ch : Chip) (h : ch.memsWf) : (boot ch).memsWf := by
  unfold boot; dsimp only; (repeat' split) <;> exact h

theorem recoveryScan_memsWf (bad : List Nat) (ch : Chip) (h : ch.memsWf) : (recoveryScan bad ch).memsWf := by
  unfold recoveryScan; dsimp only; (repeat' split)
  all_goals repeat (first | with_reducible exact h | simp only [memsWf_onSide] | with_reducible apply processBytes_memsWf)

theorem ledgerCommit_memsWf (ph : LedgerPhase) (retries : Nat) (bad : Bool) (ch : Chip) (h : ch.memsWf) :
    (ledgerCommit ph retries bad ch).memsWf := by
  unfold ledgerCommit; dsimp only; (repeat' split)
  all_goals repeat (first | with_reducible exact h | simp only [memsWf_onSide] | with_reducible apply enterSafe_memsWf | with_reducible apply afterReset_memsWf | with_reducible apply finalCheck_memsWf | with_reducible apply completeFront_memsWf)

theorem pwrfail_memsWf (ns : Nat) (back : Bool) (ch : Chip) (h : ch.memsWf) : (pwrfail ns back ch).memsWf := by
  unfold pwrfail; dsimp only; (repeat' split)
  all_goals repeat (first | with_reducible exact h | simp only [memsWf_onSide] | with_reducible apply enterSafe_memsWf)

theorem supplyExcursion_memsWf (mask : Fin 8) (ch : Chip) (h : ch.memsWf) : (supplyExcursion mask ch).memsWf := by
  unfold supplyExcursion; dsimp only; split
  · exact h
  · exact enterSafe_memsWf _ _ (foldCabs_memsWf _ (fun ch i hch => by split <;> simpa only [memsWf_onSide] using hch) _ _ h)

theorem temperatureSample_memsWf (t : BitVec 12) (ch : Chip) (h : ch.memsWf) : (temperatureSample t ch).memsWf := by
  unfold temperatureSample; dsimp only; (repeat' split)
  all_goals repeat (first | with_reducible exact h | simp only [memsWf_onSide] | with_reducible apply enterSafe_memsWf)

theorem watchdogExpiry_memsWf (ch : Chip) (h : ch.memsWf) : (watchdogExpiry ch).memsWf := by
  unfold watchdogExpiry; dsimp only; (repeat' split)
  all_goals repeat (first | with_reducible exact h | simp only [memsWf_onSide] | with_reducible apply startReset_memsWf | with_reducible apply finalCheck_memsWf | with_reducible apply completeAll_memsWf | with_reducible apply enterSafe_memsWf)

theorem stewardFault_memsWf (mask : Fin 16) (lost : Option Nat) (ch : Chip) (h : ch.memsWf) : (stewardFault mask lost ch).memsWf := by
  unfold stewardFault; dsimp only; (repeat' split)
  all_goals repeat (first | with_reducible exact h | simp only [memsWf_onSide] | with_reducible apply enterSafe_memsWf)

/-! ## Ports, rings, reports, time -/

theorem benchWrite_memsWf (bs : List Byte) (ch : Chip) (h : ch.memsWf) : (benchWrite bs ch).memsWf := by
  unfold benchWrite; dsimp only; (repeat' split)
  all_goals repeat (first | with_reducible exact h | simp only [memsWf_onSide] | with_reducible apply processBytes_memsWf)

theorem benchReadEvent_memsWf (n : Nat) (ch : Chip) (h : ch.memsWf) : (benchReadEvent n ch).memsWf := by
  unfold benchReadEvent
  exact afterReset_memsWf _ (by simpa only [memsWf_onSide] using h)

theorem reportLeave_memsWf (k : Fin 16) (r : Nat) (q : RingId) (dest : Nat) (b : List Byte) (ch : Chip) (h : ch.memsWf) :
    (reportLeave k r q dest b ch).memsWf :=
  setCab_memsWf _ _ _ h (by simpa using h k)

theorem reportTransmit_memsWf (n : Nat) (ch : Chip) (h : ch.memsWf) : (reportTransmit n ch).memsWf := by
  induction n generalizing ch with
  | zero => exact h
  | succ n ih =>
    unfold reportTransmit; dsimp only; (repeat' split)
    · exact reportLeave_memsWf _ _ _ _ _ _ (by simpa only [memsWf_onSide] using h)
    · exact ih _ (by simpa only [memsWf_onSide] using h)
    · exact ih _ (by simpa only [memsWf_onSide] using h)

theorem deliverOffset_memsWf (k : Fin 16) (ch : Chip) (h : ch.memsWf) : (deliverOffset k ch).memsWf := by
  unfold deliverOffset; split
  · exact runCab_memsWf _ _ _ (fun c hc => by simp [hc]) h
  · exact h

theorem freeRunOffsets_memsWf (ch : Chip) (h : ch.memsWf) : (freeRunOffsets ch).memsWf := by
  unfold freeRunOffsets; split
  · exact h
  · exact foldCabs_memsWf _ (fun ch k hch => deliverOffset_memsWf k ch hch) _ _ h

theorem pinEvent_memsWf (k : Fin 16) (act level : Cabinet → Cabinet) (ch : Chip)
    (ha : ∀ c, c.mems.wf = true → (act c).mems.wf = true) (hl : ∀ c, c.mems.wf = true → (level c).mems.wf = true) (h : ch.memsWf) :
    (pinEvent k act level ch).memsWf := by
  unfold pinEvent; split
  · exact settleCab_memsWf _ _ _ h (by simpa using hl _ (h k))
  · exact runCab_memsWf _ _ _ ha h

theorem tripPinEvent_memsWf (k : Fin 16) (width : Option Nat) (ch : Chip) (h : ch.memsWf) : (tripPinEvent k width ch).memsWf :=
  pinEvent_memsWf _ _ _ _ (fun c hc => by simp [hc]) (fun c hc => by simp [hc]) h

theorem enPinEvent_memsWf (k : Fin 16) (width : Option Nat) (ch : Chip) (h : ch.memsWf) : (enPinEvent k width ch).memsWf :=
  pinEvent_memsWf _ _ _ _ (fun c hc => by simp [hc]) (fun c hc => by simp [hc]) h

theorem ioBank_memsWf (k : Fin 16) (ok : Bool) (ch : Chip) (h : ch.memsWf) : (ioBank k ok ch).memsWf :=
  setCab_memsWf _ _ _ h (h k)

theorem heartbeatEvent_memsWf (k : Fin 16) (ch : Chip) (h : ch.memsWf) : (heartbeatEvent k ch).memsWf := by
  unfold heartbeatEvent; split
  all_goals repeat (first | with_reducible exact h | simp only [memsWf_onSide] | with_reducible apply afterReset_memsWf | with_reducible apply finalCheck_memsWf | with_reducible apply heartbeatReceived_memsWf)

theorem wakeRestoreEvent_memsWf (k : Fin 16) (ch : Chip) (h : ch.memsWf) : (wakeRestoreEvent k ch).memsWf :=
  runCab_memsWf _ _ _ (fun c hc => by simp [hc]) h

theorem commandFrame_memsWf (r : RingId) (src : Nat) (bs : List Byte) (ch : Chip) (h : ch.memsWf) :
    (commandFrame r src bs ch).memsWf := by
  unfold commandFrame; dsimp only; (repeat' split)
  all_goals repeat (first | with_reducible exact h | simp only [memsWf_onSide] | with_reducible apply processBytes_memsWf)

theorem transmitOwn_memsWf (r : RingId) (ch : Chip) (h : ch.memsWf) : (transmitOwn r ch).memsWf := by
  unfold transmitOwn
  exact afterReset_memsWf _ (by simpa only [memsWf_onSide] using h)

theorem tick_memsWf (ch : Chip) (h : ch.memsWf) : (tick ch).memsWf := by
  unfold tick; split
  · exact h
  · intro k
    have hk := h k
    simpa using hk

end Sys2Proof.Machine
end

