-- ==== Sys2Proof/WellFormed.lean ====
section
/-!
DEFINITION. Which commands are well formed: the values that the interfaces of the spec can carry in the fields that the syntax leaves
as numbers and lists (spec/15_jetik_ring_and_hinge.md R473, R499; spec/16_command_packets.md R504; spec/17_ledger_and_delivery.md R545).
The machine's step is total: it does not ask for well-formedness.
-/
namespace Sys2Proof
open Machine

/-- The number of ledger entries (17 R545). -/
def ledgerIndexes : Nat := 524288

/-- A node number is one byte (15 R473). -/
def portWellFormed : Port → Bool
  | .ring _ node => decide (node < 256)
  | .bench => true

/-- The fields of a packet's header fit their places (16 R504). -/
def packetWellFormed (p : Packet) : Bool :=
  portWellFormed p.port && decide (p.session < 65536) && decide (p.cab < 256) && decide (p.ring < 256) &&
  decide (p.payload.length < 65536)

/-- The fields of a ring frame fit their places (15 R473). -/
def frameWellFormed (f : JFrame) : Bool :=
  decide (f.dst < 256) && decide (f.src < 256) && decide (f.kind < 256) && decide (f.payload.length < 65536)

/-- A register's address is a word of the cabinet's register map (00 R6). -/
def registerAddress (a : Nat) : Bool := decide (0x40000 ≤ a) && decide (a < 0x4B000) && a % 4 == 0

/-- An optional number below a bound. -/
def optBelow (n : Nat) (x : Option Nat) : Bool := x.all (fun v => decide (v < n))

/-- A differential voltage of an input's two pins, each within the absolute maximum ratings of 20 R626 (−0.3 V to 2.4 V), in units of
125 nV. -/
def vdWellFormed (v : Int) : Bool := decide (v.natAbs ≤ 21600000)

/-- The packet of a command of a packet row. -/
def Instr.packet? : Instr → Option Packet
  | .nopCommand p => some p
  | .sessionOpen p => some p
  | .sessionClose p => some p
  | .ack p => some p
  | .timeQuery p => some p
  | .cabLoadBegin p => some p
  | .cabLoadData p => some p
  | .cabLoadEnd p => some p
  | .cabArm p => some p
  | .cabRun p => some p
  | .cabPark p => some p
  | .cabWake p => some p
  | .cabReset p => some p
  | .cabBankStageOpen p => some p
  | .cabBankStageData p => some p
  | .cabBankStageClose p => some p
  | .cabBankStageAbort p => some p
  | .cabBankSwap p => some p
  | .cabTripClear p => some p
  | .cabTest p => some p
  | .cabStatus p => some p
  | .orderPut p => some p
  | .orderPutLong p => some p
  | .orderCancel p => some p
  | .orderResume p => some p
  | .ringConfig p => some p
  | .reportPull p => some p
  | .regRead p => some p
  | .regWrite p => some p
  | .protectPropose p => some p
  | .protectConfirm p => some p
  | .protectAbort p => some p
  | .keyInstall p => some p
  | .perfConfig p => some p
  | .healthRead p => some p
  | .ledgerQuery p => some p
  | .chipReset p => some p
  | .fwStageOpen p => some p
  | .fwStageData p => some p
  | .fwStageClose p => some p
  | .fwStageAbort p => some p
  | .fwCommit p => some p
  | _ => none

/-- The command is one that the interfaces can carry: input voltages keep the ratings of the pins, a tracker's samples cover a window (08 R286), boundary-scan values
name an output of a cabinet and a level (20 R645). -/
def Instr.wellFormed (i : Instr) : Bool :=
  match i with
  | .registerWrite _ _ a _ => registerAddress a
  | .sampleInstant _ vd => vd.toList.all vdWellFormed
  | .trackerUpdate _ _ samples => decide (samples.length ≤ 1005) && samples.all vdWellFormed
  | .seqResult _ _ vd => vdWellFormed vd
  | .comparatorAssert _ _ _ vd => vdWellFormed vd
  | .comparatorDeassert _ _ _ vd => vdWellFormed vd
  | .command _ _ bs => decide (bs.length < 65536)
  | .reply _ _ len => decide (len < 65536)
  | .report _ _ len => decide (len < 65536)
  | .frameForward _ f _ => frameWellFormed f
  | .recoveryScan bad => bad.all (fun i => decide (i < ledgerIndexes))
  | .confirmationWindowExpiry n => decide (n < 2 ^ 32)
  | .stewardCoreFault _ lost => optBelow 65536 lost
  | .extest vals => (vals.getD []).all (fun x => decide (x.1 < 128) && decide (x.2 < 3))
  | i => i.packet?.all packetWellFormed

end Sys2Proof
end

