-- ==== Sys2Proof/Tests/Slice0.lean ====
section
/-!
SUPPORT. Tests of single steps with results from the spec, the refusals of the well-formedness checks, and for each statement states and
operands that meet its hypotheses, clause by clause, at the ends of their ranges.
-/
namespace Sys2Proof.Tests
open Sys2Proof Sys2Proof.Machine Sys2Proof.Claims

-- One test at a time: tests that wait for the kernel side by side hold a thread each.
set_option Elab.async false

/-! ## States for the witnesses -/

/-- A chip whose cabinet 0 is a fresh one changed by `f`. -/
def withCab (f : Cabinet → Cabinet) : State := { chip := ({} : Chip).setCab 0 (f {}) }

/-- Cabinet 0 takes commands in the state of `f`, and `P` holds of it. -/
def Meets (f : Cabinet → Cabinet) (P : Cabinet → Prop) : Prop := Live 0 (withCab f) ∧ P ((withCab f).cab 0)

/-- A syllable with a major in bits 13:10, two bits below it, and two fields of four (03 R121, R122). -/
def short (major fn hi lo : Nat) : Syl := BitVec.ofNat 14 (major * 2 ^ 10 + fn * 2 ^ 8 + hi * 2 ^ 4 + lo)

/-- The two syllables of a long form: TMAJ in bits 9:6 of the first, the payload in its six low bits and the second (03 R122). -/
def long (tmaj p : Nat) : List Syl := [BitVec.ofNat 14 (0xE * 2 ^ 10 + tmaj * 2 ^ 6 + p / 2 ^ 14), BitVec.ofNat 14 (p % 2 ^ 14)]

/-- The payload with four fields of four bits from bit 19 down, and the low bits. -/
def payload (f a b lo : Nat) : Nat := f * 2 ^ 16 + a * 2 ^ 12 + b * 2 ^ 8 + lo

/-- The syllables `ws` stand at the program counter: in the loop store in a run, else in the line that the cache holds. -/
def placed (ws : List Syl) (c : Cabinet) : Cabinet :=
  let a := (curPc c).toNat
  let line := a / 16
  if c.frame.inRun then
    { c with mems := { c.mems with bankA := (List.range ws.length).map (fun i => (a + i, physSyl (ws.getD i 0))) } }
  else
    let word (i : Nat) := physSyl (if a % 16 ≤ i then ws.getD (i - a % 16) 0 else 0)
    { c with pipe := { c.pipe with cache := [(line % 128, [⟨line, (List.range 16).map word⟩])] } }

/-- The core of cabinet 0 executes `i`, whose syllables are `ws`, in the state of `f`, and `P` holds of the cabinet. -/
def Runs (ws : List Syl) (i : Instr) (f : Cabinet → Cabinet) (P : Cabinet → Prop) : Prop :=
  Executes 0 i (withCab (fun c => placed ws (f c))) ∧ P ((withCab (fun c => placed ws (f c))).cab 0)

/-- Each instruction of a list executes there. -/
def AllRun (l : List (List Syl × Instr)) (f : Cabinet → Cabinet) : Prop :=
  ∀ p ∈ l, Executes 0 p.2 (withCab (fun c => placed p.1 (f c)))

/-- A core that executes supervisory code at address 0: it is not stopped. -/
def started (c : Cabinet) : Cabinet := { c with mode := .loaded, pipe := { c.pipe with stopped := false } }

/-- The same with two data registers. -/
def startedWith (x y : Word) (c : Cabinet) : Cabinet := setD 1 x (setD 2 y (started c))

/-- The same at User level, with the windows of fetch and of data open. -/
def userStarted (c : Cabinet) : Cabinet :=
  let c := started c
  { c with core := { c.core with psw := 0, uperm := 0x30000, uphi := 0x1FFFF, udhi := 0x3FFFF } }

/-- A core in a run at the start of loop bank A. -/
def inRun (c : Cabinet) : Cabinet :=
  { c with
    mode := .armed, frame := { c.frame with running := true, inRun := true }, core := { c.core with runPc := 0x20000 },
    pipe := { c.pipe with stopped := false } }

/-- A cabinet with words in its memories, from byte address `a` on. -/
def remembers (a : Nat) (bs : List Byte) (c : Cabinet) : Cabinet := memWrite false a bs c

/-! ## Decoding: the words of every instruction, from the encoding tables of 03 R120 to R123 and of 04 -/

/-- Majors 0x0 to 0x3 (04 R129): FN in bits 9:8, Rd in 7:4, Rs in 3:0. -/
def aluWords : List (List Syl × Instr) :=
  [([short 0x0 0 1 2], .add 0 1 2), ([short 0x0 1 1 2], .sub 0 1 2), ([short 0x0 2 1 2], .and 0 1 2), ([short 0x0 3 1 2], .or 0 1 2),
   ([short 0x1 0 1 2], .xor 0 1 2), ([short 0x1 1 1 2], .cmp 0 1 2), ([short 0x1 2 1 2], .addc 0 1 2), ([short 0x1 3 1 2], .subc 0 1 2),
   ([short 0x2 0 1 2], .shl 0 1 2), ([short 0x2 1 1 2], .shr 0 1 2), ([short 0x2 2 1 2], .sar 0 1 2), ([short 0x2 3 1 2], .ror 0 1 2),
   ([short 0x3 0 1 2], .min 0 1 2), ([short 0x3 1 1 2], .max 0 1 2), ([short 0x3 2 1 2], .abs 0 1 2), ([short 0x3 3 1 2], .neg 0 1 2)]

/-- TMAJ 0x0, 0x2 and 0x3 (04 R131). -/
def immWords : List (List Syl × Instr) :=
  [(long 0x0 (0 * 2 ^ 18 + 1 * 2 ^ 14 + 0x2005), .addi 0 1 0x2005), (long 0x0 (1 * 2 ^ 18 + 1 * 2 ^ 14 + 7), .andi 0 1 7),
   (long 0x0 (2 * 2 ^ 18 + 1 * 2 ^ 14 + 7), .ori 0 1 7), (long 0x0 (3 * 2 ^ 18 + 15 * 2 ^ 14 + 7), .cmpi 0 15 7),
   (long 0x2 (0 * 2 ^ 18 + 1 * 2 ^ 14 + 31), .shli 0 1 31), (long 0x2 (1 * 2 ^ 18 + 1 * 2 ^ 14 + 5), .shri 0 1 5),
   (long 0x2 (2 * 2 ^ 18 + 1 * 2 ^ 14 + 5), .sari 0 1 5), (long 0x2 (3 * 2 ^ 18 + 1 * 2 ^ 14 + 5), .rori 0 1 5),
   (long 0x3 (payload 0 1 2 0), .extb 0 1 2), (long 0x3 (payload 1 1 2 0), .extbu 0 1 2), (long 0x3 (payload 2 1 2 0), .exth 0 1 2),
   (long 0x3 (payload 3 1 2 0), .exthu 0 1 2), (long 0x3 (payload 4 1 2 0), .clz 0 1 2), (long 0x3 (payload 5 1 2 0), .cls 0 1 2)]

/-- Majors 0x4 and 0x5 (04 R132, R133), TMAJ 0x4 and 0x5 (04 R134, R135). -/
def macWords : List (List Syl × Instr) :=
  [([short 0x4 0 1 2], .macQ 0 0 1 2), ([short 0x4 1 1 2], .macQ 0 1 1 2), ([short 0x4 2 1 2], .msuQ 0 0 1 2), ([short 0x4 3 1 2], .msuQ 0 1 1 2),
   ([short 0x5 0 1 2], .mulqS 0 1 2), ([short 0x5 1 1 2], .addqS 0 1 2), ([short 0x5 2 1 2], .subqS 0 1 2),
   ([short 0x5 3 1 0x0], .rdt 0 1 0), ([short 0x5 3 1 0x3], .rdr 0 1 1), ([short 0x5 3 1 0x4], .rdl 0 1 0), ([short 0x5 3 1 0x7], .rdi 0 1 1),
   ([short 0x5 3 1 0x8], .rdg 0 1 0), ([short 0x5 3 1 0xB], .wrq 0 1 1), ([short 0x5 3 1 0xC], .wri 0 0 1), ([short 0x5 3 0 0xF], .clr 0 1 0),
   (long 0x4 (payload 0 8 0 0 + 3 * 2 ^ 11 + 5 * 2 ^ 7), .macI 0 1 3 5), (long 0x4 (payload 1 0 0 0 + 3 * 2 ^ 11 + 5 * 2 ^ 7), .msuI 0 0 3 5),
   (long 0x4 (payload 2 8 0 0 + 3 * 2 ^ 11 + 5 * 2 ^ 7), .mac2Q 0 1 3 5), (long 0x4 (payload 3 0 0 0 + 3 * 2 ^ 11 + 5 * 2 ^ 7), .msu2Q 0 0 3 5),
   (long 0x4 (payload 4 8 0 0 + 15 * 2 ^ 11 + 14 * 2 ^ 7), .macuI 0 1 15 14),
   (long 0x5 (payload 0 1 2 0), .add2S 0 1 2), (long 0x5 (payload 1 1 2 0), .sub2S 0 1 2), (long 0x5 (payload 2 1 2 0), .mul2q 0 1 2),
   (long 0x5 (payload 3 1 2 0), .absqS 0 1 2), (long 0x5 (payload 4 1 2 0), .negqS 0 1 2), (long 0x5 (payload 5 1 2 9), .shlqS 0 1 2 9),
   (long 0x5 (payload 6 1 2 0), .add2 0 1 2), (long 0x5 (payload 7 1 2 0), .sub2 0 1 2)]

/-- Majors 0x8 and 0x9, TMAJ 0x1, 0x8 and 0x9 (04 R136). -/
def moveWords : List (List Syl × Instr) :=
  [([short 0x8 0 1 2], .mov 0 1 2), ([short 0x8 1 7 2], .mova 0 7 2), ([short 0x8 2 1 7], .movd 0 1 7), ([short 0x8 3 1 2], .movaa 0 1 2),
   ([BitVec.ofNat 14 (0x9 * 2 ^ 10 + 1 * 2 ^ 6 + 0x3F)], .movi 0 1 0x3F), (long 0x1 (7 * 2 ^ 16 + 0x8001), .adda 0 7 0x8001),
   (long 0x8 (1 * 2 ^ 16 + 0x8001), .movh 0 1 0x8001), (long 0x9 (1 * 2 ^ 16 + 0x8001), .moviL 0 1 0x8001)]

/-- Major 0x6 (04 R137) and TMAJ 0x6 (04 R138), a2 with d1: indirect, then in other modes. -/
def memLong (ty lo : Nat) : List Syl := long 0x6 (ty * 2 ^ 16 + 1 * 2 ^ 12 + 2 * 2 ^ 9 + lo)
def loadWords : List (List Syl) :=
  [[BitVec.ofNat 14 (0x6 * 2 ^ 10 + 1 * 2 ^ 5 + 2 * 2 ^ 2)], memLong 0 0, memLong 1 0, memLong 2 0, memLong 3 0, memLong 4 0]
def storeWords : List (List Syl) := [[BitVec.ofNat 14 (0x6 * 2 ^ 10 + 1 * 2 ^ 9 + 1 * 2 ^ 5 + 2 * 2 ^ 2)], memLong 8 0, memLong 9 0, memLong 11 0]
def modeWords : List (List Syl × Instr) :=
  [([BitVec.ofNat 14 (0x6 * 2 ^ 10 + 1 * 2 ^ 5 + 2 * 2 ^ 2 + 3)], .ld 0 1 2 .modInc), (memLong 0 0x1FF, .ldW 0 1 2 (.off 0xFF)),
   (memLong 8 0x20, .stW 0 1 2 .inc), (memLong 3 0x40, .ldB 0 1 2 .dec), (memLong 11 0x60, .stB 0 1 2 .modInc), (memLong 0 0x80, .ldW 0 1 2 .modDec),
   (memLong 1 0xA0, .ldH 0 1 2 .brev)]

/-- Major 0x7 and TMAJ 0x7 (04 R141, R142), CX (04 R161), Major 0xD (04 R150, R152), Major 0xF (04 R162). -/
def flowWords : List (List Syl × Instr) :=
  [([BitVec.ofNat 14 (0x7 * 2 ^ 10 + 14 * 2 ^ 6 + 0x20)], .bcc 0 14 0x20), (long 0x7 (payload 14 0xF 0xF 0xFE), .bccL 0 14 0xFFFE),
   (long 0x7 (payload 15 1 0 0), .call 0 0x1000), ([BitVec.ofNat 14 (0xC * 2 ^ 10 + 15 * 2 ^ 6 + 3 * 2 ^ 3 + 4)], .cx 0 15 3 4),
   (long 0xC (payload 15 1 2 0x34), .cxL 0 15 1 2 3 4), ([BitVec.ofNat 14 (0xF * 2 ^ 10 + 6 * 2 ^ 6 + 7)], .jmp 0 7),
   ([BitVec.ofNat 14 (0xF * 2 ^ 10 + 7 * 2 ^ 6 + 2)], .callr 0 2), ([BitVec.ofNat 14 (0xF * 2 ^ 10 + 8 * 2 ^ 6)], .ret 0)]
def systemWords : List (List Syl × Instr) :=
  [([BitVec.ofNat 14 (0xF * 2 ^ 10)], .nop 0), ([BitVec.ofNat 14 (0xF * 2 ^ 10 + 1 * 2 ^ 6)], .sys 0),
   ([BitVec.ofNat 14 (0xF * 2 ^ 10 + 2 * 2 ^ 6)], .brk 0), ([BitVec.ofNat 14 (0xF * 2 ^ 10 + 3 * 2 ^ 6)], .rete 0),
   ([BitVec.ofNat 14 (0xF * 2 ^ 10 + 4 * 2 ^ 6)], .syncI 0), ([BitVec.ofNat 14 (0xF * 2 ^ 10 + 5 * 2 ^ 6)], .syncC 0),
   ([BitVec.ofNat 14 (0xF * 2 ^ 10 + 9 * 2 ^ 6)], .wfi 0), ([BitVec.ofNat 14 (0xD * 2 ^ 10 + 2 * 2 ^ 6)], .waitf 0),
   ([BitVec.ofNat 14 (0xD * 2 ^ 10 + 0 * 2 ^ 6 + 9 * 2 ^ 2 + 3)], .smprd 0 9 3), ([BitVec.ofNat 14 (0xD * 2 ^ 10 + 1 * 2 ^ 6 + 0 * 2 ^ 4 + 15)], .duty 0 0 15),
   (long 0xF (0 * 2 ^ 16 + 1 * 2 ^ 11 + 2 * 2 ^ 7), .mtc 0 1 2), (long 0xF (1 * 2 ^ 16 + 31 * 2 ^ 11 + 2 * 2 ^ 7), .mfc 0 2 31),
   (long 0xF (2 * 2 ^ 16 + 2 * 2 ^ 13 + 1 * 2 ^ 9), .pwrite 0 2 1)]

/-- The seven transforms (04 R152): the group in bits 5:4, the variant in bits 2:0. -/
def xformWords : List (List Syl × Instr) :=
  [([BitVec.ofNat 14 (0xD * 2 ^ 10 + 3 * 2 ^ 6 + 2 * 2 ^ 4 + 0)], .xformClarke3 0 2), ([BitVec.ofNat 14 (0xD * 2 ^ 10 + 3 * 2 ^ 6 + 2 * 2 ^ 4 + 1)], .xformClarke2 0 2),
   ([BitVec.ofNat 14 (0xD * 2 ^ 10 + 3 * 2 ^ 6 + 2 * 2 ^ 4 + 2)], .xformPark 0 2), ([BitVec.ofNat 14 (0xD * 2 ^ 10 + 3 * 2 ^ 6 + 2 * 2 ^ 4 + 3)], .xformIpark 0 2),
   ([BitVec.ofNat 14 (0xD * 2 ^ 10 + 3 * 2 ^ 6 + 2 * 2 ^ 4 + 4)], .xformParksc 0 2), ([BitVec.ofNat 14 (0xD * 2 ^ 10 + 3 * 2 ^ 6 + 2 * 2 ^ 4 + 5)], .xformIparksc 0 2),
   ([BitVec.ofNat 14 (0xD * 2 ^ 10 + 3 * 2 ^ 6 + 2 * 2 ^ 4 + 6)], .xformSvt 0 2)]

/-- Major 0xA and TMAJ 0xA (04 R143), Major 0xB and TMAJ 0xB (04 R146). -/
def floatWords : List (List Syl × Instr) :=
  [([short 0xA 0 1 2], .fadd 0 1 2), ([short 0xA 1 1 2], .fsub 0 1 2), ([short 0xA 2 1 2], .fmul 0 1 2), ([short 0xA 3 1 0], .fneg 0 1),
   ([short 0xA 3 1 1], .fabs 0 1), ([short 0xA 3 1 2], .fcvtWs 0 1), ([short 0xA 3 1 3], .fcvtSw 0 1), ([short 0xA 3 1 4], .fcvtQs 0 1),
   ([short 0xA 3 1 5], .fcvtSq 0 1), (long 0xA (payload 0 1 2 0), .fcmp 0 1 2), (long 0xA (payload 1 1 2 0), .fmin 0 1 2),
   (long 0xA (payload 2 1 2 0), .fmax 0 1 2), (long 0xA (payload 3 1 2 0x30), .fmadd 0 1 2 3)]
def longWords : List (List Syl × Instr) :=
  [([short 0xB 0 1 2], .div 0 1 2), ([short 0xB 1 1 2], .divu 0 1 2), ([short 0xB 2 4 2], .sincos 0 4 2), ([short 0xB 3 1 2], .atan2 0 1 2),
   (long 0xB (payload 0 1 2 0), .sqrt 0 1 2), (long 0xB (payload 1 1 2 0), .divq 0 1 2), (long 0xB (payload 2 1 2 0), .fdiv 0 1 2),
   (long 0xB (payload 3 1 2 0), .fsqrt 0 1 2), (long 0xB (payload 4 1 2 0), .rem 0 1 2), (long 0xB (payload 5 1 2 0), .remu 0 1 2)]

/-- TMAJ 0xD and BMOVE of TMAJ 0xF (04 R154), with a2, a3, a4 and d1. -/
abbrev vmacW : List Syl := long 0xD (0 * 2 ^ 16 + 0 * 2 ^ 15 + 2 * 2 ^ 12 + 3 * 2 ^ 9 + 1 * 2 ^ 5)
abbrev interpW : List Syl := long 0xD (1 * 2 ^ 16 + 2 * 2 ^ 13 + 3 * 2 ^ 10 + 4 * 2 ^ 7 + 1 * 2 ^ 3)
abbrev bmoveW : List Syl := long 0xF (3 * 2 ^ 16 + 2 * 2 ^ 13 + 3 * 2 ^ 10 + 1 * 2 ^ 6)
def walkWords : List (List Syl × Instr) := [(vmacW, .vmac 0 0 2 3 1 none), (interpW, .interp 0 2 3 4 1 none), (bmoveW, .bmove 0 2 3 1 none)]

/-- Each instruction's words decode to it, and in the core they are fetched and executed. -/
theorem decode_words :
    AllRun (aluWords ++ immWords) started ∧ AllRun (macWords ++ moveWords) started ∧ AllRun (flowWords ++ systemWords) started ∧
    AllRun (xformWords ++ floatWords ++ longWords ++ walkWords) started ∧ AllRun modeWords started := by
  unfold AllRun Executes; (repeat' apply And.intro) <;> decide +kernel

/-- Encodings that no table assigns, or with a 1 where a table shows 0, are no instruction (03 R123; 04 R125). -/
theorem decode_illegal :
    (∀ w ∈ ([0x3FFF, short 0xF 2 0xC 0, short 0xF 0 0 1, short 0xD 1 0 0, short 0xD 0 0xC 7, short 0xD 0 0x8 1, short 0xA 3 1 6] : List Syl),
      decodeCore 0 w 0 = none) ∧
    (∀ ws ∈ [long 0xE 0, long 0x2 (1 * 2 ^ 5), long 0x3 (payload 6 1 2 0), long 0x3 (payload 0 1 2 1),
        long 0x4 (payload 5 0 0 0), long 0x5 (payload 8 1 2 0), long 0x5 (payload 0 1 2 1), memLong 5 0, memLong 10 0, memLong 0 0xC0, memLong 0 1,
        long 0xA (payload 4 1 2 0), long 0xA (payload 0 1 2 0x10), long 0xB (payload 6 1 2 0), long 0xD (2 * 2 ^ 16), long 0xF (4 * 2 ^ 16),
        long 0xF (0 * 2 ^ 16 + 1), long 0x1 (2 ^ 19)],
      decodeCore 0 (ws.getD 0 0) (ws.getD 1 0) = none) := by
  decide +kernel

/-! ## Witnesses: the core -/

/-- One of those words. -/
abbrev addW : List Syl := [short 0x0 0 1 2]
abbrev subcW : List Syl := [short 0x1 3 1 2]
abbrev clzW : List Syl := long 0x3 (payload 4 1 2 0)
abbrev clsW : List Syl := long 0x3 (payload 5 1 2 0)
abbrev sqrtW : List Syl := long 0xB (payload 0 1 2 0)
abbrev divW : List Syl := [short 0xB 0 1 2]
abbrev remW : List Syl := long 0xB (payload 4 1 2 0)
abbrev sysW (fn : Nat) : List Syl := [BitVec.ofNat 14 (0xF * 2 ^ 10 + fn * 2 ^ 6)]
abbrev waitfW : List Syl := [BitVec.ofNat 14 (0xD * 2 ^ 10 + 2 * 2 ^ 6)]
abbrev dutyW : List Syl := [BitVec.ofNat 14 (0xD * 2 ^ 10 + 1 * 2 ^ 6 + 15)]
abbrev mtcW (n r : Nat) : List Syl := long 0xF (n * 2 ^ 11 + r * 2 ^ 7)
abbrev mfcW (n r : Nat) : List Syl := long 0xF (1 * 2 ^ 16 + n * 2 ^ 11 + r * 2 ^ 7)
abbrev pwriteW : List Syl := long 0xF (2 * 2 ^ 16 + 2 * 2 ^ 13 + 1 * 2 ^ 9)

theorem witness_IntegerInstructions :
    AllRun (aluWords ++ immWords) inRun ∧
    Runs clzW (.clz 0 1 2) (startedWith 0 0) (fun c => (getD 2 c).toNat < 2 ^ (32 - 32)) ∧
    Runs clzW (.clz 0 1 2) (startedWith 0 1) (fun c => (getD 2 c).toNat < 2 ^ (32 - 31) ∧ 2 ^ (31 - 31) ≤ (getD 2 c).toNat) ∧
    Runs clzW (.clz 0 1 2) (startedWith 0 0xFFFFFFFF) (fun c => (getD 2 c).toNat < 2 ^ (32 - 0) ∧ 2 ^ (31 - 0) ≤ (getD 2 c).toNat) ∧
    Runs clsW (.cls 0 1 2) (startedWith 0 0xFFFFFFFF) (fun c => ∀ j < 31, (getD 2 c).getLsbD (30 - j) = (getD 2 c).msb) ∧
    Runs clsW (.cls 0 1 2) (startedWith 0 0x40000000) (fun c => (getD 2 c).getLsbD (30 - 0) = !(getD 2 c).msb) := by
  unfold AllRun Executes; (repeat' apply And.intro) <;> decide +kernel

theorem witness_AccumulatorsAndSaturation : AllRun macWords started ∧ AllRun macWords inRun := by
  unfold AllRun Executes; (repeat' apply And.intro) <;> decide +kernel

theorem witness_Moves : AllRun moveWords inRun ∧ AllRun systemWords inRun := by
  unfold AllRun Executes; (repeat' apply And.intro) <;> decide +kernel

/-- A cabinet with a PSW, its User level reaching all of data memory and the first eight register blocks. -/
def atLevel (w : Word) : Cabinet := { core := { psw := w, uperm := 0x200FF, udhi := 0x3FFFF } }

/-- R104 to R108 at the ends of each range. -/
theorem witness_AddressesAndAccess :
    ({} : Cabinet).core.brv.toNat % 16 = 0 ∧ ({ core := { brv := 15 } } : Cabinet).core.brv.toNat % 16 ≠ 0 ∧
    (0x21FFE : Word).toNat % 4 ≠ 0 ∧ (0x40002 : Word).toNat % 2 = 0 ∧ (0x4AFFC : Word).toNat % 4 = 0 ∧ (0x21EFF : Word).toNat % 1 = 0 ∧
    (inRun {}).frame.inRun = true ∧ (atLevel 0x3000).level = .machine ∧ (atLevel 0x1000).level = .kernel ∧ (atLevel 0).level = .user ∧
    accessFault 0x21FFE 4 .load (inRun {}) = some { vec := 7, acc := .load, addr := 0x21FFE } ∧
    accessFault 0x40002 2 .store (atLevel 0x3000) = some { vec := 7, acc := .store, addr := 0x40002 } ∧
    accessFault 0x20000 4 .load (inRun {}) = none ∧ accessFault 0x1FFFC 4 .load (inRun {}) ≠ none ∧
    accessFault 0x21FFC 4 .load (inRun {}) = none ∧ accessFault 0x40000 4 .load (inRun {}) ≠ none ∧
    accessFault 0x21FFF 1 .load (atLevel 0x3000) = none ∧ accessFault 0x22000 1 .load (atLevel 0x3000) ≠ none ∧
    accessFault 0x4AFFC 4 .load (atLevel 0x3000) = none ∧ accessFault 0x4B000 4 .load (atLevel 0x3000) ≠ none ∧
    accessFault 0x21EFF 1 .store (atLevel 0x1000) = none ∧ accessFault 0x21F00 1 .store (atLevel 0x1000) ≠ none ∧
    accessFault 0x21EFF 1 .store (atLevel 0) = none ∧ accessFault 0x21F00 1 .store (atLevel 0) ≠ none ∧
    accessFault 0x47FFC 4 .load (atLevel 0) = none ∧ accessFault 0x49000 4 .load (atLevel 0) ≠ none ∧
    accessFault 0x22000 4 .load (atLevel 0) ≠ none := by
  decide +kernel

/-- The words of a list, with its instructions. -/
def each {α : Type} (ws : List (List Syl)) (l : List α) : List (List Syl × α) := ws.zip l

/-- The last word of the frame scratch, in memory and in the store buffer. -/
theorem witness_Loads :
    (∀ f ∈ each loadWords (loadForms 0 1 2 .ind .ind),
      let s := withCab (fun c => placed f.1 (setA 2 0x21FFC (remembers 0x21FFC [1, 2, 3, 4] (started c))))
      let c := s.cab 0
      Executes 0 f.2.1 s ∧ accessFault (getA 2 c) f.2.2.2.2.1 .load c = none ∧ isMem (getA 2 c).toNat = true ∧
        youngest c (getA 2 c).toNat f.2.2.2.2.1 = none ∧ loadFails c (getA 2 c).toNat f.2.2.2.2.1 = 0) ∧
    (each loadWords (loadForms 0 1 2 .ind .ind)).length = 6 ∧
    Runs (memLong 0 0) (.ldW 0 1 2 .ind) (fun c => setA 2 0 (let c := started c; { c with pipe := { c.pipe with sbuf := [⟨0, 4, 5, .machine⟩] } })) (fun c =>
      accessFault 0 4 .load c = none ∧ isMem 0 = true ∧ youngest c 0 4 = some ⟨0, 4, 5, .machine⟩ ∧ rangeHolds 0 4 0 4 = true) := by
  constructor
  · unfold Executes; decide +kernel
  · (repeat' apply And.intro) <;> decide +kernel

/-- A core with one store in its buffer. -/
def storing (e : StoreEntry) (c : Cabinet) : Cabinet := let c := started c; { c with pipe := { c.pipe with sbuf := [e] } }

theorem witness_StoresAndDrain :
    (∀ f ∈ each storeWords (storeForms 0 1 2 .ind .ind),
      let s := withCab (fun c => placed f.1 (setA 2 0x21FFC (started c)))
      let c := s.cab 0
      Executes 0 f.2.1 s ∧ accessFault (getA 2 c) f.2.2.2.2 .store c = none ∧ c.pipe.sbuf.length < 8) ∧
    (each storeWords (storeForms 0 1 2 .ind .ind)).length = 4 ∧
    Meets (storing ⟨0x21FFC, 4, 5, .machine⟩) (fun c => c.pipe.sbuf = ⟨0x21FFC, 4, 5, .machine⟩ :: [] ∧ 0x21FFC + 4 ≤ 0x22000) ∧
    Meets (storing ⟨0x40010, 4, 0xC80, .kernel⟩) (fun c =>
      c.pipe.sbuf = ⟨0x40010, 4, 0xC80, .kernel⟩ :: [] ∧ regViolates .kernel 0x40010 0xC80 { c with pipe := { c.pipe with sbuf := [] } } = false) ∧
    Meets (storing ⟨0x47020, 4, 0, .user⟩) (fun c =>
      c.pipe.sbuf = ⟨0x47020, 4, 0, .user⟩ :: [] ∧ regViolates .user 0x47020 0 { c with pipe := { c.pipe with sbuf := [] } } = true) := by
  constructor
  · unfold Executes; decide +kernel
  · (repeat' apply And.intro) <;> decide +kernel

theorem witness_AccessFaults :
    (∀ f ∈ each loadWords (loadForms 0 1 2 .ind .ind),
      let s := withCab (fun c => placed f.1 (setA 2 0x22000 (started c)))
      Executes 0 f.2.1 s ∧ (s.cab 0).frame.inRun = false ∧
        accessFault 0x22000 f.2.2.2.2.1 .load (s.cab 0) = some { vec := 8, acc := .load, addr := 0x22000 }) ∧
    (∀ f ∈ each storeWords (storeForms 0 1 2 .ind .ind),
      let s := withCab (fun c => placed f.1 (setA 2 0x22000 (started c)))
      Executes 0 f.2.1 s ∧ accessFault 0x22000 f.2.2.2.2 .store (s.cab 0) = some { vec := 8, acc := .store, addr := 0x22000 }) ∧
    Runs (memLong 0 0) (.ldW 0 1 2 .ind) (fun c => setA 2 0x21FFF (started c)) (fun c =>
      accessFault 0x21FFF 4 .load c = some { vec := 7, acc := .load, addr := 0x21FFF }) := by
  constructor
  · unfold Executes; decide +kernel
  constructor
  · unfold Executes; decide +kernel
  · (repeat' apply And.intro) <;> decide +kernel

theorem witness_Branches : AllRun (flowWords.take 2) inRun ∧ AllRun (flowWords.drop 5) started := by
  unfold AllRun Executes; (repeat' apply And.intro) <;> decide +kernel

theorem witness_CallsAndReturns :
    Runs (long 0x7 (payload 15 1 0 0)) (.call 0 0x1000) started (fun c =>
      accessFault (getSp .machine c - 4) 4 .store c = none ∧ c.level = .machine ∧ c.pipe.sbuf.length < 8) ∧
    Runs [BitVec.ofNat 14 (0xF * 2 ^ 10 + 7 * 2 ^ 6 + 2)] (.callr 0 2) started (fun c => c.pipe.sbuf.length < 8) ∧
    Runs (sysW 8) (.ret 0) (fun c => setSp .machine 0x21FFC (remembers 0x21FFC [1, 2, 3, 0] (started c))) (fun c =>
      accessFault (getSp .machine c) 4 .load c = none ∧ isMem (getSp .machine c).toNat = true ∧
      youngest c 0x21FFC 4 = none ∧ loadFails c 0x21FFC 4 = 0) ∧
    Runs (sysW 8) (.ret 0) (fun c => setSp .machine 0x21FFC (storing ⟨0x21FFC, 4, 5, .machine⟩ c)) (fun c =>
      youngest c 0x21FFC 4 = some ⟨0x21FFC, 4, 5, .machine⟩ ∧ rangeHolds 0x21FFC 4 0x21FFC 4 = true) := by
  (repeat' apply And.intro) <;> decide +kernel

theorem witness_FloatInstructions : AllRun floatWords started ∧ AllRun floatWords inRun := by
  unfold AllRun Executes; (repeat' apply And.intro) <;> decide +kernel

/-- The smallest normal, the largest finite and a NaN word. -/
theorem witness_FloatValues :
    nanWord 0x7F800001 ∧ ¬ nanWord 0x7F800000 ∧ fld (0x00800000 : Word) 23 8 ≠ 0 ∧ finiteWord 0x7F7FFFFF ∧ finiteWord 0x00800000 ∧
    exactValue 0x00800000 ≠ 0 ∧ 0 < exactValue 0x3F800000 ∧ exactValue (fsqrt 0x3F800000).val ≠ 0 ∧ 0 ≤ exactValue 0x00800000 ∧
    exactValue 0x00800000 < exactValue (fsqrt 0x3F800000).val ∧ exactValue (fsqrt 0x3F800000).val < exactValue 0x7F7FFFFF := by
  unfold nanWord finiteWord; decide +kernel

theorem witness_LongOperations :
    (AllRun longWords inRun ∧ (4 : Fin 16).val % 2 = 0) ∧
    Runs sqrtW (.sqrt 0 1 2) (startedWith 0 0x80000000) (fun c => (getD 2 c).toInt < 0) ∧
    Runs sqrtW (.sqrt 0 1 2) (startedWith 0 0) (fun c =>
      0 ≤ (getD 2 c).toInt ∧ 0 * 0 ≤ (getD 2 c).toNat * 2 ^ 31 ∧ (getD 2 c).toNat * 2 ^ 31 < (0 + 1) * (0 + 1)) ∧
    Runs sqrtW (.sqrt 0 1 2) (startedWith 0 0x7FFFFFFF) (fun c =>
      0 ≤ (getD 2 c).toInt ∧ 2147483647 * 2147483647 ≤ (getD 2 c).toNat * 2 ^ 31 ∧
      (getD 2 c).toNat * 2 ^ 31 < (2147483647 + 1) * (2147483647 + 1)) := by
  constructor
  · unfold AllRun Executes; decide +kernel
  · (repeat' apply And.intro) <;> decide +kernel

theorem witness_Transforms : AllRun xformWords started ∧ AllRun xformWords inRun := by
  unfold AllRun Executes; (repeat' apply And.intro) <;> decide +kernel

/-- The sum of two of the durations exceeds a period. -/
theorem witness_TransformValues : (0x7FFFFFFF : Word) ≠ 0 ∧ (xformSvt 0x7FFFFFFF 0x7FFFFFFF 0 0).sat = true := by decide +kernel

/-- A core at User level in a run's place, and one that divides by zero with OVE and DZE set. -/
theorem witness_TrapsAndIllegalForms :
    Runs addW (.add 0 1 2) (fun c => let c := startedWith 0x7FFFFFFF 0x7FFFFFFF c; { c with core := { c.core with psw := 0x3600 } }) (fun c =>
      (getD 1 c).toInt + (getD 2 c).toInt ≠ (getD 1 c + getD 2 c).toInt ∧ c.core.psw.getLsbD 10 = true ∧ c.core.psw.getLsbD 9 = true) ∧
    Runs remW (.rem 0 1 2) (startedWith 0x80000000 0) (fun c => getD 2 c = 0) ∧
    Runs divW (.div 0 1 2) (startedWith 0x80000000 0xFFFFFFFF) (fun c => getD 1 c = 0x80000000 ∧ getD 2 c = 0xFFFFFFFF) ∧
    AllRun ([(sysW 1, .sys 0), (sysW 2, .brk 0), ([BitVec.ofNat 14 (0x7 * 2 ^ 10 + 15 * 2 ^ 6)], .bcc 0 15 0), ([short 0x8 1 8 2], .mova 0 8 2),
      ([short 0x8 2 1 8], .movd 0 1 8), ([short 0x8 3 8 8], .movaa 0 8 8), ([short 0x5 3 1 0xF], .clr 0 1 1), ([short 0xB 2 1 2], .sincos 0 1 2),
      ([short 0xB 3 1 15], .atan2 0 1 15), (dutyW, .duty 0 0 15)]) started ∧
    AllRun ([(sysW 9, .wfi 0), (sysW 3, .rete 0), (pwriteW, .pwrite 0 2 1), (mtcW 1 2, .mtc 0 1 2), (sysW 2, .brk 0)]) inRun ∧
    (inRun {}).frame.inRun = true ∧ (8 ≤ (8 : Fin 16).val ∧ (1 : Fin 16).val ≠ 0 ∧ (15 : Fin 16).val % 2 = 1 ∧ (1 : Fin 32).val ≠ 0) ∧
    AllRun ([(sysW 9, .wfi 0), (sysW 3, .rete 0), (sysW 5, .syncC 0), (pwriteW, .pwrite 0 2 1), (waitfW, .waitf 0), (mtcW 31 2, .mtc 0 31 2),
      (mfcW 1 2, .mfc 0 2 1)]) userStarted ∧
    (fun c : Cabinet => c.frame.inRun = false ∧ c.level = .user ∧ (ctlLowest 31).isSome = true ∧ ctlReach c.level 31 = false ∧
      (ctlLowest 1).isSome = true ∧ ctlReach c.level 1 = false) (userStarted {}) := by
  unfold AllRun Executes; (repeat' apply And.intro) <;> decide +kernel

/-- A core in a run with another frame. -/
def inRunWith (f : Frame → Frame) (c : Cabinet) : Cabinet := let c := inRun c; { c with frame := f c.frame }

theorem witness_CommitAndWait :
    Runs dutyW (.duty 0 0 15) inRun (fun c => c.frame.inRun = true ∧ c.frame.acted = false ∧ c.frame.committed = false ∧ c.frame.guarding = false ∧
      c.pipe.hold ≠ .wfi) ∧
    Runs dutyW (.duty 0 0 15) (inRunWith (fun f => { f with guarding := true, deadline := 0 })) (fun c =>
      c.frame.guarding = true ∧ c.frame.committed = false ∧ c.frame.deadline < runCount 1 (dutyBody 0 15 c).ops c) ∧
    Runs dutyW (.duty 0 0 15) (inRunWith (fun f => { f with acted := true })) (fun c => c.frame.acted = true) ∧
    Runs dutyW (.duty 0 0 15) (inRunWith (fun f => { f with committed := true })) (fun c => c.frame.acted = false ∧ c.frame.committed = true) ∧
    Runs waitfW (.waitf 0) (fun c => let c := inRun c; { c with pipe := { c.pipe with hold := .waitf } }) (fun c => c.pipe.hold = .waitf) ∧
    Runs waitfW (.waitf 0) started (fun c => c.frame.inRun = false ∧ c.level ≠ .user) ∧
    Runs (sysW 9) (.wfi 0) started (fun c => anyPending c = false) ∧
    Runs (sysW 9) (.wfi 0) (fun c => let c := started c; { c with icu := { c.icu with src := c.icu.src.set 127 { en := true, pend := true } } }) (fun c =>
      c.frame.inRun = false ∧ c.level ≠ .user ∧ anyPending c = true) := by
  (repeat' apply And.intro) <;> decide +kernel

theorem witness_ControlRegisters :
    (Runs (mtcW 25 2) (.mtc 0 25 2) started (fun c => c.frame.inRun = false ∧ (ctlLowest 25).isNone = true) ∧
      Runs (mfcW 27 2) (.mfc 0 2 27) started (fun _ => (ctlLowest 27).isNone = true)) ∧
    (Runs (mtcW 1 2) (.mtc 0 1 2) (startedWith 0 0x100) (fun c => (ctlLowest 1).isNone ≠ true ∧ ctlReach c.level 1 = true ∧ (1 : Fin 32).val ≠ 0 ∧
        (ctlCard 1).violates c.level (ctlGet 1 c) (getD 2 c) = false) ∧
      Runs (mfcW 1 2) (.mfc 0 2 1) started (fun c => ctlReach c.level 1 = true)) ∧
    Runs (mtcW 0 2) (.mtc 0 0 2) (fun c => let c := startedWith 0 0x3000 c; { c with core := { c.core with psw := 0x1000 } }) (fun c =>
      ctlReach c.level 0 = true ∧ (ctlCard 0).violates c.level (ctlGet 0 c) 0x3000 = true ∧ (0x3000 : Word).toNat / 2 ^ 12 % 4 ≠ 2) ∧
    Runs (mtcW 0 2) (.mtc 0 0 2) (startedWith 0 0x3000) (fun c =>
      (getD 2 c).toNat / 2 ^ 12 % 4 ≠ 2 ∧ (ctlCard 0).violates c.level (ctlGet 0 c) (getD 2 c) = false) ∧
    Runs (mtcW 0 2) (.mtc 0 0 2) inRun (fun c => c.frame.inRun = true) ∧ Runs (mfcW 0 2) (.mfc 0 2 0) inRun (fun c => c.frame.inRun = true) ∧
    Runs (sysW 5) (.syncC 0) inRun (fun c => c.frame.inRun = true) ∧
    Runs (sysW 5) (.syncC 0) started (fun c => c.frame.inRun = false ∧ c.level ≠ .user) ∧ (1 : Nat) ≠ 0 := by
  (repeat' apply And.intro) <;> decide +kernel

/-- Each of the three instructions in each of its cases, the deferred registers at both ends of their range. -/
theorem witness_ControlAccessCompletes :
    (Runs (sysW 5) (.syncC 0) inRun (fun c => c.frame.inRun = true ∧ c.pipe.hold ≠ .wfi) ∧
      Runs (sysW 5) (.syncC 0) (fun c => let c := started c; { c with pipe := { c.pipe with deferred := [⟨1, 0x200, none⟩] } }) (fun c =>
        c.level ≠ .user ∧ c.pipe.deferred ≠ [])) ∧
    (Runs (mfcW 31 2) (.mfc 0 2 31) started (fun c => ctlReach c.level 31 = true) ∧
      Runs (mfcW 0 2) (.mfc 0 2 0) inRun (fun c => ctlReach c.level 0 = true) ∧
      Runs (mfcW 25 2) (.mfc 0 2 25) started (fun c => ctlReach c.level 25 = true ∧ (ctlLowest 25).isNone = true)) ∧
    (Runs (mtcW 0 2) (.mtc 0 0 2) inRun (fun c => c.frame.inRun = true) ∧
      Runs (mtcW 25 2) (.mtc 0 25 2) started (fun c => c.frame.inRun = false ∧ (ctlLowest 25).isNone = true) ∧
      (∀ n ∈ [(8 : Fin 32), 11, 12, 19, 1, 20, 24],
        let s := withCab (fun c => placed (mtcW n.val 2) (startedWith 0 0x1000 c))
        let c := s.cab 0
        Executes 0 (.mtc 0 n 2) s ∧ c.frame.inRun = false ∧ ctlReach c.level n.val = true ∧
          (ctlCard n.val).violates c.level (ctlGet n.val c) (getD 2 c) = false ∧ ∀ y ∈ c.pipe.deferred, y.reg ≠ n.val)) := by
  constructor
  · (repeat' apply And.intro) <;> decide +kernel
  constructor
  · (repeat' apply And.intro) <;> decide +kernel
  · unfold Runs Executes; decide +kernel

theorem witness_ProgramStore :
    Runs pwriteW (.pwrite 0 2 1) (fun c => setA 2 0x1FFFF (started c)) (fun c =>
      c.frame.inRun = false ∧ c.level ≠ .user ∧ (getA 2 c).toNat < 0x20000 ∧ c.par.inj = false) ∧
    Runs pwriteW (.pwrite 0 2 1) (fun c => setA 2 0x20000 (started c)) (fun c =>
      c.frame.inRun = false ∧ c.level ≠ .user ∧ 0x20000 ≤ (getA 2 c).toNat) ∧
    Runs (sysW 4) (.syncI 0) started (fun c => c.frame.inRun = false) := by
  (repeat' apply And.intro) <;> decide +kernel

/-- Eight words in frame scratch, and a2, a3, a4 on three of them, d1 the count of elements. -/
def walking (n : Nat) (c : Cabinet) : Cabinet :=
  setD 1 (BitVec.ofNat 32 n) (setA 4 0x20010 (setA 3 0x20008 (setA 2 0x20000 (remembers 0x20000 (List.replicate 32 0) (started c)))))

/-- The elements of the three instructions from the first to element `n` have all completed. -/
def Walked (c : Cabinet) (n : Nat) (i : Nat) : Prop :=
  let w (e : Cabinet → Elem) := walked c n (walk e (n - firstElement c) { c := (fetchInstr c).c, done := firstElement c })
  match i with
  | 0 => w (vmacElem 0 2 3)
  | 1 => w (interpElem 2 3 4)
  | _ => w (bmoveElem 2 3)

theorem witness_ResumableInstructions :
    (Runs vmacW (.vmac 0 0 2 3 1 none) (walking 0) (fun c => firstElement c ≤ (getD 1 c).toNat % 2 ^ 16 ∧ Walked c 0 0) ∧
      Runs vmacW (.vmac 0 0 2 3 1 none) (walking 2) (fun c => Walked c 2 0) ∧
      Runs interpW (.interp 0 2 3 4 1 none) (walking 2) (fun c => Walked c 2 1) ∧
      Runs bmoveW (.bmove 0 2 3 1 none) (walking 2) (fun c => Walked c 2 2)) ∧
    (Runs vmacW (.vmac 0 0 2 3 1 (some 1)) (walking 2) (fun c =>
        c.frame.inRun = false ∧ firstElement c ≤ 1 ∧ 1 < (getD 1 c).toNat % 2 ^ 16 ∧ Walked c 1 0) ∧
      Runs interpW (.interp 0 2 3 4 1 (some 1)) (walking 2) (fun c => Walked c 1 1) ∧
      Runs bmoveW (.bmove 0 2 3 1 (some 1)) (walking 2) (fun c => Walked c 1 2)) ∧
    Runs vmacW (.vmac 0 0 2 3 1 (some 1)) (fun c => walking 2 (inRun c)) (fun c => c.frame.inRun = true ∧ Walked c 2 0) ∧
    (fun c : Cabinet => plainWord (getA 2 c) c ∧ plainWord (getA 3 c) c ∧ c.pipe.sbuf.length < 8 ∧
      accessFault (getA 3 c) 4 .store c = none ∧ plainWord (getA 4 c) c ∧ plainWord (getA 4 c + 4) c ∧
      (wordAt (getA 2 c) c).toNat / 2 ^ 24 = 0) (walking 1 {}) := by
  unfold Runs Executes Walked walked plainWord; (repeat' apply And.intro) <;> decide +kernel

/-- A core whose decode-table slot 0 holds one micro-operation. -/
def slotted (fs : Bool) (u : BitVec 48) (c : Cabinet) : Cabinet :=
  { c with dec := { c.dec with slot := c.dec.slot.set 0 ⟨0, 0, fs, true⟩, uop := c.dec.uop.set 0 u, uopSet := [0, 1] } }

/-- CX slot 0 with d1, d2, and CX.L slot 0 with d15, d2, d3. -/
abbrev cxW : List Syl := [BitVec.ofNat 14 (0xC * 2 ^ 10 + 0 * 2 ^ 6 + 1 * 2 ^ 3 + 2)]
abbrev cxlW : List Syl := long 0xC (payload 0 15 2 0x34)

/-- MOV Rd, Rs as a micro-operation (07 R238: unit 0, OP 0x20, D 0, A 1, B none, LAST), and one with D naming the register after Rd. -/
theorem witness_CustomInstructions :
    (Runs cxW (.cx 0 0 1 2) started (fun c => (c.dec.slot[(0 : Fin 16)]).valid = false) ∧
      Runs cxlW (.cxL 0 0 15 2 3 4) started (fun c => (c.dec.slot[(0 : Fin 16)]).valid = false)) ∧
    Runs cxW (.cx 0 0 1 2) (fun c => slotted false 0x2001F2000000 (inRun c)) (fun c =>
      (c.dec.slot[(0 : Fin 16)]).valid = true ∧ c.frame.inRun = true ∧ (c.dec.slot[(0 : Fin 16)]).fs = false) ∧
    Runs cxlW (.cxL 0 0 15 2 3 4) (fun c => slotted false 0x2031F2000000 (started c)) (fun c =>
      (c.dec.slot[(0 : Fin 16)]).valid = true ∧ c.frame.inRun = false ∧ (slotEntries c.dec.slot[(0 : Fin 16)]).any (uopBadParity c) = false ∧
      (microOps c 0).any (cxBeyond ⟨15, 2, 3, 4⟩) = true) ∧
    Runs cxW (.cx 0 0 1 2) (fun c => slotted false 0x2001F2000000 (started c)) (fun c =>
      (microOps c 0).any (cxBeyond ⟨1, 2, 1, 0⟩) = false ∧ (slotEntries c.dec.slot[(0 : Fin 16)]).any (uopBadParity c) = false ∧
      (customRun 0 ⟨1, 2, 1, 0⟩ (fetchInstr c).c).exc = none ∧ (customRun 0 ⟨1, 2, 1, 0⟩ (fetchInstr c).c).held = false ∧
      (customLeaves (customRun 0 ⟨1, 2, 1, 0⟩ (fetchInstr c).c)).pipe.hold = c.pipe.hold ∧
      (customLeaves (customRun 0 ⟨1, 2, 1, 0⟩ (fetchInstr c).c)).frame.inRun = c.frame.inRun) ∧
    Runs cxW (.cx 0 0 1 2) (fun c => slotted true 0x2001F2000000 (inRun c)) (fun c =>
      c.frame.inRun = true ∧ (c.dec.slot[(0 : Fin 16)]).fs = true ∧ (customRun 0 ⟨1, 2, 1, 0⟩ (fetchInstr c).c).exc = none ∧
      (customRun 0 ⟨1, 2, 1, 0⟩ (fetchInstr c).c).held = false ∧
      (customLeaves (customRun 0 ⟨1, 2, 1, 0⟩ (fetchInstr c).c)).frame.inRun = c.frame.inRun) ∧
    (uopDecode 0x2001F2000000).map (fun u => (u.op, u.d)) = some (.alu .mov, 0) ∧ UopOp.alu .mov ≠ .ldw ∧
    (uopDecode 0x40D012000000).map (fun u => (u.op, u.d)) = some (.mac .macQ, 13) := by
  (repeat' apply And.intro) <;> decide +kernel

def causing (f : Pipe → Pipe) (c : Cabinet) : Cabinet := let c := started c; { c with pipe := f c.pipe }

/-- The causes in the order of 06 R228, and an entry at vector 31 with the deepest stack pointer that Machine level may have. -/
theorem witness_ExceptionEntry :
    (causing (fun p => { p with runExc := some { vec := 12 } }) {}).pipe.runExc = some { vec := 12 } ∧
    (causing (fun p => { p with trap := some { vec := 11 } }) {}).pipe.trap = some { vec := 11 } ∧
    (causing (fun p => { p with violation := [(.user, 0x47020)] }) {}).pipe.violation = (.user, 0x47020) :: [] ∧
    (causing (fun p => { p with fault := some { vec := 1 } }) {}).pipe.fault = some { vec := 1 } ∧
    ((causing (fun p => { p with overrun := true }) {}).pipe.overrun = true ∧
      (causing (fun p => { p with overrun := true }) {}).pipe.mdepth = 0 ∧ pendingFault (causing (fun p => { p with overrun := true }) {}) = none) ∧
    pendingFault (causing (fun p => { p with fault := some { vec := 3 } }) {}) = some { vec := 3 } ∧
    (pendingFault (causing id {}) = none ∧ (causing id {}).core.psw.getLsbD 8 = false) ∧
    (fun (c : Cabinet) => (withCab (causing (fun p => { p with fault := some { vec := 3 } }))).chip.side.reset = none ∧
      mayEnter c = true ∧ c.pipe.sbuf = [] ∧ c.pipe.deferred = [] ∧ c.pipe.fresh = none ∧
      selectCause c = some { exc := { vec := 3 }, level := .machine, pick := .fault } ∧ stackOk .machine (getSp .machine c).toNat = true ∧
      c.par.inj = false ∧ c.core.evb.toNat / 2 ^ 8 % 2 ^ 9 * 256 + 4 * 3 + 4 ≤ (getSp .machine c).toNat - 8 ∧
      loadFails c (4 * 3) 4 = 0 ∧ memRead c (4 * 3) 4 < 2 ^ 18)
      ((withCab (fun c => remembers 12 [0xFF, 0xFF, 3, 0] (causing (fun p => { p with fault := some { vec := 3 } }) c))).cab 0) := by
  (repeat' apply And.intro) <;> decide +kernel

theorem witness_ExceptionReturn :
    Runs (sysW 3) (.rete 0) (fun c => let c := started c; { c with core := { c.core with epsw := 0x2000 } }) (fun c =>
      c.frame.inRun = false ∧ c.level ≠ .user ∧ c.pipe.deferred = [] ∧ c.core.epsw.toNat / 2 ^ 12 % 4 = 2) ∧
    Runs (sysW 3) (.rete 0) (fun c => let c := started c; { c with core := { c.core with psw := 0x1000, epsw := 0x3000 } }) (fun c =>
      c.level ≠ .user ∧ c.level.code < c.core.epsw.toNat / 2 ^ 12 % 4) ∧
    Runs (sysW 3) (.rete 0) (fun c => setSp .machine 0x21FF8 (remembers 0x21FF8 [0, 0x30, 0, 0, 1, 2, 3, 0]
        (let c := started c; { c with core := { c.core with epsw := 0x3000 } }))) (fun c =>
      c.frame.inRun = false ∧ c.level ≠ .user ∧ c.pipe.deferred = [] ∧ ¬ (c.core.epsw.toNat / 2 ^ 12 % 4 = 2 ∨ c.level.code < 3) ∧
      c.core.epsw.toNat / 2 ^ 12 % 4 = 3 ∧ popReach c c.level (getSp c.level c).toNat = true ∧ c.pipe.sbuf = [] ∧
      loadFails c (getSp c.level c).toNat 4 = 0 ∧ loadFails c ((getSp c.level c).toNat + 4) 4 = 0) := by
  (repeat' apply And.intro) <;> decide +kernel

/-- Line 0 of sixteen words of good parity, and one whose last word fails. -/
def goodLine : CacheLine := ⟨0, List.replicate 16 (physSyl 0)⟩
def badLine : CacheLine := ⟨0, List.replicate 15 (physSyl 0) ++ [physSyl 0 ^^^ 1]⟩

/-- A program store whose line 0 has good parity. -/
def lined (c : Cabinet) : Cabinet :=
  { c with mems := { c.mems with prog := (List.range 16).map (fun i => (i, physSyl 0)) } }

theorem witness_FetchAndIssue :
    Meets (causing (fun p => { p with fill := some ⟨goodLine, 7⟩ })) (fun c =>
      c.pipe.fill = some ⟨goodLine, 7⟩ ∧ goodLine.good = true ∧ c.frame.inRun = false ∧ c.core.pc.toNat < 0x20000 ∧ (7 : Nat) < 8) ∧
    Meets (causing (fun p => { p with fill := some ⟨goodLine, 8⟩ })) (fun c => c.frame.inRun = false ∧ c.pipe.fill = some ⟨goodLine, 8⟩ ∧ (8 : Nat) ≤ 8) ∧
    Meets (fun c => causing (fun p => { p with fill := some ⟨badLine, 7⟩ }) { c with core := { c.core with pc := 15 } }) (fun c =>
      c.pipe.fill = some ⟨badLine, 7⟩ ∧ badLine.good = false ∧ supReady c = true ∧ c.core.pc.toNat / 16 = badLine.line ∧
      laneFails (badLine.words[c.core.pc.toNat % 16]?.getD 0) ≠ 0) ∧
    Meets started (fun c => c.pipe.fill = none ∧ c.frame.inRun = false ∧ c.core.pc.toNat < 0x20000) ∧
    Meets (fun c => placed (memLong 0 0) (lined (started c))) (fun c => supReady c = true ∧ c.core.pc.toNat + 1 < 0x20000 ∧ cacheHas c 0 = true ∧
      coreLen (sylOf (fetchWord 0 c).2) = 2 ∧ (storeLine c 0).good = true) ∧
    Meets (fun c => let c := placed [0] (lined (started c)); { c with par := { c.par with bucket := 0xFFFE, thresh := 0xFFFE } }) (fun c =>
      supReady c = true ∧ c.par.bucket < 0xFFFF ∧ c.par.bucket = c.par.thresh) ∧
    Meets (fun c => { c with par := { c.par with leak := 1, leakCount := 1 } }) (fun c => c.par.leak ≠ 0 ∧ c.par.leak ≤ c.par.leakCount) ∧
    ready ((withCab id).cab 0) = false ∧
    ({ chip := { side := { reset := some .resetN } } } : State).chip.side.reset ≠ none := by
  (repeat' apply And.intro) <;> decide +kernel

/-- A fetch that raises vector 8 (the second syllable lies beyond the program store), one that raises vector 1, syllables that are no
instruction, and syllables that are another instruction. -/
theorem witness_FetchAndIssue_instead :
    (fun c : Cabinet => ready c = true ∧ (fetchInstr c).exc = some { vec := 8, acc := .fetch, addr := 0x20000 })
      (placed (memLong 0 0) (let c := started {}; { c with core := { c.core with pc := 0x1FFFF } })) ∧
    (fun c : Cabinet => ready c = true ∧ (fetchInstr c).exc = some { vec := 1, acc := .fetch })
      (let c := started {}; { c with mems := { c.mems with prog := [(0, physSyl 0 ^^^ 1)] } }) ∧
    (fun c : Cabinet => ready c = true ∧ (fetchInstr c).exc = none ∧ decodeCore 0 (fetchInstr c).w1 (fetchInstr c).w2 = none)
      (placed [0x3FFF] (started {})) ∧
    (fun c : Cabinet => ready c = true ∧ (fetchInstr c).exc = none ∧ decodeCore 0 (fetchInstr c).w1 (fetchInstr c).w2 = none)
      (placed (long 0xE 0) (inRun {})) ∧
    (fun c : Cabinet => decodeCore 0 (fetchInstr c).w1 (fetchInstr c).w2 = some (.sub 0 1 2) ∧ Instr.sub 0 1 2 ≠ coded (.add 0 1 2))
      (placed [short 0x0 1 1 2] (started {})) := by
  (repeat' apply And.intro) <;> decide +kernel

theorem witness_SoftwareWrites :
    Meets id (fun c => softReach .user 0x46220 c = false) ∧
    Meets (fun c => { c with core := { c.core with uperm := 0x80 } }) (fun c => softReach .user 0x47000 c = true ∧ regViolates .user 0x47000 1 c = true) ∧
    MayWrite 0 .machine 0x42044 0 (withCab id) ∧ MayWrite 0 .kernel 0x46220 0xFF (withCab id) := by
  (repeat' apply And.intro) <;> decide +kernel

/-! ## Witnesses: the frame and the blocks of a cabinet -/

/-- A cabinet whose frame runs, in a state of CAB_STATE. -/
def framed (m : CabMode) (f : Frame → Frame) (c : Cabinet) : Cabinet := { c with mode := m, frame := f { c.frame with running := true } }

theorem witness_FrameBoundary :
    Meets (framed .running id) (fun c => c.frame.running = true ∧ c.mode ≠ .parked ∧ c.pend = []) ∧
    Meets (fun c => { framed .armed id c with pend := [⟨.run, some 1⟩] }) (fun c =>
      c.frame.running = true ∧ c.mode = .armed ∧ c.pend = [⟨.run, some 1⟩]) ∧
    Meets (fun c => { framed .running id c with pend := [⟨.park, none⟩] }) (fun c =>
      c.frame.running = true ∧ c.mode = .running ∧ c.pend = [⟨.park, none⟩]) ∧
    Meets (fun c => { c with mode := .loaded, pend := [⟨.arm, none⟩] }) (fun c =>
      c.frame.running = false ∧ c.mode = .loaded ∧ c.pend = [⟨.arm, none⟩]) ∧
    (let with' (ahead : Option Nat) (win : Word) := Meets (fun c =>
        let c := framed .running (fun f => { f with dual := true }) c
        { c with cnv := { c.cnv with ahead := ahead, win := win } })
     with' (some 20) 0x00300010 (fun c => c.frame.running = true ∧ c.frame.dual = true ∧ c.cnv.ahead = some 20) ∧
     with' none 0x00300010 (fun c => c.cnv.ahead = none ∧ windowLo c ≤ 16) ∧
     with' none 0x00300011 (fun c => c.cnv.ahead = none ∧ 16 < windowLo c)) ∧
    Meets id (fun c => c.frame.running = false ∧ c.mode ≠ .parked) := by
  (repeat' apply And.intro) <;> decide +kernel

theorem witness_LoopEvents :
    Meets (framed .running (fun f => { f with due := some true, inRun := true })) (fun c =>
      c.frame.due = some true ∧ c.frame.running = true ∧ c.frame.inRun = true) ∧
    Meets (fun c => let c := framed .running id c; { c with pipe := { c.pipe with issueStop := true, walked := some 3 } }) (fun c =>
      c.pipe.issueStop = true ∧ c.pipe.mdepth = 0 ∧ c.frame.inRun = false ∧ c.pipe.walked = some 3) ∧
    Meets (fun c => let c := framed .running (fun f => { f with sampling := true }) c; { c with pipe := { c.pipe with stopped := false } })
      (fun c => c.frame.sampling = true ∧ c.frame.running = true ∧ c.pipe.sbuf = [] ∧ c.pipe.walked = none ∧ c.pipe.mdepth = 0 ∧
        c.pipe.stopped = false) ∧
    Meets (fun c => let c := framed .running (fun f => { f with sampling := true }) c
        { c with pipe := { c.pipe with stopped := false, mdepth := 1 } })
      (fun c => c.frame.sampling = true ∧ c.frame.running = true ∧ c.pipe.sbuf = [] ∧ c.pipe.walked = none ∧ 0 < c.pipe.mdepth) ∧
    Meets (framed .running (fun f => { f with guarding := true })) (fun c =>
      c.frame.guarding = true ∧ c.frame.committed = false ∧ c.frame.ovtrip = true ∧ c.frame.fallback = true) ∧
    Meets (framed .running (fun f => { f with committed := true, guarding := true })) (fun c => c.frame.committed = true) ∧
    Meets (framed .running (fun f => { f with commit := .port 15 [1, 2, 3, 4] })) (fun c => c.frame.commit = .port 15 [1, 2, 3, 4]) ∧
    Meets (framed .running (fun f => { f with commit := .shadow })) (fun c =>
      c.frame.commit = .shadow ∧ c.mode = .running ∧ c.pwm.enN = false) := by
  (repeat' apply And.intro) <;> decide +kernel

/-- A cabinet with other converters. -/
def withCnv (m : CabMode) (f : Cnv → Cnv) (c : Cabinet) : Cabinet := { framed m (fun x => { x with dual := true }) c with cnv := f c.cnv }

/-- Matching at its bound of 8 (sums 135 and 136 of sixteen), and a sequencer entry of each trigger. -/
theorem witness_TrackerAndSequencer :
    (({ cal := some 3 } : Trim).cal ≠ none ∧ (-8192 : Int) ≤ (-8000000 * 16384 + 8000000) / 16000000 ∧
      ((7999999 * 16384 + 8000000) / 16000000 : Int) ≤ 8192) ∧
    (Meets (withCnv .running id) (fun c => c.frame.running = true ∧ c.cnv.trk.getLsbD 26 = false ∧ c.frame.dual = true ∧
        ∀ i : Nat, ([] : List Int)[i]? = none) ∧
      Meets (withCnv .running (fun n => { n with win := 0x00200010 })) (fun c =>
        windowLo c + 0 ≤ windowHi c ∧ ([0, 0, 0, 0, 128001] : List Int)[0]? = some 0 ∧ ([0, 0, 0, 0, 128001] : List Int)[0 + 4]? = some 128001 ∧
        (c.cnv.trk.toNat / 2 ^ 4 % 2 ^ 4 + 1) * 32000 < (128001 - 0 : Int).natAbs ∧
        ∀ j : Nat, 0 < j → ([0, 0, 0, 0, 128001] : List Int)[j + 4]? = none)) ∧
    (Meets (withCnv .running (fun n => { n with matchN := 16, spst := .matching, matchSum := 135 })) (fun c =>
        c.cnv.matchN = 16 ∧ c.cnv.spst = .matching ∧ c.cnv.spare < 5 ∧
        ((c.cnv.matchSum + 8) / 16).natAbs ≤ c.cnv.rotcfg.toNat / 2 ^ 16 % 2 ^ 6) ∧
      Meets (withCnv .running (fun n => { n with matchN := 16, spst := .ready, matchSum := -136 })) (fun c =>
        c.cnv.matchN = 16 ∧ c.cnv.spst = .ready ∧ c.cnv.rotcfg.toNat / 2 ^ 16 % 2 ^ 6 < (- ((- c.cnv.matchSum + 8) / 16)).natAbs)) ∧
    (Meets (fun c => let c := withCnv .loaded (fun n => { n with initCal := true }) c; { c with armWait := false }) (fun c =>
        c.cnv.initCal = true ∧ c.mode ≠ .test ∧ c.armWait = false) ∧
      Meets (fun c => let c := withCnv .loaded (fun n => { n with initCal := true }) c; { c with armWait := true }) (fun c =>
        c.cnv.initCal = true ∧ c.armWait = true) ∧
      Meets (withCnv .running (fun n => { n with spst := .calibrating })) (fun c =>
        c.cnv.initCal = false ∧ c.mode ≠ .test ∧ c.cnv.spst = .calibrating ∧ c.cnv.spare < 5 ∧ (16 : BitVec 5).getLsbD c.cnv.spare = true ∧
        (15 : BitVec 5).getLsbD c.cnv.spare = false)) ∧
    ((MayWrite 0 .machine 0x4102C 4 (withCab (withCnv .loaded id)) ∧ ((withCab (withCnv .loaded id)).cab 0).mode = .loaded) ∧
      (MayWrite 0 .machine 0x4102C 4 (withCab (withCnv .tripped id)) ∧ ((withCab (withCnv .tripped id)).cab 0).mode = .tripped) ∧
      (MayWrite 0 .machine 0x4102C 4 (withCab id) ∧ ((withCab id).cab 0).mode = .empty)) ∧
    ((MayWrite 0 .machine 0x41008 0x04000000 (withCab (withCnv .running id)) ∧ (0x04000000 : Word).getLsbD 26 = true ∧
        ((withCab (withCnv .running id)).cab 0).cnv.trk.getLsbD 26 = false) ∧
      (MayWrite 0 .machine 0x41008 0x04000000 (withCab (withCnv .running (fun n => { n with trk := 0x04000830 }))) ∧
        (0x04000830 : Word).getLsbD 26 = true ∧ (0x04000830 : Word).toNat / 2 ^ 16 % 2 ^ 10 = 0) ∧
      (MayWrite 0 .machine 0x41008 0x03FF0000 (withCab (withCnv .running (fun n => { n with trk := 0x04000830 }))) ∧
        (0x03FF0000 : Word).getLsbD 26 = false)) ∧
    (Meets (withCnv .running (fun n => { n with seq := n.seq.set 7 0x200 })) (fun c =>
        c.frame.running = true ∧ (c.cnv.seq[(7 : Fin 8)]).toNat / 2 ^ 8 % 2 ^ 3 = 2 ∧ c.frame.dual = true ∧ c.cnv.seqPhase[(7 : Fin 8)] = .idle ∧
        c.cnv.initCal = false) ∧
      Meets (withCnv .running (fun n => { n with seq := n.seq.set 7 0x100, seqPhase := n.seqPhase.set 7 .waiting })) (fun c =>
        (c.cnv.seq[(7 : Fin 8)]).toNat / 2 ^ 8 % 2 ^ 3 = 1 ∧ c.cnv.seqPhase[(7 : Fin 8)] ≠ .idle)) ∧
    (Meets (withCnv .running (fun n => { n with seq := n.seq.set 7 0x100, seqPhase := n.seqPhase.set 7 .waiting })) (fun c =>
        c.cnv.seqPhase[(7 : Fin 8)] = .waiting ∧ c.mode = .running ∧ c.cnv.initCal = false ∧ c.frame.running = true ∧ c.frame.sampling = false ∧
        c.frame.due = none ∧ c.frame.pos + 48 ≤ nextReserved c ∧
        (∀ i : Fin 8, c.cnv.seqPhase[i] ≠ .converting (c.cnv.pos.toList.getD ((c.cnv.seq[(7 : Fin 8)]).toNat / 2 ^ 4 % 2 ^ 2) 0)) ∧
        (∀ m : Fin 8, m < 7 → c.cnv.seqPhase[m] ≠ .waiting)) ∧
      Meets (withCnv .loaded (fun n => { n with seq := n.seq.set 0 0x400, seqPhase := n.seqPhase.set 0 .waiting })) (fun c =>
        c.cnv.seqPhase[(0 : Fin 8)] = .waiting ∧ c.mode = .loaded ∧ (c.cnv.seq[(0 : Fin 8)]).toNat / 2 ^ 8 % 2 ^ 3 ≠ 1) ∧
      Meets (withCnv .running id) (fun c => c.cnv.seqPhase[(7 : Fin 8)] ≠ .waiting)) ∧
    (Meets (withCnv .running (fun n => { n with seqPhase := n.seqPhase.set 7 (.converting 3) })) (fun c =>
        c.cnv.seqPhase[(7 : Fin 8)] = .converting 3) ∧
      Meets (withCnv .running (fun n => { n with seqPhase := n.seqPhase.set 7 (.converting 4), spareBusy := true })) (fun c =>
        c.cnv.spareBusy = true ∧ c.cnv.seqPhase[(7 : Fin 8)] = .converting c.cnv.spare)) ∧
    (MayWrite 0 .machine 0x41084 (BitVec.ofNat 32 (2 ^ (7 : Fin 8).val)) (withCab (withCnv .loaded (fun n => { n with seq := n.seq.set 7 0x400 }))) ∧
      (((withCab (withCnv .loaded (fun n => { n with seq := n.seq.set 7 0x400 }))).cab 0).cnv.seq[(7 : Fin 8)]).toNat / 2 ^ 8 % 2 ^ 3 = 4) := by
  (repeat' apply And.intro) <;> first | decide +kernel | (intro j; simp; try omega)

/-- A running cabinet with other comparators. -/
def compared (m : CabMode) (f : Cmpr → Cmpr) (c : Cabinet) : Cabinet := { c with mode := m, cmpr := f c.cmpr }

/-- The H side of comparator 7 trips at code 1023 and its L side at code 0: voltages one step beyond each, and at each. -/
theorem witness_Comparators :
    Meets (compared .running (fun x => { x with pe := x.pe.set 7 0x1003 })) (fun c =>
      c.park ≠ .stopped ∧ c.park ≠ .waking ∧ c.cmpr.stat.getLsbD 15 = false ∧ c.cmpr.stat.getLsbD 7 = false ∧ c.testParked = false ∧
      c.cmpr.move[(15 : Fin 16)] = none ∧ c.cmpr.move[(7 : Fin 16)] = none ∧
      pulseEnabled c 7 true ∧ pulseEnabled c 7 false ∧ tripEnabled c 7 true ∧ tripEnabled c 7 false ∧
      (c.cmpr.cfg[(7 : Fin 8)]).toNat % 2 ^ 10 = 16 ∧ (c.cmpr.cfg[(7 : Fin 8)]).toNat / 2 ^ 10 % 2 ^ 10 = 1008 ∧
      ((1008 : Nat) - 512 : Int) * 15625 < 7750001 ∧ (-7750001 : Int) < ((16 : Nat) - 512) * 15625) ∧
    Meets (compared .test id) (fun c => c.mode = .test ∧ c.cmpr.stat.getLsbD 0 = false) ∧
    Meets (fun c => { compared .test id c with testParked := true }) (fun c => c.mode = .test ∧ c.testParked = true) ∧
    Meets (compared .running (fun x => { x with stat := 0x80 })) (fun c =>
      c.cmpr.stat.getLsbD 7 = true ∧ (c.cmpr.cfg[(7 : Fin 8)]).toNat / 2 ^ 25 % 4 = 1 ∧ (7717999 : Int) < ((1008 : Nat) - 512) * 15625 - 32000) ∧
    Meets (compared .running (fun x => { x with blankTrip := 0x80, stat := 0x8000 })) (fun c =>
      c.cmpr.blankTrip.getLsbD 7 = true ∧ c.mode ≠ .test ∧ c.cmpr.stat.getLsbD 15 = true ∧ c.cmpr.stat.getLsbD 7 = false ∧
      (c.cmpr.cfg[(7 : Fin 8)]).getLsbD 23 = true) ∧
    Meets (compared .running (fun x => { x with blankPulse := 0x80, stat := 0x80, pe := x.pe.set 7 0x1001 })) (fun c =>
      c.cmpr.blankPulse.getLsbD 7 = true ∧ c.mode ≠ .test ∧ c.cmpr.stat.getLsbD 7 = true ∧ c.cmpr.stat.getLsbD 15 = false ∧
      (c.cmpr.pe[(7 : Fin 8)]).getLsbD 0 = true) ∧
    Meets (compared .running (fun x => { x with blankPulse := 0x80, stat := 0x8080, pe := x.pe.set 7 0x1003 })) (fun c =>
      c.cmpr.blankPulse.getLsbD 7 = true ∧ c.mode ≠ .test ∧ c.cmpr.stat.getLsbD 7 = true ∧ c.cmpr.stat.getLsbD 15 = true ∧
      (c.cmpr.pe[(7 : Fin 8)]).toNat % 4 = 3) := by
  (repeat' apply And.intro) <;> decide +kernel

/-- A cabinet with another pair 3. -/
def paired (m : CabMode) (f : Pair → Pair) (c : Cabinet) : Cabinet :=
  { framed m id c with pwm := { c.pwm with pair := c.pwm.pair.set 3 (f c.pwm.pair[(3 : Fin 4)]) } }

theorem witness_OutputEvents :
    Meets (paired .running id) (fun c => c.pwm.tripN = true ∧ c.latch = false ∧ c.mode = .running) ∧ (1999 : Nat) < 2000 ∧
    Meets (paired .running id) (fun c => c.pwm.enN = false ∧ c.pwm.safe.getLsbD 24 = true) ∧
    Meets (paired .running (fun q => { q with dtfix := 0x02800280 })) (fun c =>
      c.frame.running = true ∧ (c.pwm.pair[(3 : Fin 4)]).cfg.toNat % 4 = 0 ∧ (c.pwm.pair[(3 : Fin 4)]).dtfix.getLsbD 31 = false) ∧
    (MayWrite 0 .machine (0x42044 + 16 * (3 : Fin 4).val) 0x82800280 (withCab (paired .loaded (fun q => { q with dtfix := 0x02800280 }))) ∧
      (0x82800280 : Word).getLsbD 31 = true) ∧
    (MayWrite 0 .machine (0x42044 + 16 * (3 : Fin 4).val) 0x3FFF3FFF (withCab (paired .loaded id)) ∧ (0x3FFF3FFF : Word).getLsbD 31 = false) ∧
    (MayWrite 0 .machine (0x42048 + 16 * (3 : Fin 4).val) 0x01400141 (withCab (paired .loaded id)) ∧ (0x140 : Nat) < 0x141) ∧
    MayWrite 0 .machine (0x42048 + 16 * (3 : Fin 4).val) 0x01400140 (withCab (paired .loaded id)) ∧
    Meets (paired .running (fun q => { q with cmp := 1, below := false })) (fun c =>
      c.frame.running = true ∧ 0 < (c.pwm.pair[(3 : Fin 4)]).cmp ∧
      (c.pwm.pair[(3 : Fin 4)]).cmp < 20 * (if c.pwm.triangle then c.frame.flen / 2 else c.frame.flen)) ∧
    Meets (fun c => let c := paired .running (fun q => { q with a := { asks := true, wait := 640 } }) c; { c with pwm := { c.pwm with rel := true } })
      (fun c => c.forced = false ∧ (c.pwm.pair[(3 : Fin 4)]).a.asks = true ∧ (c.pwm.pair[(3 : Fin 4)]).a.ripe = false ∧
        (c.pwm.pair[(3 : Fin 4)]).b.active = false ∧ (c.pwm.pair[(3 : Fin 4)]).b.asks = false) ∧
    Meets (paired .running (fun q => { q with b := { asks := true, wait := 640 } })) (fun c =>
      c.forced = true ∧ (c.pwm.pair[(3 : Fin 4)]).b.asks = true ∧ (c.pwm.pair[(3 : Fin 4)]).b.ripe = false ∧
      (c.pwm.pair[(3 : Fin 4)]).a.active = false) ∧
    Meets (fun c => let c := paired .running (fun q => { q with b := { safe := true } }) c; { c with pwm := { c.pwm with safe := 0x4000 } }) (fun c =>
      c.forced = true ∧ (c.pwm.pair[(3 : Fin 4)]).b.safe = true ∧ c.pwm.safe.toNat / 2 ^ (4 * 3 + 2) % 4 = 1 ∧
      (c.pwm.pair[(3 : Fin 4)]).a.active = false) := by
  (repeat' apply And.intro) <;> decide +kernel

/-- A cabinet with another feedback unit. -/
def fedBack (m : CabMode) (f : Fbk → Fbk) (c : Cabinet) : Cabinet := { c with mode := m, fbk := f c.fbk }

/-- FBK_CFG.FILT is 16: an input counts with its sixteenth differing sample. -/
theorem witness_PositionFeedback_filter :
    Meets (fedBack .running id) (fun c => c.fbk.cfg.toNat / 2 ^ 8 % 2 ^ 9 = 16 ∧ c.fbk.hall < 8 ∧
      ∀ i : Fin 3, c.fbk.hallRun[i] + ([7] : List (Fin 8)).length < 16) ∧
    (16 ≤ 0 + 15 + 1 ∧ 0 + 15 < 16) ∧ (16 ≤ 15 + 0 + 1 ∧ (0 : Nat) = 0) := by
  (repeat' apply And.intro) <;> decide +kernel

/-- Hall codes 1 and 3 are sectors 0 and 1 (10 R342), 7 is none. -/
theorem witness_PositionFeedback :
    Meets (fedBack .running (fun f => { f with hall := 1, judged := some 1, timingLost := false })) (fun c =>
      c.fbk.cfg.toNat % 4 = 0 ∧ c.fbk.judged = some c.fbk.hall ∧ hallSector c.fbk.hall = some 0 ∧ hallSector 3 = some 1 ∧
      (∀ i : Fin 3, (3 : Nat) / 2 ^ i.val % 2 ≠ c.fbk.hall / 2 ^ i.val % 2 → 16 ≤ c.fbk.hallRun[i] + 15 + 1 ∧ c.fbk.hallRun[i] + 15 < 16) ∧
      c.fbk.prevDir ≠ some (!false) ∧ c.fbk.timingLost = false) ∧
    Meets (fedBack .running (fun f => { f with hall := 3, judged := some 3, prevDir := some false })) (fun c =>
      hallSector c.fbk.hall = some 1 ∧ hallSector 1 = some 0 ∧ (1 : Nat) = (0 + 1) % 6 ∧ c.fbk.prevDir = some (!true)) ∧
    Meets (fedBack .running (fun f => { f with cfg := 0x1002, hall := 3, judged := some 3, hallDir := some false })) (fun c =>
      c.fbk.cfg.toNat % 4 = 2 ∧ hallSector c.fbk.hall = some 1 ∧ c.fbk.hallDir = some (!true)) ∧
    Meets (fedBack .running (fun f => { f with hall := 5 })) (fun c =>
      c.fbk.cfg.toNat % 4 = 0 ∧ c.fbk.hall < 8 ∧ (7 : Fin 8).val ≠ c.fbk.hall ∧ hallSector 7 = none) ∧
    Meets (fedBack .running (fun f => { f with cfg := 0x1001, toothN := 1, timingLost := false })) (fun c =>
      c.fbk.cfg.toNat % 4 = 1 ∧ c.fbk.hall < 8 ∧ c.fbk.hall % 2 ≠ true.toNat ∧ true = !c.fbk.cfg.getLsbD 3 ∧
      16 ≤ c.fbk.hallRun[(0 : Fin 3)] + 15 + 1 ∧ c.fbk.skipTest = false ∧ c.fbk.toothN < 2 ∧ 1 ≤ c.fbk.toothN ∧ c.fbk.timingLost = false) ∧
    Meets (fedBack .running (fun f => { f with cfg := 0x1002, toothN := 1, prevDir := some true })) (fun c =>
      c.fbk.cfg.toNat % 4 = 2 ∧ c.fbk.tooth ≠ true ∧ true = !c.fbk.cfg.getLsbD 3 ∧ 16 ≤ c.fbk.toothRun + 15 + 1 ∧ c.fbk.skipTest = false ∧
      c.fbk.toothN < 2 ∧ c.fbk.prevDir = some (!(c.fbk.hallDir == some true))) ∧
    MayWrite 0 .machine 0x43040 0xFFFFFFFF (withCab (fedBack .running (fun f => { f with cfg := 0x1003 }))) ∧
    MayWrite 0 .machine 0x43010 0xFFFFFFFF (withCab id) ∧
    MayWrite 0 .machine 0x43000 0x1FF00 (withCab (fedBack .armed id)) ∧ MayWrite 0 .machine 0x43000 1 (withCab id) ∧
    MayWrite 0 .machine 0x43004 0 (withCab id) ∧
    Meets (fun c => { c with drw := { c.drw with dr := c.drw.dr.set 3 { posBuf := some 7 } } }) (fun c =>
      (c.drw.dr[(3 : Fin 4)]).posBuf = some 7) := by
  (repeat' apply And.intro) <;> decide +kernel

/-- A wheel at its second tooth, 1000 ticks after an edge whose period was 100. -/
def gapped (c : Cabinet) : Cabinet :=
  let c := fedBack .running (fun f => { f with cfg := 0x1001, toothN := 2, period := 100, tsync := .sync }) c
  { c with tmr := { c.tmr with count := 1000 } }

/-- The gap of the reference, whatever the edge's stamp (10 R340: within two ticks). -/
theorem witness_PositionFeedback_gap :
    Meets gapped (fun c => c.fbk.cfg.toNat % 4 = 1 ∧ c.fbk.hall % 2 ≠ true.toNat ∧ true = !c.fbk.cfg.getLsbD 3 ∧ c.fbk.skipTest = false ∧
      2 ≤ c.fbk.toothN ∧ 1 ≤ c.fbk.tcfg.toNat / 2 ^ 11 % 2 ^ 3 ∧ c.fbk.tcfg.toNat / 2 ^ 11 % 2 ^ 3 ≤ 3 ∧ c.fbk.tsync = .sync) ∧
    (fun c : Cabinet => c.fbk.tcfg.toNat / 2 ^ 16 % 2 ^ 8 * c.fbk.period.toNat <
      min (stampOf 1 0 { c with free := c.free + 1 } - c.fbk.edgets).toNat 0xFFFFFFFF * 16) ((withCab gapped).cab 0) := by
  have key : ∀ y < 5, 24 * 100 < min ((1000 : BitVec 64) - BitVec.ofNat 64 (2 * 0) + BitVec.ofNat 64 y - 2 - 0).toNat 0xFFFFFFFF * 16 := by decide
  refine ⟨?_, key _ (Nat.mod_lt _ (by decide))⟩
  (repeat' apply And.intro) <;> decide +kernel

/-- A cabinet with another drawer 3. -/
def drawer (f : Drawer → Drawer) (c : Cabinet) : Cabinet := { c with drw := { c.drw with dr := c.drw.dr.set 3 (f { run := true }) } }

theorem witness_DrawerSteps :
    Meets (drawer (fun d => { d with state := 63, table := [(0x1F8, (0, false)), (0x23F, (0x0CCC, false))] })) (fun c =>
      (c.drw.dr[(3 : Fin 4)]).run = true ∧ (c.drw.dr[(3 : Fin 4)]).stall = none ∧ (c.drw.dr[(3 : Fin 4)]).wait = none ∧
      (c.drw.dr[(3 : Fin 4)]).clk = 0 ∧
      assocGet (0x200 + (c.drw.dr[(3 : Fin 4)]).state) (c.drw.dr[(3 : Fin 4)]).table = some (0x0CCC, false) ∧
      assocGet (8 * (c.drw.dr[(3 : Fin 4)]).state + 4 * (drwInput (c.drw.dr[(3 : Fin 4)]) 12 c).toNat +
        2 * (drwInput (c.drw.dr[(3 : Fin 4)]) 12 c).toNat + (drwInput (c.drw.dr[(3 : Fin 4)]) 12 c).toNat) (c.drw.dr[(3 : Fin 4)]).table =
        some (0, false)) ∧
    (fun z : Drawer => z.run = true ∧ z.wait = some (0 + 2, 63) ∧ z.clk = 1) { run := true, wait := some (2, 63), clk := 1 } ∧
    (fun z : Drawer => z.run = true ∧ z.wait = some (0 + 2, 63) ∧ z.clk = 0 + 2) { run := true, wait := some (2, 63), clk := 2 } ∧
    Meets (drawer (fun d => { d with wait := some (2, 63) })) (fun c => (c.drw.dr[(3 : Fin 4)]).wait = some (0 + 2, 63)) ∧
    Meets (drawer (fun d => { d with wait := some (1, 63) })) (fun c =>
      (c.drw.dr[(3 : Fin 4)]).wait = some (1, 63) ∧ (c.drw.dr[(3 : Fin 4)]).clk = 0) ∧
    Meets (drawer (fun d => { d with table := [(0x200, (0, true))] })) (fun c =>
      assocGet (0x200 + (c.drw.dr[(3 : Fin 4)]).state) (c.drw.dr[(3 : Fin 4)]).table = some (0, true)) ∧
    Meets (drawer (fun d => { d with stall := some 0x00600000, outq := [9] })) (fun c =>
      (c.drw.dr[(3 : Fin 4)]).stall = some 0x00600000 ∧ (0x00600000 : Word).toNat / 2 ^ 21 % 2 ^ 3 = 3 ∧
      (c.drw.dr[(3 : Fin 4)]).outq = 9 :: [] ∧ (c.drw.dr[(3 : Fin 4)]).oqIn < (c.drw.dr[(3 : Fin 4)]).outq.length) ∧
    Meets (drawer (fun d => { d with stall := some 0x00600000, outq := [9], oqIn := 1 })) (fun c =>
      ¬ (c.drw.dr[(3 : Fin 4)]).oqIn < (c.drw.dr[(3 : Fin 4)]).outq.length) ∧
    Meets (drawer (fun d => { d with stall := some 0x03400000, inq := [1, 2, 3] })) (fun c =>
      (c.drw.dr[(3 : Fin 4)]).stall = some 0x03400000 ∧ (0x03400000 : Word).toNat / 2 ^ 21 % 2 ^ 3 = 2 ∧
      (c.drw.dr[(3 : Fin 4)]).inq.length + (c.drw.dr[(3 : Fin 4)]).iqOut < 4 ∧ (c.drw.dr[(3 : Fin 4)]).posBuf = none ∧
      (c.drw.dr[(3 : Fin 4)]).posFreed = false) ∧
    Meets (drawer (fun d => { d with stall := some 0x03400000, posFreed := true })) (fun c =>
      ¬ (c.drw.dr[(3 : Fin 4)]).posFreed = false) ∧
    Meets (drawer (fun d => { d with stall := some 0x01400000, inq := [1, 2, 3], iqOut := 1 })) (fun c =>
      ¬ (c.drw.dr[(3 : Fin 4)]).inq.length + (c.drw.dr[(3 : Fin 4)]).iqOut < 4) ∧
    Meets (drawer (fun d => { d with stall := some 0x00600000, sto := 1, stallClk := 1 })) (fun c =>
      (c.drw.dr[(3 : Fin 4)]).stall = some 0x00600000 ∧ (c.drw.dr[(3 : Fin 4)]).stallFlagged = false ∧
      (c.drw.dr[(3 : Fin 4)]).sto.toNat % 2 ^ 16 ≠ 0 ∧ (c.drw.dr[(3 : Fin 4)]).sto.toNat % 2 ^ 16 ≤ (c.drw.dr[(3 : Fin 4)]).stallClk) ∧
    Meets (drawer (fun d => { d with stall := some 0x00600000, sto := 1 })) (fun c =>
      (c.drw.dr[(3 : Fin 4)]).stallClk < (c.drw.dr[(3 : Fin 4)]).sto.toNat % 2 ^ 16) := by
  (repeat' apply And.intro) <;> decide +kernel

theorem witness_DrawerActionsAndRegisters :
    Meets (drawer (fun d => { d with inq := [1, 2, 3], outq := [9], gcnt := 31, scnt := 1 })) (fun c =>
      (c.drw.dr[(3 : Fin 4)]).run = true ∧ (c.drw.dr[(3 : Fin 4)]).stall = none ∧ (c.drw.dr[(3 : Fin 4)]).wait = none ∧
      (c.drw.dr[(3 : Fin 4)]).clk = 0 ∧ (3 : BitVec 8).getLsbD 1 = true ∧ (3 : BitVec 8).getLsbD 0 = true ∧
      (c.drw.dr[(3 : Fin 4)]).gcnt ≠ (c.drw.dr[(3 : Fin 4)]).cfg.toNat / 2 ^ 8 % 2 ^ 5 + 1 ∧ (c.drw.dr[(3 : Fin 4)]).scnt ≠ 0 ∧
      (c.drw.dr[(3 : Fin 4)]).inq.length + (c.drw.dr[(3 : Fin 4)]).iqOut < 4 ∧ (c.drw.dr[(3 : Fin 4)]).posBuf = none ∧
      (c.drw.dr[(3 : Fin 4)]).posFreed = false ∧ (c.drw.dr[(3 : Fin 4)]).outq = 9 :: [] ∧ (c.drw.dr[(3 : Fin 4)]).oqIn < 1) ∧
    Meets (drawer (fun d => { d with inq := [1, 2, 3, 4], gcnt := 32 })) (fun c =>
      (c.drw.dr[(3 : Fin 4)]).gcnt = (c.drw.dr[(3 : Fin 4)]).cfg.toNat / 2 ^ 8 % 2 ^ 5 + 1 ∧ (c.drw.dr[(3 : Fin 4)]).scnt = 0 ∧
      ¬ (c.drw.dr[(3 : Fin 4)]).inq.length + (c.drw.dr[(3 : Fin 4)]).iqOut < 4 ∧
      ¬ (c.drw.dr[(3 : Fin 4)]).oqIn < (c.drw.dr[(3 : Fin 4)]).outq.length ∧ (0 : BitVec 8) = 0) ∧
    (MayWrite 0 .machine 0x440C0 0x3F01 (withCab (drawer (fun d => { d with run := false }))) ∧
      MayWrite 0 .machine 0x440C0 0x3F01 (withCab (drawer id)) ∧ MayWrite 0 .machine 0x440C0 0 (withCab (drawer id)) ∧
      MayWrite 0 .machine 0x440C0 2 (withCab (drawer (fun d => { d with run := false }))) ∧
      MayWrite 0 .machine 0x440D0 7 (withCab (drawer id)) ∧
      MayWrite 0 .machine 0x440E4 7 (withCab (drawer (fun d => { d with run := false, taddr := 0x23F, table := [(0x23F, (6, true))] }))) ∧
      MayWrite 0 .machine 0x440E4 7 (withCab (drawer id))) ∧
    Meets (drawer (fun d => { d with run := false, inq := [5], taddr := 0x23F, table := [(0x23F, (6, true))] })) (fun c =>
      (c.drw.dr[(3 : Fin 4)]).inq = 5 :: [] ∧ (c.drw.dr[(3 : Fin 4)]).iqIn < 1 ∧ (c.drw.dr[(3 : Fin 4)]).run = false ∧
      (c.drw.dr[(3 : Fin 4)]).taddr < 0x240 ∧
      assocGet (c.drw.dr[(3 : Fin 4)]).taddr (c.drw.dr[(3 : Fin 4)]).table = some (6, true)) ∧
    Meets (drawer (fun d => { d with inq := [5], iqIn := 1 })) (fun c =>
      (c.drw.dr[(3 : Fin 4)]).inq.length ≤ (c.drw.dr[(3 : Fin 4)]).iqIn ∧ (c.drw.dr[(3 : Fin 4)]).run = true) := by
  (repeat' apply And.intro) <;> decide +kernel

/-- A cabinet with another timer. -/
def timed (f : Tmr → Tmr) (c : Cabinet) : Cabinet := { c with tmr := f c.tmr }

/-- An offset of 65 ticks steps, one of 64 slews (12 R397); 1280000 quiet ticks are 4 ms (R399). -/
theorem witness_TimeAndCompare :
    (Meets (timed (fun t => { t with count := 65, delivered := true })) (fun c =>
        c.hold = false ∧ c.freeRun = false ∧ c.mode ≠ .armed ∧ c.mode ≠ .running ∧ 64 < ((c.tmr.count - ({} : Side).ticks).toInt).natAbs) ∧
      Meets (timed (fun t => { t with count := 64, delivered := true })) (fun c =>
        ¬ (64 < ((c.tmr.count - ({} : Side).ticks).toInt).natAbs ∨ c.tmr.delivered = false)) ∧
      ({} : Side).joinedAny = false ∧ Meets (fun c => { c with hold := true }) (fun c => c.hold = true)) ∧
    (Meets (timed (fun t => { t with rem := 1 })) (fun c => 0 < c.tmr.rem ∧ c.tmr.slewed = false) ∧
      Meets (timed (fun t => { t with rem := -1 })) (fun c => c.tmr.rem < 0 ∧ c.fbk.age ≠ 0xFFFFFFFF) ∧
      Meets (timed (fun t => { t with rem := -1, slewed := true })) (fun c => c.tmr.slewed = true) ∧
      Meets (timed (fun t => { t with quiet := 1280000, aligned := true })) (fun c => 1280000 ≤ c.tmr.quiet ∧ c.tmr.aligned = true) ∧
      Meets (timed (fun t => { t with quiet := 1279999 })) (fun c => c.tmr.quiet < 1280000)) ∧
    (MayWrite 0 .machine 0x45130 5 (withCab id) ∧ MayWrite 0 .machine 0x45134 5 (withCab id) ∧ MayWrite 0 .machine 0x4513C 0x100 (withCab id) ∧
      MayWrite 0 .machine 0x45270 (BitVec.setWidth 32 (0x7F : BitVec 7) ||| 0x80) (withCab id)) ∧
    (Meets (timed (fun t => { t with rem := 1, ch := t.ch.set 15 { inflight := some (some 5, 2) } })) (fun c =>
        c.tmr.rem ≠ 0 ∧ (c.tmr.ch[(15 : Fin 16)]).inflight = some (some 5, 0 + 2)) ∧
      Meets (timed (fun t => { t with rem := 1, ch := t.ch.set 15 { inflight := some (none, 1) } })) (fun c =>
        (c.tmr.ch[(15 : Fin 16)]).inflight = some (none, 1)) ∧
      Meets (timed (fun t => { t with tested := 5, ch := t.ch.set 15 { armed := true, cmp := 5 } })) (fun c =>
        (c.tmr.ch[(15 : Fin 16)]).armed = true ∧ (c.tmr.ch[(15 : Fin 16)]).done = false ∧
        (c.tmr.tested - (c.tmr.ch[(15 : Fin 16)]).cmp).toNat < 2 ^ 63) ∧
      Meets (timed (fun t => { t with tested := 4, ch := t.ch.set 15 { armed := true, cmp := 5 } })) (fun c =>
        ¬ (c.tmr.tested - (c.tmr.ch[(15 : Fin 16)]).cmp).toNat < 2 ^ 63)) ∧
    (Meets (timed (fun t => { t with cap := t.cap.set 7 { cfg := 0x6C, queue := [1, 2, 3] } })) (fun c =>
        11 < (c.tmr.cap[(7 : Fin 8)]).cfg.toNat % 2 ^ 5 ∧ (c.tmr.cap[(7 : Fin 8)]).cfg.toNat % 2 ^ 5 ≠ 15 ∧
        (c.tmr.cap[(7 : Fin 8)]).cfg.toNat / 2 ^ 5 % 2 ^ 2 ≠ 0 ∧
        (c.tmr.cap[(7 : Fin 8)]).queue.length < 4 ∧ (c.tmr.cap[(7 : Fin 8)]).queue = 1 :: [2, 3] ∧ (c.tmr.cap[(7 : Fin 8)]).inTick < 3) ∧
      Meets (timed (fun t => { t with count := 9, cap := t.cap.set 7 { cfg := 0x4B, queue := [1, 2, 3, 4], lastEdge := some 7 } })) (fun c =>
        (c.tmr.cap[(7 : Fin 8)]).cfg.toNat % 2 ^ 5 = 11 ∧ (c.tmr.cap[(7 : Fin 8)]).cfg.toNat / 2 ^ 5 % 2 ^ 2 = (if false then 1 else 2) ∧
        2 ≤ (c.tmr.count - 7).toNat ∧ 4 ≤ (c.tmr.cap[(7 : Fin 8)]).queue.length) ∧
      Meets (timed (fun t => { t with count := 8, cap := t.cap.set 7 { cfg := 0x4B, lastEdge := some 7 } })) (fun c =>
        (c.tmr.cap[(7 : Fin 8)]).lastEdge = some 7 ∧ ¬ 2 ≤ (c.tmr.count - 7).toNat) ∧
      Meets (timed (fun t => { t with cap := t.cap.set 7 { queue := [1], inTick := 1 } })) (fun c =>
        (c.tmr.cap[(7 : Fin 8)]).queue.length ≤ (c.tmr.cap[(7 : Fin 8)]).inTick) ∧
      Meets (timed (fun t => { t with rem := 1, cap := t.cap.set 7 { queue := [1, 2, 3, 4], excess := some 5 } })) (fun c =>
        c.tmr.rem ≠ 0 ∧ c.tmr.slewed = false ∧ (c.tmr.cap[(7 : Fin 8)]).excess ≠ none ∧ (c.tmr.cap[(7 : Fin 8)]).excess = some 5 ∧
        (c.tmr.cap[(7 : Fin 8)]).queue = 1 :: [2, 3, 4] ∧ (c.tmr.cap[(7 : Fin 8)]).inTick < 4)) := by
  (repeat' apply And.intro) <;> decide +kernel

/-- A cabinet with other interrupt sources. -/
def sourced (f : Icu → Icu) (c : Cabinet) : Cabinet := { c with icu := f c.icu }

theorem witness_InterruptController :
    (Live 0 (withCab (sourced (fun u => { u with src := u.src.set 127 { en := true, pend := true, prio := 8 } }))) ∧
      (fun u : Icu => claimable u 127 ∧ (u.src[(127 : Fin 128)]).prio ≤ 8 ∧ ∀ m, claimable u m → m = 127)
        ((withCab (sourced (fun u => { u with src := u.src.set 127 { en := true, pend := true, prio := 8 } }))).cab 0).icu) ∧
    (∀ m, ¬ claimable ((withCab id).cab 0).icu m) ∧
    (MayWrite 0 .machine 0x46208 127 (withCab (sourced (fun u => { u with insvc := u.insvc.set 7 (some 127) }))) ∧
      (fun u : Icu => u.insvc[(7 : Fin 8)] = some 127 ∧ ∀ i : Fin 8, i.val < 7 → u.insvc[i] ≠ some 127)
        ((withCab (sourced (fun u => { u with insvc := u.insvc.set 7 (some 127) }))).cab 0).icu) ∧
    (MayWrite 0 .machine 0x46208 127 (withCab id) ∧ ∀ j : Fin 8, (((withCab id).cab 0).icu.insvc[j]) ≠ some 127) ∧
    MayWrite 0 .machine 0x46220 0xFF (withCab id) := by
  unfold claimable MayWrite Live; decide +kernel

theorem witness_IntegrityAndPerformance :
    (MayWrite 0 .machine 0x47020 3 (withCab (framed .running id)) ∧ MayWrite 0 .machine 0x47020 1 (withCab id) ∧
      MayWrite 0 .machine 0x47000 0xFFFF (withCab id) ∧ MayWrite 0 .machine 0x483F8 7 (withCab id) ∧
      MayWrite 0 .machine 0x483FC 7 (withCab id) ∧ MayWrite 0 .machine 0x48088 3 (withCab id) ∧ MayWrite 0 .machine 0x48084 4 (withCab id) ∧
      MayWrite 0 .machine 0x480C4 0x2000 (withCab id)) ∧
    Meets (fun c => { c with par := { c.par with leak := 2, leakCount := 2 } }) (fun c => c.par.leak ≠ 0 ∧ c.par.leak ≤ c.par.leakCount) ∧
    Meets (fun c => { c with prf := { c.prf with smpWait := some [1, 2, 3, 4], widx := 63, smpcnt := 63 } }) (fun c =>
      c.pipe.hold ≠ .wfi ∧ c.perfWait = [] ∧ c.prf.smpWait = some [1, 2, 3, 4] ∧ c.prf.widx < 64 ∧ c.prf.smpcnt = 63 ∧
      c.prf.smpcfg.getLsbD 20 = true) ∧
    Meets (fun c => { c with prf := { c.prf with cnt := c.prf.cnt.set 63 0xFFFFFFFFFFFF } }) (fun c =>
      c.pipe.hold ≠ .wfi ∧ c.perfWait = [] ∧ (c.prf.cnt[(63 : Fin 64)]).toNat = 2 ^ 48 - 1) ∧
    Meets (fun c => { c with prf := { c.prf with dump := some ⟨[1, 2], some 0x1FFFC, 0⟩ } }) (fun c =>
      c.prf.dump = some ⟨[1, 2], some 0x1FFFC, 0⟩ ∧ 0x1FFFC + 4 * 0 < 0x20000 ∧ ¬ 0x1FFFC + 4 * 1 < 0x20000 ∧ c.perfWait = [] ∧
      c.prf.dumpMoved = false) := by
  (repeat' apply And.intro) <;> decide +kernel

/-- A cabinet whose decode table may be written, with one micro-operation in entry 255. -/
def tabled (c : Cabinet) : Cabinet :=
  { c with wen := true, dec := { c.dec with uop := c.dec.uop.set 255 0x2001F2000000, uopSet := [510, 511] } }

theorem witness_SlotsAndBanks :
    (MayWrite 0 .machine 0x4A03C 0x100FF (withCab tabled) ∧ ((withCab tabled).cab 0).wen = true ∧
      (((withCab tabled).cab 0).dec.slot[(15 : Fin 16)]).valid = false ∧
      slotCheck (setSlot ((withCab tabled).cab 0) 15 ⟨255, 0, false, false⟩) ⟨255, 0, false, false⟩ = none) ∧
    slotCheck (setSlot ((withCab tabled).cab 0) 15 ⟨255, 1, false, false⟩) ⟨255, 1, false, false⟩ = some (1, 0) ∧
    slotCheck ((withCab tabled).cab 0) ⟨255, 0, true, false⟩ = none ∧
    (MayWrite 0 .machine 0x4A03C 0xFF (withCab tabled) ∧ MayWrite 0 .machine 0x4A03C 0xFF (withCab id) ∧ ((withCab id).cab 0).wen = false) ∧
    (MayWrite 0 .machine 0x40024 0 (withCab id) ∧ ((withCab id).cab 0).bank.active = false) ∧
    (MayWrite 0 .machine 0x40024 2 (withCab id) ∧ ((withCab id).cab 0).bank.validB = false) ∧
    (MayWrite 0 .machine 0x40024 2 (withCab (fun c => { framed .running id c with bank := { validB := true } })) ∧
      ((withCab (fun c => { framed .running id c with bank := { validB := true } })).cab 0).bank.staging = false) ∧
    (MayWrite 0 .machine 0x40024 2 (withCab (fun c => { c with mode := .loaded, bank := { validB := true } })) ∧
      ((withCab (fun c => { c with mode := .loaded, bank := { validB := true } })).cab 0).frame.inRun = false) ∧
    (MayWrite 0 .machine 0x40024 2 (withCab (fun c => { c with mode := .tripped, bank := { validB := true, atBoundary := true } })) ∧
      ((withCab (fun c => { c with mode := .tripped, bank := { validB := true, atBoundary := true } })).cab 0).bank.atBoundary = true) := by
  (repeat' apply And.intro) <;> decide +kernel

/-- A chip of which cabinet 0 is that of `f` and the sideboard is changed by `g`. -/
def withSide (f : Cabinet → Cabinet) (g : Side → Side) : State := { chip := { withCab f |>.chip with side := g {} } }

theorem witness_CabinetLifecycle :
    (((0x1FFFFF : Word) &&& 0x1FFFFF) ≠ 0 ∧ ¬ (((0xFFE00000 : Word) &&& 0x1FFFFF) ≠ 0 ∨ ((0xFFFF0000 : Word) &&& 0xFFFF) ≠ 0) ∧
      ((0x8000 : Word) &&& 0xFFFF) ≠ 0) ∧
    Meets (fun c => { c with mode := .test }) (fun c => c.mode = .test ∧ c.testParked = false ∧ c.deftest = false ∧ c.cmpr.stat = 0) ∧
    Meets (fun c => { c with mode := .test, testParked := true }) (fun c => c.mode = .test ∧ c.testParked = true) ∧
    Meets (fun c => { c with clockSwitch := some false, freeRun := true }) (fun c => c.hold = false ∧ c.freeRun = true) ∧
    Meets (fun c => { framed .running id c with hold := true }) (fun c => c.hold = true ∧ c.frame.running = true) ∧
    Meets (fun c => { c with hold := true }) (fun c => c.hold = true ∧ c.frame.running = false) ∧
    Meets (fun c => { c with mode := .parked, park := .entering }) (fun c => c.mode = .parked ∧ c.park = .entering ∧ c.deftest = false) ∧
    Meets (fun c => { c with mode := .parked, park := .waking }) (fun c => c.park = .waking) ∧
    Meets (fun c => { c with mode := .parked, park := .restored, latch := true }) (fun c => c.park = .restored ∧ c.latch = true) ∧
    Meets (fun c => { c with mode := .parked, park := .restored, parkLoaded := true }) (fun c =>
      c.park = .restored ∧ c.latch = false ∧ c.err.getLsbD 17 = false ∧ c.parkLoaded = true ∧ c.deftest = false) ∧
    Meets (fun c => { c with mode := .parked, park := .restored }) (fun c =>
      c.park = .restored ∧ c.latch = false ∧ c.err.getLsbD 17 = false ∧ c.parkLoaded = false) ∧
    (Live 0 (withSide id (fun d => { d with sent := d.sent.set 0 [{ state := 3 }] })) ∧
      (fun d : Side => d.sent[(0 : Fin 16)] = { state := 3 } :: [] ∧ d.ledger.commits = [] ∧ d.resetAfter = none ∧ d.safe = none ∧
        (d.copies[(0 : Fin 16)]).state.toNat % 8 ≠ 5 ∧ d.lost[(0 : Fin 16)] = false)
        (withSide id (fun d => { d with sent := d.sent.set 0 [{ state := 3 }] })).chip.side) ∧
    (fun d : Side => d.sent[(0 : Fin 16)] = { state := 3 } :: [] ∧ d.ledger.commits = [] ∧ d.resetAfter = none ∧ d.safe ≠ none ∧
      d.finalDone = false) { safe := some .pwrfail, sent := Vector.replicate 16 [{ state := 3 }] } := by
  (repeat' apply And.intro) <;> decide +kernel

theorem witness_ResetsAndBoot :
    ({} : Side).safe = none ∧ (1000 : Nat) ≤ 1000 ∧ (99 : Nat) < 100 ∧ ({ reset := some .powerOn } : Side).reset ≠ none ∧
    (({} : Side).reset = none ∧ ({} : Side).booted = false ∧ ({} : Side).bootHold = false ∧ ({} : Side).ringA.phase = .out ∧
      ({ node := 0xF9 } : Side).node ≤ 0xF9 ∧ ({} : Side).conflict = false ∧ ({} : Side).resetAfter = none) ∧
    (({ bootHold := true, pwrfailN := false } : Side).pwrfailN = false ∧ ({ bootHold := true, pwrfailN := false } : Side).bootHold = true) ∧
    (({ booted := true } : Side).booted = true ∧ ∃ k : Fin 4, ({ booted := true, icu := { cores := Vector.replicate 4 ⟨true, true⟩ } } : Side).icu.cores[k] = ⟨true, true⟩) := by
  decide +kernel

theorem witness_ChipSafeState :
    (fun d : Side => d.reset = none ∧ d.safe = none ∧ d.bootHold = false ∧ d.booted = true ∧ d.ledger.scan = false)
      { booted := true, ledger := { scan := false } } ∧
    ({} : Side).booted = false ∧ ({ bootHold := true } : Side).bootHold = true ∧
    (100 : Nat) ≤ 100 ∧ (49 : Nat) < 50 ∧ (1 : Fin 8).val ≠ 0 ∧ 520 ≤ (520 : BitVec 12).toInt ∧ (459 : BitVec 12).toInt < 460 ∧
    (460 ≤ (460 : BitVec 12).toInt ∧ (519 : BitVec 12).toInt < 520 ∧ (({} : Side)).temp.toInt < 460) := by
  decide +kernel

theorem test_tap_registers :
    [tapInstr 0x02, tapInstr 0x20, tapInstr 0xFF, tapInstr 0x03] = [.idcode, .imgacc, .bypass, .bypass] ∧
    tapCaptureDr .idcode {} = some (32, 0x1D164A6D) ∧
    tapCaptureDr .imgacc { data := 5, done := true } = some (56, 5 * 2 ^ 22 + 2 ^ 54) := by decide

theorem witness_StewardsHealthAndTestAccess :
    (fun d : Side => d.reset = none ∧ d.icu.stopped = false ∧ (∀ y ∈ d.icu.deliv, y.1 ≠ 5) ∧ d.icu.cores[(3 : Fin 4)] = ⟨true, true⟩ ∧
        (∀ y : Fin 4, d.icu.cores[y] = ⟨true, true⟩ → ¬ before d.icu.last y 3) ∧ d.booted = true)
      { booted := true, icu := { cores := Vector.replicate 4 ⟨true, true⟩, last := 2 } } ∧
    (∀ y : Fin 4, (({ icu := { cores := Vector.replicate 4 ⟨false, false⟩ } } : Side).icu.cores[y]).running = false) ∧
    (∃ y : Fin 4, y ≠ 3 ∧ ({ icu := { cores := Vector.replicate 4 ⟨true, true⟩ } } : Side).icu.cores[y] = ⟨true, true⟩) ∧
    (∀ y : Fin 4, (({ booted := true, icu := { cores := Vector.replicate 4 ⟨true, false⟩ } } : Side).icu.cores[y]).awake = false) ∧
    ({ icu := { cores := Vector.replicate 4 ⟨true, false⟩, stopped := true } } : Side).icu.stopped = true ∧
    ({} : Side).booted = false ∧ ({ tap := { extest := some [(0, 1)] } } : Side).tap.extest = some [(0, 1)] ∧
    (((withCab id).cab 0).ioOk = true ∧ ({} : Side).reset ≠ some .powerOn ∧ ({} : Side).reset ≠ some .resetN ∧ ({} : Side).tap.extest = none) ∧
    ((withCab (fun c => { c with ioOk := false })).cab 0).ioOk = false ∧ ((withCab id).cab 0).forced = true ∧
    ((withCab (fun c => { c with pwm := { c.pwm with rel := true } })).cab 0).forced = false ∧
    [assocGet (15 * 8 + 7) [(127, 0)], assocGet (15 * 8 + 7) [(127, 1)], assocGet (15 * 8 + 7) [(127, 2)]] = [some 0, some 1, some 2] := by
  unfold before; decide +kernel

/-- A packet finds room at an index that the list of entries leaves free, wherever the search starts. -/
def roomy (p : Packet) (ch : Chip) : Bool :=
  let v := ch.side.view
  let order := p.opc == 0x30 || p.opc == 0x31
  let depth := ringDepth p.cab p.ring ch
  let n := if order then 1 + contEntries (orderOf p).1.length else 1
  let l := v.ledger
  !(namesOrderRing p.opc && depth.isNone) && !(order && ringFull p.cab p.ring (depth.getD 0) v) &&
  (!spanTooWide p.session p.seq v && decide (n + v.reserved + ledgerReserve ≤ l.freeCount) &&
    decide (sessionCount p.session v + n ≤ l.quota)) &&
  ((runStarts l.entries l.withdrawn).find? (fun i => runClear i n l.entries l.withdrawn)).isSome

theorem allocate_isSome {n : Nat} {l : Ledger}
    (h : ((runStarts l.entries l.withdrawn).find? (fun i => runClear i n l.entries l.withdrawn)).isSome = true) :
    (allocate n l).isSome = true := by
  dsimp only [allocate]
  split
  · rfl
  · simp only [Option.isSome_or, h, Bool.true_or]

theorem roomCheck_eq_none {p : Packet} {ch : Chip} (h : roomy p ch = true) : roomCheck p ch = none := by
  simp only [roomy, Bool.and_eq_true, Bool.not_eq_true'] at h
  obtain ⟨⟨⟨h1, h2⟩, ⟨h3, h4⟩, h5⟩, h6⟩ := h
  have h7 := allocate_isSome h6
  simp only [roomCheck, hasRoom, h1, h2, h3, h4, h5, h7, Bool.false_eq_true, if_false, Bool.not_false, Bool.and_self, Bool.not_true]

/-! ## Witnesses: the sideboard -/

/-- A sideboard that serves commands, joined to both rings, with session 5 open. -/
def opened (d : Side) : Side :=
  { d with
    booted := true, ledger := { d.ledger with scan := false }, ringA := { phase := .joined, node := 20 },
    ringB := { phase := .joined, node := 21 },
    sessions := [(5, { isOpen := true, ks := some (List.replicate 16 1), nh := [1, 2, 3, 4, 5, 6, 7, 8], e := 7, lrs := 4 })],
    prot := { d.prot with
      plist := 3, perm := d.prot.perm.set 1 0xFFFFF, slots := d.prot.slots.set 1 { key := List.replicate 16 2, prin := 1, full := true } } }

/-- The same with another end of ring A. -/
def ringed (f : RingEnd → RingEnd) : Side := let d := opened {}; { d with ringA := f d.ringA }

/-- A frame of kind 0x08 from node 30 to `dst`. -/
def frameTo (dst : Nat) : JFrame := { dst := dst, src := 30, kind := 8 }

/-- Lengths at their bounds, and a ring in each condition. -/
theorem witness_RingFrames :
    (fun d : Side => (d.ring .a).phase = .joined ∧ (17 : Nat) ≤ 1080 ∧ (16 : Nat) < 17 ∧ (1080 : Nat) < 1081 ∧ (16 : Nat) ≤ 16 ∧ (15 : Nat) < 16 ∧
      (List.replicate 15 (0 : Byte)).length < 16 ∧ 16 ≤ (List.replicate 1048 (0 : Byte)).length ∧
      (List.replicate 1048 (0 : Byte)).length ≤ 1048 ∧ d.booted = true ∧ d.ledger.scan = false ∧ d.safe = none ∧ d.reset = none) (opened {}) ∧
    (passes .a (opened {}) ∧ ((opened {}).ring .a).phase ≠ .listening ∧ (frameTo 9).bad = false ∧
      ((frameTo 9).dst == 20 || (frameTo 9).dst == 0xFD) = false ∧ ((frameTo 9).src == 20 && !(frameTo 9).wrap) = false ∧
      (({ dst := 0xFF, src := 20, kind := 8 } : JFrame).src == 20 && !({ dst := 0xFF, src := 20, kind := 8 } : JFrame).wrap) = true ∧
      ((frameTo 20).dst == 20 || (frameTo 20).dst == 0xFD) = true ∧ (opened {}).resetAfter = none) ∧
    (0 < ((ringed (fun e => { e with window := 1 })).ring .a).window ∧ ((opened {}).ring .a).window = 0 ∧ (opened {}).ringB.window = 0) ∧
    (passes .a (ringed (fun e => { e with hopq := [frameTo 9] })) ∧ ((ringed (fun e => { e with hopq := [frameTo 9] })).ring .a).hopq = frameTo 9 :: [] ∧ (frameTo 9).kind ≠ 0x09 ∧ (frameTo 9).kind ≠ 0x0A) ∧
    (∀ x ∈ [0x09, 0x0A], ((ringed (fun e => { e with hopq := [{ frameTo 0xFD with kind := x }] })).ring .a).hopq = { frameTo 0xFD with kind := x } :: []) ∧
    (passes .a (ringed (fun e => { e with joinq := [frameTo 9] })) ∧ ((ringed (fun e => { e with joinq := [frameTo 9] })).ring .a).hopq = [] ∧
      ((ringed (fun e => { e with joinq := [frameTo 9] })).ring .a).joinq = frameTo 9 :: []) ∧
    (passes .a (ringed (fun e => { e with replyq := [frameTo 9] })) ∧ ((ringed (fun e => { e with replyq := [frameTo 9] })).ring .a).joinq = [] ∧
      ((ringed (fun e => { e with replyq := [frameTo 9] })).ring .a).phase = .joined ∧
      ((ringed (fun e => { e with replyq := [frameTo 9] })).ring .a).replyq = frameTo 9 :: []) ∧
    (passes .a (ringed (fun e => { e with noticeq := [frameTo 9] })) ∧ ((ringed (fun e => { e with noticeq := [frameTo 9] })).ring .a).replyq = [] ∧
      ((ringed (fun e => { e with noticeq := [frameTo 9] })).ring .a).noticeq = frameTo 9 :: []) ∧
    (fun e : RingEnd => e.phase ≠ .out ∧ e.inFault = false ∧ e.outFault = false ∧ e.notOk = 0) ((opened {}).ring .a) ∧
    (fun e : RingEnd => e.inFault = true ∧ e.wrapped = false ∧ e.inRing = true) ((ringed (fun e => { e with inFault := true })).ring .a) ∧
    (fun d : Side => (d.ring .a).wrapped = true ∧ (d.ring .a).inFault = false ∧ (d.ring .a).outFault = false ∧ (d.ring .a).lastRxOk = true ∧
      64000000 ≤ (d.ring .a).steady ∧ 0 < d.ringA.window) (ringed (fun e => { e with wrapped := true, lastRxOk := true, steady := 64000000, window := 1 })) ∧
    (fun d : Side => (d.ring .a).wrapped = true ∧ (d.ring .a).steady < 64000000)
      (ringed (fun e => { e with wrapped := true, lastRxOk := true, steady := 63999999, window := 1 })) ∧
    (fun d : Side => (d.ring .a).wrapped = true ∧ (d.ring .b).wrapped = false ∧ (d.ring .b).phase = .joined ∧
      (({ dst := 0xFF, src := 20, kind := 8, wrap := true } : JFrame).src = (d.ring .a).node) ∧ (frameTo 0xFF).src ≠ (d.ring .a).node ∧
      ((frameTo 0xFF).dst == (d.ring .b).node || (frameTo 0xFF).dst == 0xFD) = false ∧ ((frameTo 0xFF).src == (d.ring .b).node) = false)
      (ringed (fun e => { e with wrapped := true })) := by
  (repeat' apply And.intro) <;> decide +kernel

/-- A LEAVE of the device itself, of reason `m`. -/
def leaveFrame (m : Nat) : JFrame := { dst := 0xFF, src := 20, kind := 0x11, payload := [BitVec.ofNat 8 m] }

/-- A ring that switches in its window, and one whose window is too far spent (15 R488). -/
def switching (f : RingEnd → RingEnd) : Side := ringed (fun e => f { e with window := 14080 })

/-- The fourth announcement, the second SYNC heard, an offset of 16 ticks and one above it (15 R488, R491). -/
theorem witness_RingTimeAndJoining :
    (passes .a (opened {}) ∧ ((opened {}).ring .a).phase = .joined ∧ (21 : Fin 256).val ≠ ((opened {}).ring .a).node ∧
      (RingId.a = .a ∧ 576000 ≤ ({} : Side).usedAge) ∧ ¬ (576000 ≤ ({ usedAge := 575999 } : Side).usedAge) ∧
      (fun d : Side => 16 * 65536 + 0 + (d.ring .a).delay - d.fineTime ≤ 16 * 65536 ∧
        16 * 65536 < 16 * 65536 + 1 + (d.ring .a).delay - d.fineTime ∧ d.fineTime ≤ 16 * 65536 + 0 + (d.ring .a).delay) (opened {})) ∧
    (passes .b (opened {}) ∧ ((opened {}).ring .b).phase = .joined ∧ (20 : Fin 256).val ≠ ((opened {}).ring .b).node ∧
      960000 ≤ (opened {}).ringA.syncAge ∧ ¬ 960000 ≤ (ringed (fun e => { e with syncAge := 959999 })).ringA.syncAge) ∧
    (fun d : Side => (d.ring .a).phase = .listening ∧ (d.ring .b).phase ≠ .joined ∧ (3 : Fin 256).val ≠ (d.ring .a).node ∧
      (d.ring .a).rest = 0 ∧ 576000 ≤ (d.ring .a).syncAge ∧ (d.ring .a).syncAge ≤ 704000 ∧ (d.ring .a).heardSync ≠ 0)
      { ringA := { phase := .listening, heardSync := 1, syncAge := 704000 } } ∧
    (passes .a (ringed (fun e => { e with phase := .inserted })) ∧ ((ringed (fun e => { e with phase := .inserted })).ring .a).phase = .inserted) ∧
    (fun d : Side => (d.ring .b).inRing = true ∧ (d.ring .a).wrapped = false ∧ d.joinedAny = true ∧ d.reset = none) (opened {}) ∧
    ((ringed (fun e => { e with asked := some 5 })).ring .a).asked = some (5 : BitVec 64).toNat ∧
    ((opened {}).ring .a).asked ≠ some (5 : BitVec 64).toNat ∧
    (({} : Side).joinedAny = false ∧ ({} : Side).reset = none ∧ ((withCab id).cab 0).clocksRun = true ∧ ((withCab id).cab 0).hold = false ∧
      ((withCab id).cab 0).freeRun = false) ∧
    (fun e : RingEnd => e.phase = .listening ∧ 2 ≤ e.heardSync ∧ 2560000 ≤ e.unheard ∧ 0 < e.window ∧ e.window ≤ 14080)
      ((switching (fun e => { e with phase := .listening, heardSync := 2, unheard := 2560000 })).ring .a) ∧
    (fun e : RingEnd => e.phase = .listening ∧ e.unheard < 2560000)
      ((switching (fun e => { e with phase := .listening, heardSync := 2, unheard := 2559999 })).ring .a) ∧
    ¬ (ringed (fun e => { e with window := 14081 })).ringA.window ≤ 14080 ∧
    (fun e : RingEnd => e.phase = .inserted ∧ 1 ≤ e.heardSync ∧ e.window = 0) ((ringed (fun e => { e with phase := .inserted, heardSync := 1 })).ring .a) ∧
    (fun e : RingEnd => e.phase = .inserted ∧ 0 < e.window) ((switching (fun e => { e with phase := .inserted, heardSync := 1 })).ring .a) ∧
    (fun e : RingEnd => e.phase = .announced 2 ∧ e.leaving = none ∧ 2 < 3 ∧ (20 : Fin 256).val = e.node)
      ((ringed (fun e => { e with phase := .announced 2 })).ring .a) ∧
    (fun e : RingEnd => e.phase = .announced 3 ∧ e.leaving = none ∧ 3 ≤ 3) ((ringed (fun e => { e with phase := .announced 3 })).ring .a) ∧
    (passes .a (opened {}) ∧ (21 : Fin 256).val ≠ ((opened {}).ring .a).node ∧ ((opened {}).ring .a).phase ≠ .listening) ∧
    (((opened {}).ring .a).inRing = true ∧ (20 : Fin 256).val = ((opened {}).ring .a).node ∧ ((opened {}).ring .a).leaving = none ∧
      ∃ x, x ≠ Config.identity) ∧
    ((ringed (fun e => { e with leaving := some 3 })).ring .a).leaving ≠ none ∧
    (fun d : Side => passes .a d ∧ (d.ring .a).leaving = some 3 ∧ d.resetAfter = none ∧ (d.ring .a).joinq = leaveFrame 3 :: [] ∧
      (d.ring .a).hopq = [] ∧ (d.ring .a).window = 0) (ringed (fun e => { e with leaving := some 3, joinq := [leaveFrame 3] })) ∧
    (fun d : Side => (d.ring .a).inRing = true ∧ (d.ring .a).leaving = some 4 ∧ d.resetAfter = none ∧ (∀ g ∈ (d.ring .a).joinq, g.kind ≠ 0x11) ∧
      (0 < (d.ring .a).window ∧ (d.ring .a).window ≤ 14080) ∧ d.booted = true ∧ d.node ≤ 0xF9 ∧ d.conflict = false ∧ d.safe = none)
      { switching (fun e => { e with leaving := some 4 }) with node := 20 } := by
  (repeat' apply And.intro) <;> first | decide +kernel | exact ⟨Config.identity + 1, by simp⟩

/-- Packets of 16 and of 1048 bytes. -/
theorem witness_BenchTransactions :
    (fun d : Side => d.reset = none ∧ d.bench.replies = [] ∧ d.bench.busy = false ∧ d.booted = true ∧ d.safe = none ∧ d.ledger.scan = false ∧
      d.resetAfter = none ∧ d.resetBench = false) (opened {}) ∧
    (fun d : Side => d.booted = true ∧ d.bench.busy = false ∧ d.ledger.scan = true ∧ d.safe = none) { booted := true } ∧
    (({} : Side).booted = false) ∧
    (fun bs : List Byte => bs.length ≠ natOfBytes (bs.take 2) + 6) [16, 0] ∧
    (fun bs : List Byte => 16 ≤ natOfBytes (bs.take 2) ∧ natOfBytes (bs.take 2) ≤ 1048 ∧ bs.length = natOfBytes (bs.take 2) + 6 ∧
      crc32 ((bs.drop 2).take (natOfBytes (bs.take 2))) ≠ natOfBytes (bs.drop (2 + natOfBytes (bs.take 2)))) ([16, 0] ++ List.replicate 20 0) ∧
    (16 ≤ (List.replicate 16 (0 : Byte)).length ∧ (List.replicate 1048 (0 : Byte)).length ≤ 1048) ∧
    (fun d : Side => d.bench.replies = [7] :: [] ∧ [(7 : Byte)].length + 6 ≤ 7 ∧ 6 < [(7 : Byte)].length + 6 ∧ d.resetAfter = none ∧
      d.resetBench = false) { bench := { replies := [[7]] } } := by
  (repeat' apply And.intro) <;> decide +kernel

/-- A packet of session 5 at its expected sequence, on the bench port. -/
def sends (opc cab ring : Nat) (payload : List Byte) : Packet :=
  { port := .bench, opc := opc, session := 5, seq := 7, cab := cab, ring := ring, payload := payload }

/-- A chip that serves commands, with cabinet 3 and the sideboard changed. -/
def station (f : Cabinet → Cabinet) (g : Side → Side) : State :=
  { chip := { ({} : Chip).setCab 3 (f { id := 3, ordRings := [(4, 16)] }) with side := g (opened {}) } }

/-- The packet is due there, and `P` holds of cabinet 3 and the sideboard. -/
def IsDue (p : Packet) (f : Cabinet → Cabinet) (g : Side → Side) (P : Cabinet → Side → Prop) : Prop :=
  Due p.opc p (station f g) ∧ P ((station f g).cab 3) (station f g).chip.side

/-- The same of a packet that is unsequenced and has arrived. -/
def HasArrived (p : Packet) (f : Cabinet → Cabinet) (g : Side → Side) (P : Cabinet → Side → Prop) : Prop :=
  Arrives p.opc p (station f g) ∧ P ((station f g).cab 3) (station f g).chip.side

/-- Session 5 with another context. -/
def contexted (f : Session → Session) (d : Side) : Side := d.onSession 5 f

/-- Sequences 63, 64 and 2^31 − 1 ahead of the expected one, and 2^31 ahead. -/
theorem witness_PacketChecks :
    (sends 0x13 3 0 []).port = .bench ∧ ({ sends 0x13 3 0 [] with port := .ring .a 9 } : Packet).port = .ring .a 9 ∧
    (opKind 0x13 = .j ∧ (9 : Nat) ≠ 6 ∧ ([] : List Byte).length < 65536) ∧
    HasArrived { sends 0x13 3 0 [] with seq := 7 + 0x80000000 } id id (fun _ d =>
      (d.session 5).isOpen = true ∧ 2 ^ 31 ≤ ((7 + 0x80000000 : Word) - (d.session 5).e).toNat) ∧
    HasArrived { sends 0x13 3 0 [] with seq := 71 } id id (fun _ d =>
      (d.session 5).isOpen = true ∧ 64 ≤ ((71 : Word) - (d.session 5).e).toNat ∧ ((71 : Word) - (d.session 5).e).toNat < 2 ^ 31) ∧
    HasArrived { sends 0x13 3 0 [] with seq := 70 } id (contexted (fun x => { x with busy := true })) (fun _ d =>
      (d.session 5).isOpen = true ∧ 1 ≤ ((70 : Word) - (d.session 5).e).toNat ∧ ((70 : Word) - (d.session 5).e).toNat ≤ 63 ∧
      (d.session 5).busy = true) ∧
    HasArrived (sends 0x13 3 0 []) id (contexted (fun x => { x with busy := true })) (fun _ d =>
      (d.session 5).isOpen = true ∧ ((7 : Word) - (d.session 5).e).toNat = 0 ∧ (d.session 5).busy = true) ∧
    (InSequence 0x13 (sends 0x13 3 0 []) (station id (contexted (fun x => { x with prin := 2 }))) ∧
      permitted (sends 0x13 3 0 []) (inProcess (sends 0x13 3 0 []) (station id (contexted (fun x => { x with prin := 2 }))).chip.side) = false) ∧
    (InSequence 0x13 (sends 0x13 3 0 []) (station id (fun d => { d with ledger := { d.ledger with quota := 0 } })) ∧
      roomCheck (sends 0x13 3 0 []) { (station id (fun d => { d with ledger := { d.ledger with quota := 0 } })).chip with
        side := inProcess (sends 0x13 3 0 []) (station id (fun d => { d with ledger := { d.ledger with quota := 0 } })).chip.side } = some 6) ∧
    (fun d : Side => d.serving = true ∧ portOpen .bench d = true ∧ authOk { sends 0x13 3 0 [] with session := 6 } d = false) (opened {}) ∧
    ({} : Side).serving = false := by
  (repeat' apply And.intro) <;> decide +kernel

/-- An entry of session 5 on ring 4 of cabinet 3 with sequence `n`. -/
def entryAt (n : Nat) (st : LState) : Entry :=
  { opc := 0x30, ring := 4, cab := 3, session := 5, seql := n, state := st, mask := 0x0C, order := List.replicate 8 0, gen := 2 }

/-- A sideboard with one ledger entry, at index 10, of session 5 whose sequence 5 is the oldest open one. -/
def entered (st : LState) (d : Side) : Side := { d with ledger := { d.ledger with entries := [(10, entryAt 5 st)] } }

/-- The numbers `x` of `n` bytes each, as a payload. -/
def le (n : Nat) (x : Nat) : List Byte := bytesOf n x

theorem witness_SessionsAndQueries :
    HasArrived (sends 0 0xFF 0 []) id id (fun _ _ => True) ∧
    (fun (p : Packet) (d : Side) => p.unauth = true ∧ p.session = 0 ∧ p.seq = 0 ∧ d.serving = true ∧ portOpen p.port d = true ∧
      headerOk p = true ∧ p.payload = [] ∧ (d.session p.session).window = [] ∧ (d.session p.session).again = [])
      { port := .bench, cab := 0xFF, unauth := true } (opened {}) ∧
    HasArrived (sends 1 0xFF 0 ([0, 0] ++ List.replicate 8 9)) id id (fun _ d => (d.session 5).nh ≠ List.replicate 8 9) ∧
    HasArrived { sends 1 0xFF 0 ([0, 0] ++ List.replicate 8 9) with session := 6 } id id (fun _ d => (d.session 6).isOpen = false) ∧
    HasArrived (sends 1 0xFF 0 ([0, 0] ++ [1, 2, 3, 4, 5, 6, 7, 8])) id id (fun _ d =>
      (d.session 5).isOpen = true ∧ (d.session 5).nh = [1, 2, 3, 4, 5, 6, 7, 8]) ∧
    (InSequence 2 (sends 2 0xFF 0 []) (station id (entered .retired)) ∧
      ∀ y ∈ sessionEntries 5 (inProcess (sends 2 0xFF 0 []) (station id (entered .retired)).chip.side).view, y.2.state = .retired) ∧
    (InSequence 2 (sends 2 0xFF 0 []) (station id (entered .executed)) ∧
      ∃ y ∈ sessionEntries 5 (inProcess (sends 2 0xFF 0 []) (station id (entered .executed)).chip.side).view, y.2.state ≠ .retired) ∧
    HasArrived (sends 3 0xFF 0 (le 4 5)) id (entered .accepted) (fun _ d =>
      (ackWrites 5 5 (taken (sends 3 0xFF 0 (le 4 5)) d).view).1 = []) ∧
    HasArrived (sends 3 0xFF 0 (le 4 5)) id (entered .executed) (fun _ d =>
      (ackWrites 5 5 (taken (sends 3 0xFF 0 (le 4 5)) d).view).1 ≠ []) ∧
    (fun d : Side => d.ledger.entries = [(10, entryAt 5 .cancelled)] ∧ (entryAt 5 .cancelled).session = 5 ∧
      (entryAt 5 .cancelled).seql = ((d.session 5).lrs + 1).toNat % 2 ^ 24 ∧ (d.session 5).e = (d.session 5).lrs + 2 ∧
      (5 : Word) = (d.session 5).lrs + 1) (contexted (fun x => { x with e := 6 }) (entered .cancelled (opened {}))) ∧
    HasArrived (sends 4 0xFF 0 []) id id (fun _ _ => True) ∧
    HasArrived (sends 0x1C 3 0 []) id id (fun _ d => permitted (sends 0x1C 3 0 []) (taken (sends 0x1C 3 0 []) d) = true) ∧
    HasArrived (sends 0x35 3 127 (le 4 3 ++ [64])) id id (fun _ d =>
      permitted (sends 0x35 3 127 (le 4 3 ++ [64])) (taken (sends 0x35 3 127 (le 4 3 ++ [64])) d) = true) ∧
    (fun (x : RepRing) => x.reports = [⟨2, 1, 0, []⟩] ++ [⟨3, 1, 0, []⟩] ∧ 0 < ((3 : Word) - 2).toNat ∧ ((3 : Word) - 2).toNat < 2 ^ 31 ∧
      ¬ (0 < ((3 : Word) - 3).toNat ∧ ((3 : Word) - 3).toNat < 2 ^ 31))
      { depth := 2, hold := false, dest := 9, session := 5, reports := [⟨2, 1, 0, []⟩, ⟨3, 1, 0, []⟩] } ∧
    HasArrived (sends 0x50 3 0 (le 4 0x4AFFC ++ le 2 1)) id id (fun c d =>
      permitted (sends 0x50 3 0 (le 4 0x4AFFC ++ le 2 1)) (taken (sends 0x50 3 0 (le 4 0x4AFFC ++ le 2 1)) d) = true ∧ c.mode ≠ .parked) ∧
    HasArrived (sends 0x50 3 0 (le 4 0x4AFFC ++ le 2 2)) (fun c => { c with mode := .parked }) id (fun c _ =>
      c.mode = .parked ∧ 0x4B000 < 0x4AFFC + 4 * 2) ∧
    HasArrived (sends 0x50 3 0 (le 4 0x4AFFC ++ le 2 2)) id id (fun c _ => c.mode ≠ .parked) ∧
    HasArrived (sends 0x71 0xFF 0 [31, 1]) id id (fun _ d => permitted (sends 0x71 0xFF 0 [31, 1]) (taken (sends 0x71 0xFF 0 [31, 1]) d) = true) ∧
    HasArrived (sends 0x72 0xFF 0 (le 2 5 ++ [3, 0xFF, 0xFF, 0xFF, 0, 0] ++ le 4 1)) id id (fun _ d =>
      permitted (sends 0x72 0xFF 0 (le 2 5 ++ [3, 0xFF, 0xFF, 0xFF, 0, 0] ++ le 4 1)) d = true) := by
  (repeat' apply And.intro) <;> first | decide +kernel | (apply roomCheck_eq_none; decide +kernel) | (unfold masked; decide +kernel) | (unfold Function; decide +kernel)

/-- Cabinet 3 in a state of CAB_STATE, its frame running in the states in which it does. -/
def inMode (m : CabMode) (c : Cabinet) : Cabinet :=
  { c with mode := m, frame := { c.frame with running := m == .armed || m == .running || m == .tripped } }

theorem witness_LifecycleCommands :
    (IsDue (sends 0x13 3 0 []) (fun c => { inMode .loaded c with cnv := { c.cnv with calDone := true } }) id (fun c _ =>
        c.mode = .loaded ∧ windowHi c + c.frame.deadline + 48 ≤ c.frame.flen ∧ c.frame.dual = false ∧ c.cnv.calDone = true) ∧
      IsDue (sends 0x13 3 0 []) (inMode .loaded) id (fun c _ =>
        c.mode = .loaded ∧ windowHi c + c.frame.deadline + 48 ≤ c.frame.flen ∧ c.frame.dual = false ∧ c.cnv.calDone = false) ∧
      IsDue (sends 0x13 3 0 []) (fun c => let c := inMode .loaded c; { c with frame := { c.frame with deadline := 3200 } }) id (fun c _ =>
        c.mode = .loaded ∧ ¬ (windowHi c + c.frame.deadline + 48 ≤ c.frame.flen) ∧ c.frame.dual = false) ∧
      IsDue (sends 0x13 3 0 []) (fun c => let c := inMode .loaded c
          { c with pwm := { c.pwm with triangle := true }, frame := { c.frame with flen := 2001, deadline := 1921 } }) id (fun c _ =>
        windowHi c + c.frame.deadline + 48 = c.frame.flen ∧ ¬ (windowHi c + c.frame.deadline + 48 ≤ c.frame.flen / 2 * 2)) ∧
      IsDue (sends 0x13 3 0 []) (inMode .running) id (fun c _ => c.mode = .running) ∧
      IsDue (sends 0x13 3 0 []) id id (fun c _ => c.mode ≠ .loaded ∧ c.mode ≠ .running)) ∧
    (IsDue (sends 0x14 3 0 []) (inMode .armed) id (fun c _ => c.mode = .armed) ∧ IsDue (sends 0x14 3 0 []) id id (fun c _ => c.mode ≠ .armed)) ∧
    (IsDue (sends 0x15 3 0 []) (inMode .running) id (fun c _ => c.mode = .running) ∧
      IsDue (sends 0x15 3 0 []) (inMode .loaded) id (fun c _ => c.mode = .loaded) ∧ IsDue (sends 0x15 3 0 []) id id (fun c _ => c.mode = .empty)) ∧
    (IsDue (sends 0x16 3 0 []) (fun c => { c with mode := .parked, park := .stopped }) id (fun c _ =>
        c.mode = .parked ∧ c.wakeTicket = none ∧ c.park = .stopped) ∧
      IsDue (sends 0x16 3 0 []) (fun c => { c with mode := .parked, park := .entering }) id (fun c _ =>
        c.mode = .parked ∧ c.wakeTicket = none ∧ c.park = .entering) ∧
      IsDue (sends 0x16 3 0 []) id id (fun c _ => c.mode ≠ .parked)) ∧
    IsDue (sends 0x17 3 0 []) id id (fun _ _ => True) ∧
    (IsDue (sends 0x1A 3 0 []) (inMode .tripped) id (fun c _ =>
        c.mode = .tripped ∧ c.err.getLsbD 16 = false ∧ tripAct c = 0 ∧ c.deftest = false) ∧
      IsDue (sends 0x1A 3 0 []) (fun c => { inMode .tripped c with deftest := true }) id (fun c _ =>
        c.mode = .tripped ∧ c.err.getLsbD 16 = false ∧ tripAct c = 0 ∧ c.deftest = true) ∧
      IsDue (sends 0x1A 3 0 []) (fun c => { inMode .tripped c with chipSafe := true }) id (fun c _ => c.mode = .tripped ∧ tripAct c ≠ 0) ∧
      IsDue (sends 0x1A 3 0 []) id id (fun c _ => c.mode ≠ .tripped)) ∧
    (IsDue (sends 0x1B 3 0 []) (inMode .loaded) id (fun c _ => c.mode = .loaded) ∧
      IsDue (sends 0x1B 3 0 []) (fun c => { c with mode := .parked, park := .stopped }) id (fun c _ =>
        c.mode = .parked ∧ c.park = .stopped ∧ c.frame.running = false) ∧
      IsDue (sends 0x1B 3 0 []) (fun c => { c with mode := .parked, park := .entering }) id (fun c _ =>
        c.mode = .parked ∧ c.park = .entering ∧ c.testTicket = none) ∧
      IsDue (sends 0x1B 3 0 []) (inMode .tripped) id (fun c _ => c.mode = .tripped) ∧ IsDue (sends 0x1B 3 0 []) id id (fun c _ => c.mode = .empty)) ∧
    (IsDue (sends 0x19 3 0 []) (fun c => { inMode .running c with bank := { req := true } }) id (fun c _ => c.bank.req ≠ c.bank.active) ∧
      IsDue (sends 0x19 3 0 []) (inMode .running) id (fun c _ =>
        c.bank.req = c.bank.active ∧ (if c.bank.active then c.bank.validA else c.bank.validB) = false) ∧
      IsDue (sends 0x19 3 0 []) (fun c => { inMode .running c with bank := { validB := true } }) id (fun c _ =>
        c.bank.req = c.bank.active ∧ (if c.bank.active then c.bank.validA else c.bank.validB) = true ∧ c.mode ≠ .parked ∧
        c.frame.running = true) ∧
      IsDue (sends 0x19 3 0 []) (fun c => { inMode .loaded c with bank := { validB := true } }) id (fun c _ =>
        c.mode ≠ .parked ∧ c.frame.running = false ∧ c.clocksRun = true ∧ c.frame.inRun = false ∧ c.bank.staging = false ∧
        c.bank.atBoundary = false) ∧
      IsDue (sends 0x19 3 0 []) (fun c => { c with mode := .test, testParked := true, park := .stopped, bank := { validB := true } }) id (fun c _ =>
        c.mode = .test ∧ c.clocksRun = false ∧ (if c.bank.active then c.bank.validA else c.bank.validB) = true) ∧
      IsDue (sends 0x19 3 0 []) (fun c => { c with mode := .tripped, bank := { validB := true, atBoundary := true } }) id (fun c _ =>
        c.bank.atBoundary = true ∧ c.frame.running = false) ∧
      IsDue (sends 0x19 3 0 []) (fun c => { c with mode := .parked, park := .stopped, bank := { validB := true } }) id (fun c _ =>
        c.mode = .parked ∧ c.bank.req = c.bank.active ∧ (if c.bank.active then c.bank.validA else c.bank.validB) = true)) ∧
    (IsDue (sends 0x70 3 0 (le 2 1 ++ le 4 0xFFC ++ le 4 7)) (fun c => { c with mode := .parked, park := .stopped }) id (fun c _ => c.mode = .parked) ∧
      IsDue (sends 0x51 3 0 (le 4 0x40010 ++ le 4 0xC80)) (fun c => { c with mode := .parked, park := .stopped }) id (fun c _ =>
        c.mode = .parked ∧ (sends 0x51 3 0 (le 4 0x40010 ++ le 4 0xC80)).cab ≤ 15)) := by
  (repeat' apply And.intro) <;> first | decide +kernel | (apply roomCheck_eq_none; decide +kernel) | (unfold masked; decide +kernel) | (unfold Function; decide +kernel)

/-- Register writes at the ends of their ranges. -/
theorem witness_LifecycleCommands_registers :
    (IsDue (sends 0x70 3 0 (le 2 1 ++ le 4 0xFFC ++ le 4 7)) (inMode .running) id (fun c _ =>
        c.mode ≠ .parked ∧ 0xFFC % 4 = 0 ∧ 0xFFC < 0x1000 ∧ c.frame.running = true) ∧
      IsDue (sends 0x70 3 0 (le 2 1 ++ le 4 0xFFC ++ le 4 7)) id id (fun c _ => c.frame.running = false ∧ c.perfWait = []) ∧
      IsDue (sends 0x70 3 0 (le 2 1 ++ le 4 0x1000 ++ le 4 7)) id id (fun c _ => c.mode ≠ .parked ∧ 0x1000 ≤ 0x1000)) ∧
    (IsDue (sends 0x51 3 0 (le 4 0x40010 ++ le 4 0xC80)) id id (fun c _ =>
        c.mode ≠ .parked ∧ 0x40010 % 4 = 0 ∧ 0x40000 ≤ 0x40010 ∧ 0x40010 + 4 * 1 ≤ 0x4B000 ∧ ∀ j, j < 1 → regTouchesP2 (0x40010 + 4 * j) 0xC80 c = false) ∧
      IsDue (sends 0x51 3 0 (le 4 0x42100 ++ le 4 5)) id id (fun c _ => ∃ j, j < 1 ∧ regTouchesP2 (0x42100 + 4 * j) 5 c = true) ∧
      IsDue (sends 0x51 3 0 (le 4 0x4B000 ++ le 4 5)) id id (fun c _ => c.mode ≠ .parked ∧ 0x4B000 < 0x4B000 + 4 * 1) ∧
      IsDue (sends 0x51 0xFF 0 (le 4 0x2FFC ++ le 4 5)) id id (fun _ _ => 0x2FFC % 4 = 0 ∧ 0x2FFC + 4 * 1 ≤ 0x3000) ∧
      ∀ j, j < 1 → sideTouchesP2 (0x2FFC + 4 * j) 5 { (station id id).chip with
        side := inProcess (sends 0x51 0xFF 0 (le 4 0x2FFC ++ le 4 5)) (station id id).chip.side } = false) := by
  (repeat' apply And.intro) <;> first | decide +kernel | (apply roomCheck_eq_none; decide +kernel) | (unfold masked; decide +kernel) | (unfold Function; decide +kernel)

/-- An image of bank A of two syllables. -/
def smallImage : List Byte := imageBytes false 0 2 0 [1, 0, 2, 0]

/-- An image of bank A and a decode table whose slot 15 is marked valid and holds no LAST (07 R243). -/
def badSlotImage : List Byte :=
  bytesOf 4 0x42434C44 ++ [1, 0, 2, 0] ++ bytesOf 4 0 ++ bytesOf 4 0 ++ [2, 0, 0, 0] ++ bytesOf 4 0 ++ bytesOf 4 4 ++ [1, 0, 2, 0] ++
    [6, 0, 0, 0] ++ bytesOf 4 0 ++ bytesOf 4 2112 ++ List.replicate 2108 0 ++ [0, 0, 1, 0]

/-- A cabinet with an image load in progress. -/
def loads (l : Load) (c : Cabinet) : Cabinet := { c with load := some l }

theorem witness_ImageLoads :
    (IsDue (sends 0x10 3 0 (le 4 36 ++ le 4 0 ++ [0])) (inMode .running) id (fun c _ => ¬ (c.mode = .empty ∨ c.mode = .loaded)) ∧
      IsDue (sends 0x10 3 0 (le 4 36 ++ le 4 0 ++ [3])) id id (fun c _ => c.mode = .empty ∧ 2 < 3) ∧
      IsDue (sends 0x10 3 0 (le 4 36 ++ le 4 0 ++ [2])) (loads ⟨0, 36, 0, []⟩) id (fun c _ => c.load ≠ none) ∧
      IsDue (sends 0x10 3 0 (le 4 36 ++ le 4 0 ++ [0])) (inMode .loaded) id (fun c _ => c.mode = .loaded ∧ c.load = none) ∧
      IsDue (sends 0x10 3 0 (le 4 36 ++ le 4 0 ++ [2])) id (fun d => { d with store := { d.store with verified := d.store.verified.set 3 (some 36) } })
        (fun c d => c.load = none ∧ d.store.verified[Fin.ofNat 4 3] = some 36 ∧ d.store.stage = none) ∧
      IsDue (sends 0x10 3 0 (le 4 36 ++ le 4 0 ++ [1])) id id (fun c d => c.load = none ∧ d.store.verified[Fin.ofNat 4 2] = none)) ∧
    (IsDue (sends 0x11 3 0 (le 4 0 ++ [1])) id id (fun c _ => c.load = none) ∧
      IsDue (sends 0x11 3 0 (le 4 0 ++ [1])) (loads ⟨1, 36, 0, []⟩) id (fun c _ => c.load = some ⟨1, 36, 0, []⟩) ∧
      IsDue (sends 0x11 3 0 (le 4 1 ++ [1])) (loads ⟨0, 36, 0, []⟩) id (fun c _ => c.load = some ⟨0, 36, 0, []⟩ ∧ 1 ≠ ([] : List Byte).length) ∧
      IsDue (sends 0x11 3 0 (le 4 0 ++ [1])) (loads ⟨0, 36, 0, []⟩) id (fun c _ => c.load = some ⟨0, 36, 0, []⟩)) ∧
    (IsDue (sends 0x12 3 0 []) id id (fun c _ => c.load = none) ∧
      IsDue (sends 0x12 3 0 []) (loads ⟨0, 36, 0, [1]⟩) id (fun c _ => c.load = some ⟨0, 36, 0, [1]⟩ ∧ [(1 : Byte)].length ≠ 36 ∧ parseImage [1] = none) ∧
      IsDue (sends 0x12 3 0 []) (loads ⟨0, 32, 0, smallImage⟩) id (fun c _ =>
        c.load = some ⟨0, 32, 0, smallImage⟩ ∧ smallImage.length = 32 ∧ parseImage smallImage = some ⟨0, false, [⟨2, 0, [1, 0, 2, 0]⟩]⟩ ∧
        crc32 smallImage ≠ 0) ∧
      IsDue (sends 0x12 3 0 []) (loads ⟨1, 32, 0, smallImage⟩) id (fun c _ =>
        c.load = some ⟨1, 32, 0, smallImage⟩ ∧ (loadSections [⟨2, 0, [1, 0, 2, 0]⟩] { c with load := none }).2 = none) ∧
      IsDue (sends 0x12 3 0 []) (loads ⟨1, 0, 0, badSlotImage⟩) id (fun c _ =>
        c.load = some ⟨1, 0, 0, badSlotImage⟩ ∧ (parseImage badSlotImage).map (fun i => (loadSections i.secs { c with load := none }).2) = some (some 15))) ∧
    ([(1 : Byte), 0, 2, 0].length % 2 = 0 ∧ 0x3FFE + [(1 : Byte), 0, 2, 0].length / 2 ≤ 0x4000 ∧
      0x1FFFE + [(1 : Byte), 0, 2, 0].length / 2 ≤ 0x20000 ∧ 0x1FFFC + [(1 : Byte), 0, 2, 0].length ≤ 0x20000 ∧
      0x21EFC + [(1 : Byte), 0, 2, 0].length ≤ 0x21F00) := by
  (repeat' apply And.intro) <;> first | decide +kernel | (apply roomCheck_eq_none; decide +kernel) | (unfold masked; decide +kernel) | (unfold Function; decide +kernel)

/-- The head of a stage command: function and three reserved bytes, then a 4-byte field. -/
def stageBytes (f target : Nat) (x : Nat) (rest : List Byte) : List Byte := [BitVec.ofNat 8 f, BitVec.ofNat 8 target, 0, 0] ++ le 4 x ++ rest

/-- A cabinet with an open bank stage, its bank B holding what was staged. -/
def staged (g : Stage) (c : Cabinet) : Cabinet := bankWriteAt true 0 g.syls { c with stage := some g }

/-- The CRC of two syllables 1 and 2 of a bank stage, as 4 bytes each pair. -/
def sylsCrc : Nat := crc32 [1, 0, 2, 0]

theorem witness_Stages :
    (IsDue (sends 0x18 3 0 (stageBytes 1 0 1 (le 4 0))) (fun c => { c with mode := .parked, park := .stopped }) id (fun c _ =>
        c.mode = .parked ∧ field (sends 0x18 3 0 (stageBytes 1 0 1 (le 4 0))) 1 3 = 0 ∧ Function 1 (sends 0x18 3 0 (stageBytes 1 0 1 (le 4 0)))) ∧
      IsDue (sends 0x18 3 0 (stageBytes 1 1 1 (le 4 0))) id id (fun _ _ => field (sends 0x18 3 0 (stageBytes 1 1 1 (le 4 0))) 1 3 ≠ 0) ∧
      IsDue (sends 0x18 3 0 (stageBytes 1 1 1 (le 4 0))) (fun c => { c with mode := .parked, park := .stopped }) id (fun c _ =>
        c.mode = .parked ∧ Function 1 (sends 0x18 3 0 (stageBytes 1 1 1 (le 4 0)))) ∧
      IsDue (sends 0x18 3 0 (stageBytes 2 0 0 [1, 0])) (fun c => { c with mode := .parked }) id (fun _ _ => Function 2 (sends 0x18 3 0 (stageBytes 2 0 0 [1, 0]))) ∧
      IsDue (sends 0x18 3 0 [3, 0, 0, 0]) (fun c => { c with mode := .parked }) id (fun _ _ => Function 3 (sends 0x18 3 0 [3, 0, 0, 0])) ∧
      IsDue (sends 0x18 3 0 [4, 0, 0, 0]) (fun c => { c with mode := .parked }) id (fun _ _ => Function 4 (sends 0x18 3 0 [4, 0, 0, 0]))) ∧
    (IsDue (sends 0x18 3 0 (stageBytes 1 0 16385 (le 4 0))) id id (fun c _ => c.mode ≠ .parked ∧ 16384 < 16385) ∧
      IsDue (sends 0x18 3 0 (stageBytes 1 0 16384 (le 4 0))) (fun c => { c with bank := { req := true } }) id (fun c _ => c.bank.req ≠ c.bank.active) ∧
      IsDue (sends 0x18 3 0 (stageBytes 1 0 16384 (le 4 0))) (staged ⟨2, 0, []⟩) id (fun c _ => c.bank.req = c.bank.active ∧ c.stage ≠ none) ∧
      IsDue (sends 0x18 3 0 (stageBytes 1 0 1 (le 4 0))) id id (fun c _ => c.bank.req = c.bank.active ∧ c.stage = none ∧ c.load = none)) ∧
    (IsDue (sends 0x18 3 0 (stageBytes 2 0 1 [1, 0])) (staged ⟨2, 0, []⟩) id (fun c _ => c.stage = some ⟨2, 0, []⟩ ∧ 1 ≠ ([] : List (BitVec 16)).length) ∧
      IsDue (sends 0x18 3 0 (stageBytes 2 0 0 [1, 0])) (staged ⟨2, 0, []⟩) id (fun c _ => c.stage = some ⟨2, 0, []⟩) ∧
      IsDue (sends 0x18 3 0 [3, 0, 0, 0]) (staged ⟨3, sylsCrc, [1, 2]⟩) id (fun c _ => c.stage = some ⟨3, sylsCrc, [1, 2]⟩) ∧
      IsDue (sends 0x18 3 0 [3, 0, 0, 0]) (staged ⟨2, 0, [1, 2]⟩) id (fun c _ => c.stage = some ⟨2, 0, [1, 2]⟩ ∧ sylsCrc ≠ 0) ∧
      IsDue (sends 0x18 3 0 [3, 0, 0, 0]) (fun c => { c with stage := some ⟨2, sylsCrc, [1, 2]⟩ }) id (fun c _ => stageReadback ⟨2, sylsCrc, [1, 2]⟩ c = false) ∧
      IsDue (sends 0x18 3 0 [3, 0, 0, 0]) (staged ⟨2, sylsCrc, [1, 2]⟩) id (fun c _ =>
        crc32 (([1, 2] : List (BitVec 16)).flatMap (fun w => bytesOf 2 w.toNat)) = sylsCrc ∧ stageReadback ⟨2, sylsCrc, [1, 2]⟩ c = true ∧
        c.bank.req = c.bank.active) ∧
      IsDue (sends 0x18 3 0 [3, 0, 0, 0]) (fun c => staged ⟨2, sylsCrc, [1, 2]⟩ { c with bank := { req := true } }) id (fun c _ =>
        stageReadback ⟨2, sylsCrc, [1, 2]⟩ c = true ∧ c.bank.req ≠ c.bank.active ∧ c.frame.running = false ∧ c.frame.inRun = false ∧
        c.clocksRun = true ∧ c.bank.atBoundary = false) ∧
      IsDue (sends 0x18 3 0 [4, 0, 0, 0]) (staged ⟨2, 0, []⟩) id (fun c _ => c.stage = some ⟨2, 0, []⟩)) := by
  (repeat' apply And.intro) <;> first | decide +kernel | (apply roomCheck_eq_none; decide +kernel) | (unfold masked; decide +kernel) | (unfold Function; decide +kernel)

/-- A sideboard with an open FW_STAGE and what the slot holds. -/
def fwStaged (g : FwStage) (bs : List (Nat × Byte)) (d : Side) : Side := { d with store := { d.store with stage := some g, bytes := bs } }

theorem witness_Stages_firmware :
    (IsDue (sends 0xE1 0xFF 0 (stageBytes 1 3 1 (le 4 0))) id id (fun _ _ => 2 < 3) ∧
      IsDue (sends 0xE1 0xFF 0 (stageBytes 1 2 0x100001 (le 4 0))) id id (fun _ _ => 0x100000 < 0x100001) ∧
      IsDue (sends 0xE1 0xFF 0 (stageBytes 1 2 0x100000 (le 4 0))) id (fwStaged ⟨3, 1, 0, []⟩ []) (fun _ d => d.store.stage ≠ none) ∧
      IsDue (sends 0xE1 0xFF 0 (stageBytes 1 0 0x100000 (le 4 0))) id id (fun _ d => d.store.stage = none ∧ slotRead 1 (station id id).chip = false) ∧
      IsDue (sends 0xE1 0xFF 0 (stageBytes 2 2 0 [1])) id id (fun _ d => d.store.stage = none)) ∧
    (IsDue (sends 0xE1 0xFF 0 (stageBytes 2 2 1 [1])) id (fwStaged ⟨3, 1, 0, []⟩ []) (fun _ d => d.store.stage = some ⟨3, 1, 0, []⟩ ∧ (1 : Nat) ≠ 0) ∧
      IsDue (sends 0xE1 0xFF 0 (stageBytes 2 2 0 [1])) id (fwStaged ⟨3, 1, 0, []⟩ []) (fun _ d => d.store.stage = some ⟨3, 1, 0, []⟩) ∧
      IsDue (sends 0xE1 0xFF 0 [3, 2, 0, 0]) id (fwStaged ⟨3, 1, 0, []⟩ []) (fun _ d => d.store.stage = some ⟨3, 1, 0, []⟩) ∧
      IsDue (sends 0xE1 0xFF 0 [3, 2, 0, 0]) id (fwStaged ⟨3, 1, 0, [1]⟩ []) (fun _ d => d.store.stage = some ⟨3, 1, 0, [1]⟩ ∧ crc32 [1] ≠ 0) ∧
      IsDue (sends 0xE1 0xFF 0 [3, 2, 0, 0]) id (fwStaged ⟨3, 1, crc32 [1], [1]⟩ [(0x300000, 2)]) (fun _ d =>
        d.store.stage = some ⟨3, 1, crc32 [1], [1]⟩ ∧ ∃ i, i < 1 ∧ storeByte (3 * 0x100000 + i) d.store ≠ [1].getD i 0) ∧
      IsDue (sends 0xE1 0xFF 0 [3, 2, 0, 0]) id (fwStaged ⟨3, 1, crc32 [1], [1]⟩ [(0x300000, 1)]) (fun _ d =>
        d.store.stage = some ⟨3, 1, crc32 [1], [1]⟩ ∧ ∀ i, i < 1 → storeByte (3 * 0x100000 + i) d.store = [1].getD i 0) ∧
      IsDue (sends 0xE1 0xFF 0 [4, 2, 0, 0]) id (fwStaged ⟨3, 1, 0, []⟩ []) (fun _ d => d.store.stage = some ⟨3, 1, 0, []⟩)) ∧
    (IsDue (sends 0xE2 0xFF 0 (le 4 1)) id id (fun _ d => d.store.verified[Fin.ofNat 4 (1 - d.store.active)] = none) ∧
      IsDue (sends 0xE2 0xFF 0 (le 4 1)) id (fun d => { d with store := { d.store with verified := d.store.verified.set 1 (some 9) } })
        (fun _ d => d.store.verified[Fin.ofNat 4 (1 - d.store.active)] ≠ none)) := by
  (repeat' apply And.intro) <;> first | decide +kernel | (apply roomCheck_eq_none; decide +kernel) | (unfold masked; decide +kernel) | (unfold Function; decide +kernel)

/-- A cabinet's state in the sideboard's copy. -/
def copied (n : Nat) (d : Side) : Side := { d with copies := d.copies.set 3 { state := BitVec.ofNat 32 n } }

/-- An order of 8 bytes for the states LOADED and ARMED, and orders of session 5 in each state. -/
theorem witness_Orders :
    (IsDue (sends 0x30 3 4 ([0, 0, 0, 0] ++ List.replicate 8 0)) id id (fun _ _ => ¬ ((0 : Nat) ≠ 0)) ∧
      IsDue (sends 0x30 3 4 ([0x1C, 0, 0, 0] ++ List.replicate 8 0)) id (copied 0) (fun _ d => 0x1C % 4 = 0 ∧ 0x1C < 32 ∧ ¬ masked 0x1C 3 d) ∧
      IsDue (sends 0x30 3 4 ([0x10, 0, 0, 0] ++ List.replicate 8 0)) id (copied 4) (fun _ d =>
        masked 0x10 3 d ∧ d.lost[(3 : Fin 16)] = false ∧
        ∀ x ∈ ringOrders 3 4 (inProcess (sends 0x30 3 4 ([0x10, 0, 0, 0] ++ List.replicate 8 0)) d).view, x.2.state ≠ .held) ∧
      IsDue (sends 0x31 3 4 ([0x10, 0, 8, 0] ++ List.replicate 8 0)) id (fun d => copied 4 (entered .held d)) (fun _ d =>
        masked 0x10 3 d ∧ ∃ x ∈ ringOrders 3 4 (inProcess (sends 0x31 3 4 ([0x10, 0, 8, 0] ++ List.replicate 8 0)) d).view, x.2.state = .held)) ∧
    ((List.filterMap (fun st => (namedEntry (sends 0x32 3 4 (le 4 5)) (entered st (opened {}))).map (fun x => x.2.state))
        [.accepted, .dispatched, .executed, .held, .indeterminate, .cancelled]) = [.accepted, .dispatched, .executed, .held, .indeterminate, .cancelled]) ∧
    (IsDue (sends 0x32 3 4 (le 4 6)) id (entered .held) (fun _ d => namedEntry (sends 0x32 3 4 (le 4 6)) (inProcess (sends 0x32 3 4 (le 4 6)) d).view = none) ∧
      IsDue (sends 0x32 3 4 (le 4 5)) id (entered .held) (fun _ d =>
        namedEntry (sends 0x32 3 4 (le 4 5)) (inProcess (sends 0x32 3 4 (le 4 5)) d).view = some (10, entryAt 5 .held)) ∧
      IsDue (sends 0x32 3 4 (le 4 5)) id (entered .dispatched) (fun _ d =>
        namedEntry (sends 0x32 3 4 (le 4 5)) (inProcess (sends 0x32 3 4 (le 4 5)) d).view = some (10, entryAt 5 .dispatched)) ∧
      IsDue (sends 0x33 3 4 (le 4 5)) id (entered .indeterminate) (fun _ d =>
        namedEntry (sends 0x33 3 4 (le 4 5)) (inProcess (sends 0x33 3 4 (le 4 5)) d).view = some (10, entryAt 5 .indeterminate)) ∧
      IsDue (sends 0x33 3 4 (le 4 5)) id (entered .accepted) (fun _ d =>
        namedEntry (sends 0x33 3 4 (le 4 5)) (inProcess (sends 0x33 3 4 (le 4 5)) d).view = some (10, entryAt 5 .accepted)) ∧
      IsDue (sends 0x33 3 4 (le 4 4)) id (entered .held) (fun _ d => namedEntry (sends 0x33 3 4 (le 4 4)) (inProcess (sends 0x33 3 4 (le 4 4)) d).view = none)) ∧
    (IsDue (sends 0x34 3 4 [1, 14, 0, 0, 0, 0]) id id (fun _ _ => 14 < 15) ∧
      IsDue (sends 0x34 3 4 [1, 15, 0, 0, 0, 0]) id id (fun _ d => ringOrders 3 4 (inProcess (sends 0x34 3 4 [1, 15, 0, 0, 0, 0]) d).view = []) ∧
      IsDue (sends 0x34 3 4 [1, 15, 0, 0, 0, 0]) id (entered .accepted) (fun _ d =>
        ringOrders 3 4 (inProcess (sends 0x34 3 4 [1, 15, 0, 0, 0, 0]) d).view ≠ []) ∧
      IsDue (sends 0x34 3 127 [2, 255, 1, 0xF9, 0xFF, 0x27]) id id (fun c _ => 0x27FF < 10240 ∧ assocGet 127 c.repRings = none) ∧
      IsDue (sends 0x34 3 6 [2, 15, 0, 9, 0xFF, 0xFF])
        (fun c => { c with repRings := [(6, { depth := 2, hold := false, dest := 9, session := 5, reports := [⟨2, 1, 0, []⟩] })] }) id (fun c _ =>
          ∃ x ∈ assocGet 6 c.repRings, x.reports ≠ [])) := by
  (repeat' apply And.intro) <;> first | decide +kernel | (apply roomCheck_eq_none; decide +kernel) | (unfold masked; decide +kernel) | (unfold Function; decide +kernel)

theorem witness_Orders_dispatch :
    (fun d : Side => d.serving = true ∧ liveOrders 3 4 d = (10, entryAt 5 .accepted) :: [] ∧ masked 0x0C 3 d) (copied 3 (entered .accepted (opened {}))) ∧
    (fun d : Side => d.serving = true ∧ liveOrders 3 4 d = (10, entryAt 5 .accepted) :: [] ∧ ¬ masked 0x0C 3 d) (copied 4 (entered .accepted (opened {}))) ∧
    (fun d : Side => liveOrders 3 4 d = (10, entryAt 5 .dispatched) :: []) (entered .dispatched (opened {})) ∧
    (fun d : Side => liveOrders 3 4 d = (10, entryAt 5 .held) :: []) (entered .held (opened {})) ∧
    liveOrders 3 4 (opened {}) = [] ∧ ({} : Side).serving = false ∧
    (fun d : Side => d.safe = none ∧ d.reset = none ∧ (BitVec.ofNat 32 (10 + 2 * 2 ^ 19) : Word).toNat % 2 ^ 19 = 10 ∧
      assocGet 10 d.view.ledger.entries = some (entryAt 5 .dispatched) ∧ (entryAt 5 .dispatched).gen = (BitVec.ofNat 32 (10 + 2 * 2 ^ 19) : Word).toNat / 2 ^ 19 ∧
      (entryAt 5 .dispatched).gen ≠ (10 : Word).toNat / 2 ^ 19) (entered .dispatched (opened {})) := by
  unfold masked; decide +kernel

/-- A report ring in its descriptor, with `n` reports in it. -/
def reporting (x : RepRing) (c : Cabinet) : Cabinet := { c with repRings := [(6, x)], sendQ := [6] }

theorem witness_OrderPortAndReports :
    Meets (fun c => { c with ord := { c.ord with avail := [⟨127, 99, 4, [1, 2]⟩] } }) (fun c =>
      c.ord.avail.find? (fun y => y.ring == 127) = some ⟨127, 99, 4, [1, 2]⟩ ∧ ∀ y ∈ c.ord.avail, y.ring ≠ 126) ∧
    (MayWrite 0 .machine 0x49008 99 (withCab (fun c => { c with ord := { c.ord with openTags := [(4, 99)] } })) ∧
      MayWrite 0 .machine 0x49008 98 (withCab (fun c => { c with ord := { c.ord with openTags := [(4, 99)] } })) ∧
      ∀ y ∈ [((4 : Nat), (99 : Word))], y.2 ≠ 98) ∧
    (MayWrite 0 .machine 0x49040 (BitVec.ofNat 32 (6 + 256 * 2 ^ 8 + 0xEF * 2 ^ 24)) (withCab (reporting ⟨2, false, 9, 0xFFFF, 0, [⟨1, 1, 0, []⟩], false⟩)) ∧
      MayWrite 0 .machine 0x49040 (BitVec.ofNat 32 (6 + 256 * 2 ^ 8 + 0xEF * 2 ^ 24)) (withCab (reporting ⟨1, false, 9, 0xFFFF, 0, [⟨1, 1, 0, []⟩], false⟩)) ∧
      MayWrite 0 .machine 0x49040 (BitVec.ofNat 32 (6 + 257 * 2 ^ 8 + 0xEF * 2 ^ 24)) (withCab (reporting ⟨1, false, 9, 0xFFFF, 0, [], false⟩)) ∧
      MayWrite 0 .machine 0x49040 (BitVec.ofNat 32 (6 + 256 * 2 ^ 8 + 0xEF * 2 ^ 24)) (withCab id) ∧ assocGet 6 ((withCab id).cab 0).repRings = none) ∧
    (fun (c : Cabinet) (d : Side) => cabOf d.wrrCab = 0 ∧ d.wrrSent < d.wrrWeight[(0 : Fin 16)] ∧ c.sendQ = 6 :: [] ∧
        assocGet 6 c.repRings = some ⟨2, false, 9, 5, 0, [⟨1, 1, 0, []⟩], false⟩ ∧ d.joined (ringTo 9 d) = true ∧
        (d.ring (ringTo 9 d)).quiet = true ∧ d.ringA.wrapped = false ∧ d.ringB.wrapped = false ∧ (5 : Nat) ≠ 0xFFFF ∧
        (d.session 5).isOpen = true ∧ (d.session 5).ks = some (List.replicate 16 1))
      (reporting ⟨2, false, 9, 5, 0, [⟨1, 1, 0, []⟩], false⟩ {}) { opened {} with wrrCab := 0, wrrWeight := Vector.replicate 16 1 } ∧
    (∀ j : Fin 16, ((withCab id).cab j).sendQ = []) := by
  (repeat' apply And.intro) <;> decide +kernel

/-- An item of a proposal in its eight bytes. -/
def itemBytes (code cab idx value : Nat) : List Byte := [BitVec.ofNat 8 code, BitVec.ofNat 8 cab, BitVec.ofNat 8 idx, 0] ++ le 4 value

/-- A PROTECT_PROPOSE of one item. -/
def proposes (keyOk : Nat) (item : List Byte) : Packet := sends 0x60 0xFF 0 ([1, BitVec.ofNat 8 keyOk, 0, 0] ++ sha256 item ++ item)

/-- An open proposal of a change by principal 1. -/
def proposal (c : Change) (keyOk fallen : Bool) : Proposal :=
  { number := 8, prin := 1, keyOk := keyOk, digest := List.replicate 32 7, change := c, win := 5, fallen := fallen }

/-- A sideboard with one proposal open. -/
def proposing (q : Proposal) (d : Side) : Side := { d with keyN := false, prot := { d.prot with proposals := [q], next := 9, expired := [4] } }

/-- Each setting at the ends of its indexes, and one above (18 R575). -/
theorem witness_TwoPartyProtection_items :
    settingOk ⟨1, 15, 7, 0xFFFFFFFF⟩ ∧ settingOk ⟨2, 15, 0, 0xF1FFFFFF⟩ ∧ settingOk ⟨3, 0, 0, 0x33FF⟩ ∧ settingOk ⟨4, 0, 0, 1⟩ ∧
    settingOk ⟨5, 0xFF, 31, 0xFFFFF⟩ ∧ settingOk ⟨6, 0xFF, 0, 3⟩ ∧ settingOk ⟨7, 0xFF, 0, 0x3F01⟩ ∧
    ¬ settingOk ⟨1, 15, 8, 0⟩ ∧ ¬ settingOk ⟨1, 16, 7, 0⟩ ∧ ¬ settingOk ⟨4, 0, 0, 2⟩ ∧ ¬ settingOk ⟨5, 0xFF, 32, 0⟩ ∧ ¬ settingOk ⟨8, 0, 0, 0⟩ := by
  simp [settingOk]

theorem witness_TwoPartyProtection_proposals :
    (IsDue (proposes 1 (itemBytes 3 3 0 0x3070)) id id (fun _ d =>
        field (proposes 1 (itemBytes 3 3 0 0x3070)) 1 1 ≤ 1 ∧ field (proposes 1 (itemBytes 3 3 0 0x3070)) 2 2 = 0 ∧
        sha256 ((proposes 1 (itemBytes 3 3 0 0x3070)).payload.drop 36) = ((proposes 1 (itemBytes 3 3 0 0x3070)).payload.drop 4).take 32 ∧
        item (proposes 1 (itemBytes 3 3 0 0x3070)) 0 = ⟨3, 3, 0, 0x3070⟩ ∧ field (proposes 1 (itemBytes 3 3 0 0x3070)) 39 1 = 0 ∧
        d.prot.proposals.length < 8 ∧ ∀ q ∈ d.prot.proposals, q.keyOk = false) ∧
      IsDue (proposes 2 (itemBytes 3 3 0 0x3070)) id id (fun _ _ => ¬ field (proposes 2 (itemBytes 3 3 0 0x3070)) 1 1 ≤ 1)) ∧
    (IsDue (sends 0x63 0xFF 0 ([31, 31, 3, 0] ++ sha256 (List.replicate 24 0) ++ List.replicate 24 0)) id id (fun _ d =>
        sha256 (List.replicate 24 0) = (([31, 31, 3, 0] ++ sha256 (List.replicate 24 0) ++ List.replicate 24 (0 : Byte)).drop 4).take 32 ∧
        d.prot.proposals = []) ∧
      IsDue (sends 0x63 0xFF 0 ([32, 31, 3, 0] ++ List.replicate 32 0 ++ List.replicate 24 0)) id id (fun _ _ => ¬ 32 ≤ 31)) ∧
    (IsDue (sends 0x62 0xFF 0 (le 4 8)) id (proposing (proposal (.items [⟨3, 3, 0, 0x3070⟩]) false false)) (fun _ d =>
        d.prot.proposals.find? (fun q => q.number == 8) = some (proposal (.items [⟨3, 3, 0, 0x3070⟩]) false false)) ∧
      IsDue (sends 0x62 0xFF 0 (le 4 9)) id (proposing (proposal (.items []) false false)) (fun _ d =>
        ∀ q ∈ d.prot.proposals, q.number ≠ 9)) := by
  (repeat' apply And.intro) <;> first | decide +kernel | (apply roomCheck_eq_none; decide +kernel)

/-- A PROTECT_CONFIRM of proposal 8 with its digest. -/
def confirms : Packet := sends 0x61 0xFF 0 (le 4 8 ++ List.replicate 32 7)

theorem witness_TwoPartyProtection :
    (IsDue (sends 0x61 0xFF 0 (le 4 4 ++ List.replicate 32 7)) id (proposing (proposal (.items []) false false)) (fun _ d =>
        (∀ q ∈ d.prot.proposals, q.number ≠ 4) ∧ 4 ∈ d.prot.expired) ∧
      IsDue confirms id (fun d => contexted (fun x => { x with prin := 1 }) (proposing (proposal (.items [⟨3, 3, 0, 0x3070⟩]) false false) d))
        (fun _ d => (d.session 5).prin = (proposal (.items []) false false).prin) ∧
      IsDue (sends 0x61 0xFF 0 (le 4 8 ++ List.replicate 32 6)) id (proposing (proposal (.items [⟨3, 3, 0, 0x3070⟩]) false false)) (fun _ d =>
        (d.session 5).prin ≠ 1 ∧ List.replicate 32 (6 : Byte) ≠ (proposal (.items []) false false).digest)) ∧
    (IsDue confirms id (proposing (proposal (.items [⟨3, 3, 0, 0x3070⟩]) false false)) (fun c d => (d.session 5).prin ≠ 1 ∧
        confirms.payload.drop 4 = List.replicate 32 7 ∧ d.prot.waits = [] ∧ c.frame.running = false ∧ c.protWait = []) ∧
      IsDue confirms (inMode .running) (proposing (proposal (.items [⟨1, 3, 7, 0⟩]) false false)) (fun c _ => c.frame.running = true) ∧
      IsDue confirms id (proposing (proposal (.items [⟨6, 0xFF, 0, 3⟩]) false false)) (fun _ _ => True) ∧
      IsDue confirms id (proposing (proposal (.key 31 31 true (List.replicate 24 0) []) false false)) (fun _ _ => True)) ∧
    (∀ c ∈ [Change.items [⟨3, 3, 0, 0x3070⟩], .items [⟨1, 3, 7, 0⟩], .items [⟨2, 3, 0, 0x01000000⟩], .items [⟨4, 3, 0, 1⟩], .items [⟨5, 0xFF, 31, 0⟩],
        .items [⟨6, 0xFF, 0, 3⟩], .items [⟨7, 0xFF, 0, 0x101⟩], .key 31 31 true (List.replicate 24 0) []],
      changeOk c (station id (proposing (proposal c true true))).chip = true ∧
      (fun d : Side => d.prot.pcfg.getLsbD 0 = true ∧ d.keyN = false ∧
        d.prot.proposals.find? (fun q => q.keyOk && q.fallen) = some (proposal c true true) ∧ d.prot.waits = [])
        (station id (proposing (proposal c true true))).chip.side) ∧
    changeOk (.items [⟨6, 0xFF, 0, 0⟩]) (station id id).chip = false ∧ ({} : Side).keyN = true := by
  constructor
  · (repeat' apply And.intro) <;> first | decide +kernel | (apply roomCheck_eq_none; decide +kernel)
  constructor
  · (repeat' apply And.intro) <;> first | decide +kernel | (apply roomCheck_eq_none; decide +kernel)
  · decide +kernel

/-- A sideboard with one commit. -/
def commits (m : Commit) (d : Side) : Side := { d with ledger := { d.ledger with commits := [m] } }

theorem witness_LedgerCommits :
    (∀ st ∈ [CommitStage.waiting, .intent, .marked], (fun d : Side => d.reset = none ∧ d.booted = true ∧ d.ledger.scan = false ∧
      d.ledger.commits = { stage := st, writes := [.sessE 5 8] } :: [] ∧ d.safe = none ∧ d.resetAfter = none)
      (commits { stage := st, writes := [.sessE 5 8] } (opened {}))) ∧
    (∀ rs ∈ [[Release.reply .bench [1]], [.reply .bench [1], .done 5], [.deliver 15 ⟨4, 99, 4, [1]⟩]],
      (commits { stage := .marked, writes := [], releases := rs } (opened {})).ledger.commits = { stage := .marked, writes := [], releases := rs } :: []) ∧
    (fun d : Side => (d.session 5).window = [] ∧ (d.session 5).again = []) (opened {}) ∧
    (fun d : Side => d.booted = true ∧ d.ledger.scan = true ∧ d.reset = none ∧ d.bench.held = none ∧ 524287 < 524288) { booted := true } ∧
    IsDue (sends 0xE0 0xFF 0 []) id id (fun _ _ => True) := by
  (repeat' apply And.intro) <;> first | decide +kernel | (apply roomCheck_eq_none; decide +kernel)

theorem witness_StepTakesFront : ({ pending := [.boot, .nop 3] } : State).pending = .boot :: [.nop 3] := rfl

theorem witness_IdleStepPassesACycle :
    (withCab id).pending = [] ∧ (withCab id).chip.side.reset = none ∧ ((withCab id).cab 0).clocksRun = true ∧
    ((withCab (fun c => { c with mode := .parked, park := .stopped })).cab 0).clocksRun = false ∧
    ({ chip := { side := { reset := some .watchdog } } } : State).chip.side.reset ≠ none ∧
    Meets (timed (fun t => { t with phase := true, cap := t.cap.set 7 { excess := some 5 } })) (fun c =>
      c.tmr.phase = true ∧ (c.tmr.cap[(7 : Fin 8)]).excess ≠ none) ∧
    Meets (timed id) (fun c => (∀ i : Fin 8, (c.tmr.cap[i]).excess = none) ∧ c.tmr.phase = false) := by
  (repeat' apply And.intro) <;> decide +kernel

/-- 12 R409: a full queue that is read in the tick of a capture does not overflow, and LEFT counts the capture. -/
theorem test_capture_and_read_in_one_tick :
    (fun d : Cabinet => ((d.tmr.cap[(7 : Fin 8)]).queue.length, d.tmr.ovf))
        (capPop 7 (capture 7 true (timed (fun t => { t with cap := t.cap.set 7 { cfg := 0x6C, queue := [1, 2, 3, 4] } }) {}))) =
      (4, 0) ∧
    capWord (capture 7 true (timed (fun t => { t with cap := t.cap.set 7 { cfg := 0x6C, queue := [1, 2, 3, 4] } }) {})).tmr.cap[(7 : Fin 8)] =
      0x41 ∧
    (beginTick 1 (capture 7 true (timed (fun t => { t with cap := t.cap.set 7 { cfg := 0x6C, queue := [1, 2, 3, 4] } }) {}))).tmr.ovf = 0x80 := by
  decide +kernel

theorem witness_StepKeepsMemoriesCanonical :
    MemsCanonical { pending := [.boot] } ∧ ∃ t, step { pending := [.boot] } = .next t :=
  ⟨by unfold MemsCanonical Chip.memsWf; decide +kernel, _, rfl⟩

/-- An instruction that its core executes: its one cabinet, and the next state it answers. -/
theorem witness_OtherCabinetsUntouched :
    actsOn (.add 15 1 2) = some 15 ∧ ∃ t, exec (.add 0 1 2) (withCab (fun c => placed [short 0x0 0 1 2] (started c))) = .next t :=
  ⟨rfl, _, rfl⟩

/-- Pair 3 in mode 2 with NOIL and both outputs forced active; the same without exemption; and a released pair whose reference asks for one
output (09 R313, R314, R322). -/
theorem witness_OutputInterlock :
    (fun c : Cabinet => ((pairSettle 3 c).pwm.pair[(3 : Fin 4)]).a.active = true ∧ ((pairSettle 3 c).pwm.pair[(3 : Fin 4)]).b.active = true)
      { latch := true, pwm := { safe := 0x80000000 ||| 0x5000, pair := Vector.replicate 4 { cfg := 2, a := { active := true }, b := { active := true } } } } ∧
    (fun c : Cabinet => ((pairSettle 3 c).pwm.pair[(3 : Fin 4)]).a.active = true ∧ ((pairSettle 3 c).pwm.pair[(3 : Fin 4)]).b.active = false)
      { latch := true, pwm := { safe := 0x5000, pair := Vector.replicate 4 { cfg := 1 } } } ∧
    (fun c : Cabinet => ¬ (c.latch = true ∨ c.pwm.enN = true ∨ c.pwm.rel = false) ∧ ((pairSettle 3 c).pwm.pair[(3 : Fin 4)]).a.asks = false ∧
      ((pairSettle 3 c).pwm.pair[(3 : Fin 4)]).b.asks = true) { pwm := { rel := true } } := by
  decide +kernel

/-! ## Well-formedness: each check refuses a term, and takes the one at its bound -/

theorem test_wellFormed_registerWrite :
    Instr.wellFormed (.registerWrite 0 .machine 0x3FFFC 0) = false ∧ Instr.wellFormed (.registerWrite 0 .machine 0x4B000 0) = false ∧
    Instr.wellFormed (.registerWrite 0 .machine 0x40002 0) = false ∧ Instr.wellFormed (.registerWrite 0 .machine 0x4AFFC 0) = true := by
  decide +kernel

theorem test_wellFormed_numbers :
    Instr.wellFormed (.trackerUpdate 0 false [21600001]) = false ∧ Instr.wellFormed (.trackerUpdate 0 false [-21600000, 21600000]) = true ∧
    Instr.wellFormed (.seqResult 0 7 21600001) = false ∧ Instr.wellFormed (.seqResult 0 7 (-21600000)) = true ∧
    Instr.wellFormed (.comparatorAssert 0 7 true (-21600001)) = false ∧ Instr.wellFormed (.comparatorDeassert 0 7 true (-21600001)) = false ∧
    Instr.wellFormed (.sampleInstant 0 (Vector.replicate 8 21600001)) = false ∧ Instr.wellFormed (.sampleInstant 0 (Vector.replicate 8 21600000)) = true ∧
    Instr.wellFormed (.reply .a 0 65536) = false ∧ Instr.wellFormed (.reply .a 0 65535) = true ∧
    Instr.wellFormed (.report .a 0 65536) = false ∧ Instr.wellFormed (.report .a 0 65535) = true ∧
    Instr.wellFormed (.recoveryScan [524288]) = false ∧ Instr.wellFormed (.recoveryScan [524287]) = true ∧
    Instr.wellFormed (.confirmationWindowExpiry (2 ^ 32)) = false ∧ Instr.wellFormed (.confirmationWindowExpiry (2 ^ 32 - 1)) = true ∧
    Instr.wellFormed (.stewardCoreFault 1 (some 65536)) = false ∧ Instr.wellFormed (.stewardCoreFault 1 (some 65535)) = true ∧
    Instr.wellFormed (.extest (some [(128, 0)])) = false ∧ Instr.wellFormed (.extest (some [(0, 3)])) = false ∧
    Instr.wellFormed (.extest (some [(127, 2)])) = true := by
  decide +kernel

theorem test_wellFormed_samples :
    Instr.wellFormed (.trackerUpdate 0 false (List.replicate 1006 0)) = false ∧ Instr.wellFormed (.trackerUpdate 0 false (List.replicate 1005 0)) = true := by
  decide +kernel

theorem test_wellFormed_command : Instr.wellFormed (.command .a 0 (List.replicate 65536 0)) = false := by
  have h : (List.replicate 65536 (0 : Byte)).length = 65536 := List.length_replicate
  simp only [Instr.wellFormed, h]; decide

theorem test_wellFormed_frame :
    frameWellFormed { dst := 256, src := 0, kind := 0 } = false ∧ frameWellFormed { dst := 0, src := 256, kind := 0 } = false ∧
    frameWellFormed { dst := 0, src := 0, kind := 256 } = false ∧ frameWellFormed { dst := 255, src := 255, kind := 255 } = true ∧
    Instr.wellFormed (.frameForward .a { dst := 256, src := 0, kind := 0 } false) = false := by
  decide +kernel

theorem test_wellFormed_frame_payload : frameWellFormed { dst := 0, src := 0, kind := 0, payload := List.replicate 65536 0 } = false := by
  have h : (List.replicate 65536 (0 : Byte)).length = 65536 := List.length_replicate
  simp only [frameWellFormed, h]; decide

theorem test_wellFormed_packet :
    Instr.wellFormed (.cabArm { port := .ring .a 256 }) = false ∧ Instr.wellFormed (.cabArm { port := .bench, session := 65536 }) = false ∧
    Instr.wellFormed (.cabArm { port := .bench, cab := 256 }) = false ∧ Instr.wellFormed (.cabArm { port := .bench, ring := 256 }) = false ∧
    Instr.wellFormed (.cabArm { port := .ring .a 255, session := 65535, cab := 255, ring := 255 }) = true := by
  decide +kernel

theorem test_wellFormed_packet_payload : packetWellFormed { port := .bench, payload := List.replicate 65536 0 } = false := by
  have h : (List.replicate 65536 (0 : Byte)).length = 65536 := List.length_replicate
  simp only [packetWellFormed, h]; decide

/-- spec/opcode_table.json gives no row bits. -/
theorem test_no_word_spells_a_command (n w : Nat) : decodeTableWord n w = none := rfl

/-! ## Single steps: the results are worked out from the rules named -/

/-- Cabinet 0 after one command. -/
def ran (i : Instr) (f : Cabinet → Cabinet) : Option Cabinet :=
  match exec i (withCab f) with
  | .next t => some (t.cab 0)
  | _ => none

/-- The same of an instruction with its syllables. -/
def ranCore (ws : List Syl) (i : Instr) (f : Cabinet → Cabinet) : Option Cabinet := ran i (fun c => placed ws (f c))

/-- The sideboard after one command. -/
def ranSide (i : Instr) (g : Side → Side) : Option Side :=
  match exec i (withSide id g) with
  | .next t => some t.chip.side
  | _ => none

/-- Flags V, C, N, Z as a number (03: the PSW card). -/
def flagBits (c : Cabinet) : Nat := (getFlags c).toNat % 16

/-- 04 R130: the largest positive word plus 1 overflows to the most negative one: V and N, no carry. -/
theorem test_add_overflows :
    (ranCore addW (.add 0 1 2) (startedWith 0x7FFFFFFF 1)).map (fun c => (getD 1 c, flagBits c, c.core.pc)) = some (0x80000000, 0b1010, 1) := by
  decide +kernel

/-- 04 R130: 0 − 1 borrows: C clear, N set. -/
theorem test_sub_borrows : (ranCore [short 0x0 1 1 2] (.sub 0 1 2) (startedWith 0 1)).map (fun c => (getD 1 c, flagBits c)) = some (0xFFFFFFFF, 0b0010) := by
  decide +kernel

/-- 04 R130: SAR of 0x8000_0001 by 1: the bit shifted out is C. -/
theorem test_sar : (ranCore [short 0x2 2 1 2] (.sar 0 1 2) (startedWith 0x80000001 1)).map (fun c => (getD 1 c, flagBits c)) = some (0xC0000000, 0b0110) := by
  decide +kernel

/-- 03 R112: MAC.Q of ½ × ½ adds ¼, 2^61 in units of 2^−63. -/
theorem test_mac_q :
    (ranCore [short 0x4 0 1 2] (.macQ 0 0 1 2) (startedWith 0x40000000 0x40000000)).map (fun c => getAcc 0 c) = some (BitVec.ofNat 72 (2 ^ 61)) := by
  decide +kernel

/-- 03 R111, 04 R132: −1 × −1 saturates to the largest fraction. -/
theorem test_mulq_saturates : (ranCore [short 0x5 0 1 2] (.mulqS 0 1 2) (startedWith 0x80000000 0x80000000)).map (fun c => getD 1 c) = some 0x7FFFFFFF := by
  decide +kernel

/-- 04 R146: −5 / 0 is the negative limit, with V. -/
theorem test_div_by_zero : (ranCore divW (.div 0 1 2) (startedWith 0xFFFFFFFB 0)).map (fun c => (getD 1 c, flagBits c)) = some (0x80000000, 0b1010) := by
  decide +kernel

/-- 04 R143: 1.0 + 1.0. -/
theorem test_fadd : (ranCore [short 0xA 0 1 2] (.fadd 0 1 2) (startedWith 0x3F800000 0x3F800000)).map (fun c => getD 1 c) = some 0x40000000 := by decide +kernel

/-- 05 R182: a store waits in the store buffer; R183: it drains little-endian. -/
theorem test_store_then_drain :
    (ranCore [BitVec.ofNat 14 (0x6 * 2 ^ 10 + 1 * 2 ^ 9 + 1 * 2 ^ 5 + 2 * 2 ^ 2 + 1)] (.st 0 1 2 .inc) (fun c => setA 2 0x100 (startedWith 0x04030201 0 c))).map (fun c =>
      (c.pipe.sbuf, getA 2 c)) = some ([⟨0x100, 4, 0x04030201, .machine⟩], 0x104) ∧
    (ran (.storeDrain 0) (storing ⟨0x100, 4, 0x04030201, .machine⟩)).map (fun c =>
      (c.pipe.sbuf, [0x100, 0x101, 0x102, 0x103].map (memByte c))) = some ([], [1, 2, 3, 4]) := by
  decide +kernel

/-- 04 R162, 06 R227: SYS retires, and its trap waits with vector 11. -/
theorem test_sys_traps : (ranCore (sysW 1) (.sys 0) started).map (fun c => (c.pipe.trap.map (·.vec), c.core.pc)) = some (some 11, 1) := by decide +kernel

/-- 04 R140: BEQ is not taken with Z clear, BNE is, backwards by 32. -/
theorem test_branches :
    (ranCore [BitVec.ofNat 14 (0x7 * 2 ^ 10 + 1 * 2 ^ 6 + 0x20)] (.bcc 0 1 0x20) started).map (fun c => c.core.pc) = some 1 ∧
    (ranCore [BitVec.ofNat 14 (0x7 * 2 ^ 10 + 2 * 2 ^ 6 + 0x20)] (.bcc 0 2 0x20)
      (fun c => let c := started c; { c with core := { c.core with pc := 33 } })).map (fun c => c.core.pc) = some 1 := by
  decide +kernel

/-- 03 R123, 06 R227: a syllable that no table assigns waits as an illegal-instruction fault, whatever instruction is commanded; the words of
another instruction leave the row without effect (log 7). -/
theorem test_illegal_encoding :
    (ranCore [0x3FFF] (.add 0 1 2) started).map (fun c => (c.pipe.fault.map (·.vec), c.core.pc)) = some (some 3, 0) ∧
    (ranCore addW (.sub 0 1 2) (startedWith 5 3)).map (fun c => (getD 1 c, c.core.pc)) = some (5, 0) := by
  decide +kernel

/-- 08 R257: +0.5 V and ±1 V in units of 125 nV before the converter's errors, and one code either side of half a step; 08 R293: DAC code 1023
is the converter code 511 × 16. -/
theorem test_codes :
    [4000000, 8000000, -8000000, 488, 489].map idealCode = [4096, 8192, -8192, 0, 1] ∧ limitCode 8192 = 0x1FFF ∧ limitCode (-8193) = 0x2000 ∧
    idealCode (dacLevel 1023) = 8176 := by
  decide +kernel

/-- 12 R414: a claim with nothing pending reads 0x8000_0000. -/
theorem test_claim_nothing : (ran (.icuClaimRead 0) id).map (fun c => c.rdata) = some 0x80000000 := by decide +kernel

/-- 01 R39, R40: 130 °C, 520 quarters of a degree, enters the chip safe state once firmware runs. -/
theorem test_overtemperature :
    (ranSide (.temperatureSample 520) opened).map (fun d => d.safe) = some (some .temperature) ∧
    (ranSide (.temperatureSample 519) opened).map (fun d => d.safe) = some none := by
  decide +kernel

/-- 15 R501: a WRITE before firmware runs is overrun. -/
theorem test_bench_write_before_boot : (ranSide (.write [0, 0]) id).map (fun d => (d.bench.ovr, d.bench.busy)) = some (true, false) := by
  decide +kernel

/-- 16 R511: NOP answers status 0 (byte 16 of the reply, behind the header of R506) on the bench port. -/
theorem test_nop_replies :
    (ranSide (.nopCommand { port := .bench, cab := 0xFF, unauth := true }) opened).map (fun d => d.bench.replies) =
      some [[0x91, 0, 0, 0, 0, 0, 0, 0, 0xFF, 0, 0, 0, 0, 0, 0, 0, 0]] := by
  decide +kernel

/-- The queue is first in, first out. -/
theorem test_step_takes_the_front :
    (match step { pending := [.keyNFall, .boot] } with
      | .next t => some (t.pending, t.chip.side.keyN, t.chip.side.booted)
      | _ => none) = some ([.boot], false, false) := by
  decide +kernel

end Sys2Proof.Tests
end

/-!
# Writes of registers by software

What the drain write of a store and a command of one cabinet do, and the rows that are such a write (00 R8, R10; 06 R654).
-/
namespace Sys2Proof.Machine
open Sys2Proof.Claims

/-- A command of a cabinet that takes commands leaves that cabinet as its operation does (19 R599). -/
theorem cabNext_live (k : Fin 16) (f : Cabinet → Cabinet) (s : State) (hs : Live k s) :
    cabNext k f s = .next { s with chip := settleCab k (f (s.cab k)) s.chip } := by
  obtain ⟨hreset, -⟩ := hs
  simp only [cabNext, chipNext, Chip.runCab, hreset, Option.isSome_none, Bool.false_eq_true, if_false]

theorem drainRegister_violates (e : StoreEntry) (c : Cabinet) (h : regViolates e.level e.addr e.data c = true) :
    drainRegister e c =
      { c with pipe := { c.pipe with violation := c.pipe.violation ++ [(e.level, BitVec.ofNat 32 e.addr)] } } := by
  simp [drainRegister, h, natAt]

theorem drainRegister_allowed (e : StoreEntry) (c : Cabinet) (h : regViolates e.level e.addr e.data c = false) :
    drainRegister e c = regApply false e.addr e.data c := by
  simp [drainRegister, h]

theorem softWrite_beyond (l : Level) (a : Nat) (w : Word) (c : Cabinet) (h : softReach l a c = false) :
    softWrite l a w c = c := by
  simp [softWrite, h]

theorem softWrite_within (l : Level) (a : Nat) (w : Word) (c : Cabinet) (h : softReach l a c = true) :
    softWrite l a w c = drainRegister ⟨a, 4, w, l⟩ c := by
  simp [softWrite, h]

/-- The command `i` is a write by software, at level `l`, of the word `w` to the register at `a` of cabinet `k`. -/
def WritesRegister (k : Fin 16) (l : Level) (i : Instr) (a : Nat) (w : Word) : Prop :=
  ∀ s, exec i s = cabNext k (softWrite l a w) s

section
variable {k : Fin 16} {l : Level} {i : Instr} {a : Nat} {w : Word} {s : State}

theorem WritesRegister.acts (hw : WritesRegister k l i a w) (hs : Live k s) : Acts k i s (softWrite l a w (s.cab k)) :=
  (hw s).trans (cabNext_live k _ s hs)

theorem WritesRegister.acts_beyond (hw : WritesRegister k l i a w) (hs : Live k s) (hr : softReach l a (s.cab k) = false) :
    Acts k i s (s.cab k) := by
  simpa only [softWrite_beyond l a w _ hr] using hw.acts hs

theorem WritesRegister.acts_violation (hw : WritesRegister k l i a w) (hs : Live k s) (hr : softReach l a (s.cab k) = true)
    (hv : regViolates l a w (s.cab k) = true) :
    Acts k i s { s.cab k with
      pipe := { (s.cab k).pipe with violation := (s.cab k).pipe.violation ++ [(l, BitVec.ofNat 32 a)] } } := by
  simpa only [softWrite_within l a w _ hr, drainRegister_violates ⟨a, 4, w, l⟩ _ hv] using hw.acts hs

theorem WritesRegister.acts_apply (hw : WritesRegister k l i a w) (hm : MayWrite k l a w s) :
    Acts k i s (regApply false a w (s.cab k)) := by
  obtain ⟨hs, hr, hv⟩ := hm
  simpa only [softWrite_within l a w _ hr, drainRegister_allowed ⟨a, 4, w, l⟩ _ hv] using hw.acts hs

end

/-- Settles O25: each of the twenty rows is a write by software to the register that the list gives it, and such a write is no write,
a pending violation, or the drain write of its store. -/
theorem softwareWrites : Obligations.SoftwareWrites := by
  intro k l a w n m q tag s hs f hf
  have row : WritesRegister k l f.1 f.2.1 f.2.2 := by
    intro s
    simp only [List.mem_cons, List.not_mem_nil, or_false] at hf
    rcases hf with rfl | rfl | rfl | rfl | rfl | rfl | rfl | rfl | rfl | rfl | rfl | rfl | rfl | rfl | rfl | rfl | rfl | rfl | rfl | rfl <;> rfl
  exact ⟨row.acts_beyond hs, row.acts_violation hs, row.acts_apply⟩

end Sys2Proof.Machine

/-!
# What reset holds

Fresh cabinets, and the protection store and the health counters as manufactured.
-/
namespace Sys2Proof.Machine

/-- At reset a cabinet holds the default of every field, and its number. -/
theorem reset_cab (k : Fin 16) : State.reset.cab k = { id := k } := by
  simp [State.reset]

/-- At manufacture every key slot but slot 0 is empty, and every permission word but that of principal 0 is 0 (18 R574). -/
theorem prot_made_other (n : Fin 32) (h : n ≠ 0) : (({} : Prot).slots[n]).full = false ∧ ({} : Prot).perm[n] = 0 := by
  have hn : (0 : Nat) ≠ n := fun e => h (Fin.ext e.symm)
  simp [hn]

/-- At manufacture the counters select the events of 19 R624. -/
theorem health_made_sel (n : Fin 32) : ({} : Health).sel[n] = hselMade.getD n 0 := by
  simp

theorem health_made_count (n : Fin 32) : ({} : Health).count[n] = 0 := by
  simp

/-- Settles O56: each cabinet at reset is a fresh one with its number, whose registers read as their cards say, and the sideboard is as
manufactured. -/
theorem resetValues : Obligations.ResetValues := by
  refine ⟨fun k => ?cabinet, rfl, rfl, rfl, rfl, rfl, rfl, rfl, rfl, rfl, rfl, rfl, rfl, rfl, prot_made_other,
    health_made_sel 0, health_made_sel 6, health_made_sel 31, health_made_count, rfl⟩
  case cabinet =>
    rw [reset_cab k]
    refine ⟨rfl, rfl, rfl, rfl, rfl, rfl, rfl, rfl, rfl, rfl, rfl, ?registers⟩
    case registers => decide +kernel +revert

end Sys2Proof.Machine
